-- ==== Sys2Proof/Word.lean ====
section
/-! DEFINITION. Words and the sparse tables in which the state keeps indexed data. -/

namespace Sys2Proof

/-- A scalar register (R84). -/
abbrev Word := BitVec 64

/-- The smallest addressable unit (R2). -/
abbrev Byte := BitVec 8

/-- The number of a scalar register, s0 to s15 (R84). -/
abbrev Reg := BitVec 4

/-- The number 4N + r of a row tN.r (R111). -/
abbrev RowId := BitVec 5

/-- A row of 256 bytes (R89): byte k is bits 8k+7 to 8k. -/
abbrev Row := BitVec 2048

/-- An indexed collection: pairs of an index and a value, indexes rising; an index that is not listed is absent. -/
abbrev Tbl (α : Type) := List (Nat × α)

namespace Tbl

/-- The value listed at an index. -/
def get? {α : Type} : Tbl α → Nat → Option α
  | [], _ => none
  | (i, x) :: t, k => if i = k then some x else get? t k

/-- The value at an index, a given value where none is listed. -/
def getD {α : Type} (t : Tbl α) (k : Nat) (dflt : α) : α := (t.get? k).getD dflt

/-- List a value at an index, in its place. -/
def set {α : Type} : Tbl α → Nat → α → Tbl α
  | [], k, x => [(k, x)]
  | (i, y) :: t, k, x =>
    if k < i then (k, x) :: (i, y) :: t
    else if k = i then (k, x) :: t
    else (i, y) :: set t k x

/-- Take an index out. -/
def drop {α : Type} (t : Tbl α) (k : Nat) : Tbl α := t.filter fun e => e.1 != k

end Tbl

end Sys2Proof
end

