-- ==== Sys2Proof/Config.lean ====
section
/-! DEFINITION. The values that the manual leaves open and the functions that an implementation or a secret key fixes. None has a body: nothing can be proved of their values. -/

namespace Sys2Proof.Config

/-- Free values (log 2): the n-th value that the manual does not state. -/
opaque freeWord : Nat → BitVec 64

/-- The pair of AES-256 keys with a serial, the first in the low half (R183, R316): secret (log 7). -/
opaque keyPair : Nat → BitVec 512

/-- How far the local counter of a die (R310), by its number, runs ahead of package time from an instant on: no rule gives an oscillator's error (log 139). -/
opaque dieDrift : Nat → Nat → Int

/-- The integrity key with a serial (R184): secret (log 7). -/
opaque integrityKey : Nat → BitVec 256

/-- STAGE of the record that holds a root's leaf (R75): where in the staging area its scheduler puts it (log 155). -/
opaque stageOffset : Nat → Nat → BitVec 40

/-- Whether the members of a TBAQ at L5, by its completion number, give it different shapes or formats (R407): what the other panels issue is not known here (log 44). -/
opaque membersDiffer : Nat → Bool

/-- GSROFF of that record (R75) (log 155). -/
opaque groupOffset : Nat → Nat → BitVec 56

/-- ML-DSA-65 verification of the unlock token (R317): public key, message digest, signature (log 8). -/
opaque mldsaVerify : List (BitVec 8) → BitVec 256 → List (BitVec 8) → Bool

/-- The signature that the device identity key makes over a message (R314) (log 8). -/
opaque identitySign : List (BitVec 8) → List (BitVec 8)

/-- The certificate chain of the device identity key (R297, R314) (log 8). -/
opaque certificate : List (BitVec 8)

/-- The CRC-64 of a flit (R300), whose polynomial the manual does not give (log 9). -/
opaque crc64 : List (BitVec 8) → BitVec 64

/-- The ROM digest that the trust die reads from a die at power-on (R313, R314): die number (log 8). -/
opaque romDigest : Nat → BitVec 256

end Sys2Proof.Config
end

