-- ==== Sys2Proof/Syntax.lean ====
section
/-! DEFINITION. The instructions and the device events: one constructor per row of the opcode table. The first 172 are the heads of R120 to R142; the others are the steps of the panel's other agents, whose arguments are what the outside world, nature or the firmware supplies. -/

namespace Sys2Proof

/-- The precisions of scalar floating point (R127). -/
inductive Prec where
  | f64 | f32 | bf16 | f16
  deriving DecidableEq, Repr

/-- The sources of FCVT (R127, R359). -/
inductive CvtSrc where
  | fp (p : Prec) | sint | uint
  deriving DecidableEq, Repr

/-- The sign operations of FSGN (R358). -/
inductive SgnMode where
  | copy | invert | xor
  deriving DecidableEq, Repr

/-- The element formats (R143). `b w` is block FP of mantissa width w + 2. -/
inductive Fmt where
  | raw | f32 | bf16 | f16 | e4m3 | e5m2 | e2m1 | e4m3s | e5m2s | e2m1s
  | i32 | n32 | i16 | n16 | i8 | n8
  | b (w : Fin 7)
  deriving DecidableEq, Repr

/-- The float operand formats of a product (R139). -/
inductive FloatAB where
  | bf16 | e4m3s | e5m2s | e2m1s
  deriving DecidableEq, Repr

/-- The levels of a tile instruction or a fence (R61). -/
inductive Level where
  | l0 | l1 | l2 | l3 | l4 | l5
  deriving DecidableEq, Repr

/-- The width codes of LD and ST (R372). -/
inductive MemWidth where
  | d64 | i32 | n32 | i16 | n16 | i8 | n8
  deriving DecidableEq, Repr

/-- The width code of an atomic (R334). -/
inductive AWidth where
  | w64 | w32
  deriving DecidableEq, Repr

/-- The operation of an atomic or of ARMW (R334, R341). -/
inductive AtomOp where
  | add | min | max | minu | maxu | and | or | xor | swp | cas | fadd32 | fadd64
  deriving DecidableEq, Repr

/-- The kinds of WID (R459). -/
inductive WidKind where
  | field | group | extent | pos
  deriving DecidableEq, Repr

/-- The two mailbox instances (R295). -/
inductive Inst where
  | host | side
  deriving DecidableEq, Repr

/-- Whose translations an access uses (R177): a core's, a cluster's, those of a chiplet's copy engines and decomposer, or those of the command processor and the log writers, which keep none. -/
inductive Agent where
  | core (n : Nat)
  | cluster (pcn : Nat)
  | chiplet (c : Nat)
  | device
  deriving DecidableEq, Repr

/-- A walk in a chiplet: the chiplet, and the agents whose misses it serves (R177). -/
structure Walk where
  chip : Nat
  misses : List Agent
  deriving DecidableEq, Repr

/-- A host write of a register: how many bytes it has, and its value (R292). -/
structure HostWord where
  size : Nat
  val : BitVec 64
  deriving DecidableEq, Repr

/-- How a self-test ends: failed, passed only at reduced timing margin (R286), passed. -/
inductive TestResult where
  | failed | reduced | passed
  deriving DecidableEq, Repr

/-- Instructions and device events. -/
inductive Instr where
  -- format H (R125)
  | nop | exit | yield | yieldRel | suspend | suspendRel | pin | quiet
  | brk (n : BitVec 4)
  | tack | tretResume | tretAbandon | idle | uwseal | ifence
  -- integer register operations (R126, R338, R380)
  | add (d a b : Reg) | sub (d a b : Reg) | mul (d a b : Reg) | mulh (d a b : Reg) | mulhu (d a b : Reg)
  | div (d a b : Reg) | divu (d a b : Reg) | rem (d a b : Reg) | remu (d a b : Reg)
  | and (d a b : Reg) | or (d a b : Reg) | xor (d a b : Reg)
  | shl (d a b : Reg) | shr (d a b : Reg) | sha (d a b : Reg)
  | slt (d a b : Reg) | sltu (d a b : Reg)
  | min (d a b : Reg) | minu (d a b : Reg) | max (d a b : Reg) | maxu (d a b : Reg)
  | clz (d a : Reg) | ctz (d a : Reg) | popc (d a : Reg) | sel (d a b c : Reg)
  -- scalar floating point (R127, R357)
  | fadd (p : Prec) (d a b : Reg) | fsub (p : Prec) (d a b : Reg) | fmul (p : Prec) (d a b : Reg)
  | ffma (p : Prec) (d a b c : Reg) | fdiv (p : Prec) (d a b : Reg) | fsqrt (p : Prec) (d a : Reg)
  | fmin (p : Prec) (d a b : Reg) | fmax (p : Prec) (d a b : Reg) | fcmp (p : Prec) (d a b : Reg)
  | fclass (p : Prec) (d a : Reg) | fsgn (p : Prec) (m : SgnMode) (d a b : Reg)
  | fcvt (p : Prec) (src : CvtSrc) (d a : Reg) | fcvtSint (src : Prec) (d a : Reg) | fcvtUint (src : Prec) (d a : Reg)
  -- control, strands, synchronisation (R128)
  | jalr (d a : Reg) | wake (a : Reg) | waitc (d a b : Reg) | spawn (d a b : Reg) | ltrig
  | qpush (d a b : Reg) | qpop (d a b : Reg) | evsig (a : Reg)
  | fenceL1 | fenceL2 | fenceL3 | fenceL4 | fenceL5
  | fencei (l5 : Bool) (d : Reg) | fencew (l5 : Bool) (a : Reg)
  -- engines (R129)
  | get (w : BitVec 2) (d a b c : Reg) | put (w : BitVec 2) (d a b c : Reg)
  | tcpy (w : BitVec 2) (a b c : Reg) | tcpya (w : BitVec 2) (d a b c : Reg)
  | armw (w : BitVec 2) (op : AtomOp) (d a b : Reg)
  -- system and undo (R130)
  | trap (a : Reg) | csrr (d a : Reg) | csrw (a b : Reg) | asgen (d : Reg) | maprd (d a : Reg)
  | uwopen (d : Reg) | uwnum (d : Reg) | trec (a b : Reg)
  -- atomics and WAITA (R134, R334, R455)
  | aadd (w : BitVec 2) (n : AWidth) (d a b : Reg) (imm : BitVec 16)
  | amin (w : BitVec 2) (n : AWidth) (d a b : Reg) (imm : BitVec 16)
  | amax (w : BitVec 2) (n : AWidth) (d a b : Reg) (imm : BitVec 16)
  | aminu (w : BitVec 2) (n : AWidth) (d a b : Reg) (imm : BitVec 16)
  | amaxu (w : BitVec 2) (n : AWidth) (d a b : Reg) (imm : BitVec 16)
  | aand (w : BitVec 2) (n : AWidth) (d a b : Reg) (imm : BitVec 16)
  | aor (w : BitVec 2) (n : AWidth) (d a b : Reg) (imm : BitVec 16)
  | axor (w : BitVec 2) (n : AWidth) (d a b : Reg) (imm : BitVec 16)
  | aswp (w : BitVec 2) (n : AWidth) (d a b : Reg) (imm : BitVec 16)
  | acas (w : BitVec 2) (n : AWidth) (d a b : Reg) (imm : BitVec 16)
  | afaddF32 (w : BitVec 2) (d a b : Reg) (imm : BitVec 16)
  | afaddF64 (w : BitVec 2) (d a b : Reg) (imm : BitVec 16)
  | waita (w : BitVec 2) (d a b : Reg) (imm : BitVec 16)
  -- integer immediates (R131)
  | addi (d a : Reg) (imm : BitVec 16) | andi (d a : Reg) (imm : BitVec 16) | ori (d a : Reg) (imm : BitVec 16)
  | xori (d a : Reg) (imm : BitVec 16)
  | shli (d a : Reg) (e : BitVec 6) | shri (d a : Reg) (e : BitVec 6) | shai (d a : Reg) (e : BitVec 6)
  | slti (d a : Reg) (imm : BitVec 16)
  | bfx (d a : Reg) (p w1 : BitVec 6) | bfxu (d a : Reg) (p w1 : BitVec 6) | bfi (d a : Reg) (p w1 : BitVec 6)
  | wid (d a : Reg) (i : Fin 6) (k : WidKind)
  -- branches (R132)
  | beq (a b : Reg) (imm : BitVec 16) | bne (a b : Reg) (imm : BitVec 16) | blt (a b : Reg) (imm : BitVec 16)
  | bge (a b : Reg) (imm : BitVec 16) | bltu (a b : Reg) (imm : BitVec 16) | bgeu (a b : Reg) (imm : BitVec 16)
  | loop (d : Reg) (imm : BitVec 16)
  -- scalar memory (R133)
  | ld (w : BitVec 2) (n : MemWidth) (d a : Reg) (imm : BitVec 16)
  | ldp (w : BitVec 2) (d a b : Reg) (imm : BitVec 16)
  | st (w : BitVec 2) (n : MemWidth) (d a : Reg) (imm : BitVec 16)
  | stp (w : BitVec 2) (d a b : Reg) (imm : BitVec 16)
  -- long immediates (R137)
  | jmp (imm : BitVec 32) | jal (d : Reg) (imm : BitVec 32) | lim (hi : Bool) (d : Reg) (imm : BitVec 32)
  -- row operations (R135)
  | vadd (x : Bool) (f : Fmt) (c : Reg) (rd ra rb : RowId) | vsub (x : Bool) (f : Fmt) (c : Reg) (rd ra rb : RowId)
  | vmul (x : Bool) (f : Fmt) (c : Reg) (rd ra rb : RowId) | vfma (x : Bool) (f : Fmt) (c : Reg) (rd ra rb : RowId)
  | vdiv (x : Bool) (f : Fmt) (c : Reg) (rd ra rb : RowId) | vmin (x : Bool) (f : Fmt) (c : Reg) (rd ra rb : RowId)
  | vmax (x : Bool) (f : Fmt) (c : Reg) (rd ra rb : RowId) | vabs (x : Bool) (f : Fmt) (c : Reg) (rd ra : RowId)
  | vsgn (x : Bool) (f : Fmt) (c : Reg) (rd ra rb : RowId) | vand (x : Bool) (f : Fmt) (c : Reg) (rd ra rb : RowId)
  | vor (x : Bool) (f : Fmt) (c : Reg) (rd ra rb : RowId) | vxor (x : Bool) (f : Fmt) (c : Reg) (rd ra rb : RowId)
  | vshl (x : Bool) (f : Fmt) (a c : Reg) (rd ra rb : RowId) | vshr (x : Bool) (f : Fmt) (a c : Reg) (rd ra rb : RowId)
  | vsha (x : Bool) (f : Fmt) (a c : Reg) (rd ra rb : RowId) | vcmp (x : Bool) (f : Fmt) (a c : Reg) (rd ra rb : RowId)
  | vsel (x : Bool) (f : Fmt) (c : Reg) (rd ra rb : RowId) | vcvt (x : Bool) (df sf : Fmt) (a c : Reg) (rd ra : RowId)
  | vrcp (x : Bool) (f : Fmt) (c : Reg) (rd ra : RowId) | vrsq (x : Bool) (f : Fmt) (c : Reg) (rd ra : RowId)
  | vexp2 (x : Bool) (f : Fmt) (c : Reg) (rd ra : RowId) | vlog2 (x : Bool) (f : Fmt) (c : Reg) (rd ra : RowId)
  | vrsum (f : Fmt) (a c : Reg) (ra : RowId) | vrmax (f : Fmt) (a c : Reg) (ra : RowId) | vrmin (f : Fmt) (a c : Reg) (ra : RowId)
  | vscan (x : Bool) (f : Fmt) (a c : Reg) (rd ra : RowId) | vperm (x : Bool) (f : Fmt) (c : Reg) (rd ra rb : RowId)
  | vbcast (x : Bool) (f : Fmt) (a c : Reg) (rd : RowId) | vext (x : Bool) (f : Fmt) (a c : Reg) (rd ra rb : RowId)
  | viota (x : Bool) (f : Fmt) (a c : Reg) (rd : RowId)
  | vbfpq (x : Bool) (df sf : Fmt) (a c : Reg) (rd ra : RowId) | vbfpd (x : Bool) (df sf : Fmt) (a c : Reg) (rd ra : RowId)
  -- row memory (R136)
  | vld (x : Bool) (w : BitVec 2) (a c : Reg) (rd : RowId) (disp : BitVec 16)
  | vst (w : BitVec 2) (a c : Reg) (rd : RowId) (disp : BitVec 16)
  | vlds (x : Bool) (w : BitVec 2) (a b c : Reg) (rd : RowId) (disp : BitVec 16)
  | vgath (x : Bool) (w : BitVec 2) (f : Fmt) (a c : Reg) (rd rb : RowId) (disp : BitVec 16)
  | vscat (w : BitVec 2) (f : Fmt) (a c : Reg) (rd rb : RowId) (disp : BitVec 16)
  -- tile operations (R138, R139)
  | tmov (l : Level) (w : BitVec 2) (d a : Reg) | tadd (l : Level) (w : BitVec 2) (d a b c : Reg)
  | tmul (l : Level) (w : BitVec 2) (d a b c : Reg) | tcvt (l : Level) (w : BitVec 2) (d a c : Reg)
  | tbaq (l : Level) (w : BitVec 2) (d a b c : Reg)
  | tsortc (l : Level) (snap : Bool) (w : BitVec 2) (d a c : Reg)
  | tcompact (l : Level) (snap : Bool) (w : BitVec 2) (d a b c : Reg)
  | tred (l : Level) (w : BitVec 2) (d a c : Reg) | ttrans (l : Level) (w : BitVec 2) (d a c : Reg)
  | tfill (l : Level) (w : BitVec 2) (d a c : Reg)
  | tmmaFloat (l : Level) (w : BitVec 2) (fa fb : FloatAB) (d a b c : Reg)
  | tmmaBlock (l : Level) (w : BitVec 2) (fa fb : Fin 7) (d a b c : Reg)
  | tmmagFloat (l : Level) (snap : Bool) (w : BitVec 2) (fa fb : FloatAB) (d a b c : Reg)
  | tmmagBlock (l : Level) (snap : Bool) (w : BitVec 2) (fa fb : Fin 7) (d a b c : Reg)
  -- device events: the core's fetch and power-on
  | lineFetch
  | powerOnReset (badDies : List Nat)
  -- the host's register writes and the aperture: q a queue, v the value written
  | qtailWrite (q : Nat) (v : Word) | queueEnable (q : Nat) (v : Word) | queueDisable (q : Nat) (v : Word)
  | queueReset (q : Nat) (v : Word) | queuePreempt (q : Nat) (v : Word)
  | registerWrite (off : Nat) (v : HostWord) | errheadWrite (v : Word)
  | apertureRead (off n : Nat) | apertureWrite (off : Nat) (bytes : List Byte)
  -- packets of queue q
  | nopPacket (q : Nat) | launch (q : Nat) | launchi (q : Nat) | loopPacket (q : Nat) | condPacket (q : Nat)
  | waitPacket (q : Nat) | signalPacket (q : Nat) | queueUnblock (q : Nat) | waitReread (q : Nat) | queueStarvation (q : Nat)
  -- kernels (k) and strands (sid), core numbers (core = PCN * 8 + position), accesses in flight (id)
  | launchMessage (k vcn : Nat) | kernelCompletion (k : Nat)
  | dispatch (core : Nat) | suspensionThreshold (core : Nat) | suspensionDrain (core : Nat) | recordWritten (sid : Nat)
  | wakeArrival (id : Nat) | spawnArrival (id : Nat) | qpushArrival (id : Nat)
  | quiescence (k : Nat) | quiescenceArrival (k vcn : Nat)
  | tileEvictionDone (core : Nat) | tileRestoreDone (core : Nat)
  -- residency: the firmware supplies the physical clusters that it chooses
  | residencyArbitration (asid victim : Nat) | residencyQuantum (asid : Nat) | contextEviction (asid : Nat)
  | saveAcknowledged (asid : Nat) | makeResident (asid : Nat) (pcns : List Nat)
  -- tile tasks: seq the root's completion number, leaf the leaf's number
  | tileDecompose (seq : Nat) | stagingStart (seq leaf : Nat) | stagingDone (seq leaf : Nat) | matrixGrant (pcn : Nat)
  | kblockDone (seq leaf : Nat) (residueOk : Bool) | laneGroupGrant (pcn : Nat) | laneGroupRelease (pcn group : Nat)
  | childCompletion (seq leaf : Nat) | taskSteal (vcn : Nat) | stealDone (seq leaf : Nat)
  -- translation, homes, engines
  | pageWalkDone (w : Walk) (asid va : Nat) | asgenDone (asid : Nat)
  | homeAccess (id : Nat) | accessResponse (id : Nat) | atomicMerge (ids : List Nat) | claimRelease (id : Nat)
  | engineCompletion (id : Nat) | faultQueueReplay (id : Nat) | faultQueueResend (id : Nat)
  -- event units
  | eventLineLoad (id : Nat) | eventLineStore (id : Nat) | barcfgStore (id : Nat) | barrierArrival (id : Nat)
  | barrierParentArrival (vcn bar : Nat) | barrierRelease (vcn bar : Nat) | mutexAcquire (id : Nat) | mutexRelease (id : Nat)
  | arrival (id : Nat) | watchTimeout (id : Nat) | logEntryAccept (id : Nat)
  -- residue, rollback, watchdog, counts, traps
  | residueReject (core back : Nat) | rollbackDone (sid : Nat)
  | watchdogLimit (k : Nat) | watchdogTrap (k : Nat) | watchdogKill (k : Nat)
  | countWaitMet (core : Nat) | trapStop (core : Nat) | asyncTrapArrival (sid : Nat) | frameSlotGrant (asid chain : Nat)
  -- maps and rotation: chip a chiplet
  | mapPublication | publicationArrival (router : Nat) | rotationStepInstant (chip : Nat) | drainPoint (chip : Nat)
  | drainDeadline (chip : Nat) | finalCopyDone (chip : Nat) | forwardedMessage (id : Nat) | staleResend (id : Nat)
  | graceWindowClose (chip : Nat) | selfTestDone (pcn : Nat) (result : TestResult) | patch (chip seg : Nat)
  | routerDead (pcn : Nat) | deadRouterRetirement (pcn : Nat)
  | healthSweep | ageingSave | hartRestart (queues : List Nat)
  -- mailbox operations (R295, R318)
  | migrate (i : Inst) | migrationBlockCopy (mid : Nat) (ok : Bool) | migrationFlip (mid : Nat)
  | moor (i : Inst) | unmoor (i : Inst) | peerset (i : Inst) | peerclr (i : Inst) | retrain (i : Inst)
  | ctxstop (i : Inst) | ctxstopComplete (asid : Nat) | ctxgo (i : Inst) | rstep (i : Inst)
  | pktbrk (i : Inst) | pktgo (i : Inst) | sstop (i : Inst) | traceopen (i : Inst) | traceclose (i : Inst)
  | traceFlush (chip : Nat) | keygen (i : Inst) | keywipe (i : Inst) | dbgchal (i : Inst) | dbgunlock (i : Inst)
  | nonceExpiry | physrd (i : Inst) | fwstate (i : Inst) | unknownMailboxOp (i : Inst)
  -- side-band messages (R297)
  | endpointIdAssignment (eid : Nat) | versionDiscovery | messageTypeDiscovery | numericSensorRead (sensor : Nat)
  | getVersion | getCapabilities | negotiateAlgorithms (mlDsa shake : Bool) | getDigests | getCertificate
  | challenge (nonce : List Byte) | getMeasurements (slot : Nat) (nonce : List Byte)
  | regrd (off n : Nat) | regwr (off : Nat) (v : Word) | sidebandMaprd (vcn : Nat) | errrd (idx : Nat)
  | unsupportedMessage (ty : Nat)
  -- Shadex ports: p a port
  | sxctlEnable (p : Nat) | sxctlReset (p : Nat) | portTrained (p width : Nat) (remote : Word) | flitReceive (p : Nat) (flit : List Byte)
  | nakReceive (p ack : Nat) | replayTimeout (p : Nat) | laneDeath (p lane : Nat) | retrainDone (p : Nat)
  | shadexWrite (p : Nat) | readreq (p : Nat) | readdata (p : Nat) | response (p : Nat) | peerRetry (id : Nat)
  | gatewayReduction (asid k block : Nat) | hostReadCompletion (id : Nat)
  -- time, counters, power
  | beaconExchange (die : Nat) (offset : Int) | pmcEvent (vcn code n : Nat)
  | junctionThrottle (chip : Nat) | junctionRecover (chip : Nat) | dieOvertemp (die temp : Nat)
  | clusterReinstatement (pcn : Nat) | orderlyShutdown | cpReadRetry (q : Nat) | hostPortDown | hostPortUp (width : Nat)
  | csrwCompletion (asid : Nat)
  deriving DecidableEq, Repr

end Sys2Proof
end

