-- ==== Sys2Proof/WellFormed.lean ====
section
/-! DEFINITION. Which instruction terms an encoding admits: the accepted formats (R145), the levels (R138) and the operand forms of R110, R348, R451 and R454. Device events are well formed: they have no encoding. -/

namespace Sys2Proof

/-- Bits of a format's container (R143); raw bytes have none. -/
def Fmt.bits : Fmt → Nat
  | .raw => 0
  | .f32 | .i32 | .n32 => 32
  | .bf16 | .f16 | .i16 | .n16 => 16
  | .e4m3 | .e5m2 | .e4m3s | .e5m2s | .i8 | .n8 => 8
  | .e2m1 | .e2m1s => 4
  | .b w => if w.val ≤ 2 then 4 else 8

def Fmt.isFloat : Fmt → Bool
  | .f32 | .bf16 | .f16 => true
  | _ => false

def Fmt.isSigned : Fmt → Bool
  | .i32 | .i16 | .i8 => true
  | _ => false

def Fmt.isInt : Fmt → Bool
  | .i32 | .n32 | .i16 | .n16 | .i8 | .n8 => true
  | _ => false

def Fmt.isScaled : Fmt → Bool
  | .e4m3s | .e5m2s | .e2m1s => true
  | _ => false

def Fmt.isBlock : Fmt → Bool
  | .b _ => true
  | _ => false

/-- Block or scaled: the format carries a scale per 48 elements (R149 to R151). -/
def Fmt.hasScale (f : Fmt) : Bool := f.isScaled || f.isBlock

/-- Row arithmetic accepts the three floats and the six integer codes (R145, R429). -/
def Fmt.rowOk (f : Fmt) : Bool := f.isFloat || f.isInt

/-- What VCVT and the element-wise tile operations accept (R145). -/
def Fmt.cvtOk (f : Fmt) : Bool := f != .raw

/-- VGATH and VSCAT accept containers of 8 bits or more (R145, R444). -/
def Fmt.gathOk (f : Fmt) : Bool := decide (8 ≤ f.bits)

/-- The level admits tile registers as operands only at L0 (R110): then bit 3 of D, A and B is zero. -/
def tileRegOk (l : Level) (r : Reg) : Bool := l != .l0 || decide (r.toNat < 8)

/-- A bit field lies within the register (R348). -/
def fieldOk (p w1 : BitVec 6) : Bool := decide (p.toNat + w1.toNat + 1 ≤ 64)

/-- The scalar form of a row shift names no index row (R454). -/
def shiftOk (a : Reg) (rb : RowId) : Bool := a == 0 || rb == 0

/-- A term that some head and tail encode (R109 to R142). -/
def WellFormed : Instr → Bool
  | .bfx _ _ p w1 | .bfxu _ _ p w1 | .bfi _ _ p w1 => fieldOk p w1
  | .afaddF32 .. | .afaddF64 .. => true
  | .vadd _ f .. | .vsub _ f .. | .vmul _ f .. | .vfma _ f .. | .vdiv _ f .. | .vmin _ f .. | .vmax _ f .. => f.rowOk
  | .vabs _ f .. | .vcmp _ f .. | .vsel _ f .. | .vscan _ f .. | .vperm _ f .. | .vbcast _ f .. | .vext _ f .. => f.rowOk
  | .vrsum f .. | .vrmax f .. | .vrmin f .. => f.rowOk
  | .vsgn _ f .. => f.isFloat || f.isSigned
  | .vand _ f .. | .vor _ f .. | .vxor _ f .. | .viota _ f .. => f.isInt
  | .vshl _ f a _ _ _ rb | .vshr _ f a _ _ _ rb | .vsha _ f a _ _ _ rb => f.isInt && shiftOk a rb
  | .vrcp _ f .. | .vrsq _ f .. | .vexp2 _ f .. | .vlog2 _ f .. => f.isFloat
  | .vcvt _ df sf .. => df.cvtOk && sf.cvtOk
  | .vbfpq _ df sf .. => df.hasScale && sf.isFloat
  | .vbfpd _ df sf .. => df.isFloat && sf.hasScale
  | .vgath _ _ f .. | .vscat _ f .. => f.gathOk
  | .tmov l _ d a => tileRegOk l d && tileRegOk l a
  | .tadd l _ d a b c | .tmul l _ d a b c => tileRegOk l d && tileRegOk l a && tileRegOk l b && (l == .l0 || c == 0)
  | .tbaq l _ d a b _ => tileRegOk l d && tileRegOk l a && tileRegOk l b
  | .tcvt l _ d a _ | .tred l _ d a _ => tileRegOk l d && tileRegOk l a
  | .ttrans l _ d a c | .tfill l _ d a c => tileRegOk l d && tileRegOk l a && (l == .l0 || c == 0)
  | .tsortc l .. | .tcompact l .. => l != .l0
  | .tmmaFloat l _ _ _ d a b c | .tmmaBlock l _ _ _ d a b c =>
    tileRegOk l d && tileRegOk l a && tileRegOk l b && (l != .l0 || c == 0)
  | .tmmagFloat l .. | .tmmagBlock l .. => l != .l0
  | _ => true

/-- The rows of the table that are steps of other agents than a strand: they have no encoding. -/
def Instr.isEvent (i : Instr) : Bool := decide (172 ≤ i.ctorIdx)

end Sys2Proof
end

