-- ==== Sys2Proof/Decode.lean ====
section
/-! DEFINITION. Decoding of a head and its tail (R108 to R142), total, refusing by the names of R122; then the encoder, from the same tables. -/

namespace Sys2Proof

/-- Why a head cannot be decoded (R122), in the order of the table there. -/
inductive Illegal where
  | major | tlen | minor | priv | rsvbit | wait | xmark | level | snap | fmt
  deriving DecidableEq, Repr

/-- The subcode of cause ILLEGAL (R122). -/
def Illegal.code : Illegal → Nat
  | .major => 0x01 | .tlen => 0x02 | .minor => 0x03 | .priv => 0x04 | .rsvbit => 0x05
  | .wait => 0x06 | .xmark => 0x07 | .level => 0x08 | .snap => 0x09 | .fmt => 0x0A

/-- What the decoder answers. -/
inductive Decoded where
  | instr (i : Instr)
  | illegal (r : Illegal)
  deriving DecidableEq, Repr

-- Fields of a head (R108) and of a 48-bit tail whose unused high bits are zero (R109).
def hMajor (h : BitVec 16) : BitVec 6 := h.extractLsb' 10 6
def hTl (h : BitVec 16) : BitVec 2 := h.extractLsb' 8 2
def hD (h : BitVec 16) : BitVec 4 := h.extractLsb' 4 4
def hA (h : BitVec 16) : BitVec 4 := h.extractLsb' 0 4
def hX (h : BitVec 16) : BitVec 1 := h.extractLsb' 7 1
def hZ (h : BitVec 16) : BitVec 3 := h.extractLsb' 4 3
def fMinor (t : BitVec 48) : BitVec 6 := t.extractLsb' 0 6
def fW (t : BitVec 48) : BitVec 2 := t.extractLsb' 6 2
def fC (t : BitVec 48) : BitVec 4 := t.extractLsb' 8 4
def fB (t : BitVec 48) : BitVec 4 := t.extractLsb' 12 4
def fImm16 (t : BitVec 48) : BitVec 16 := t.extractLsb' 16 16
def fImm32 (t : BitVec 48) : BitVec 32 := t.extractLsb' 16 32
def fFmt (t : BitVec 48) : BitVec 5 := t.extractLsb' 27 5
def fRB (t : BitVec 48) : BitVec 5 := t.extractLsb' 22 5
def fRA (t : BitVec 48) : BitVec 5 := t.extractLsb' 17 5
def fRD (t : BitVec 48) : BitVec 5 := t.extractLsb' 12 5
def fDisp (t : BitVec 48) : BitVec 16 := t.extractLsb' 32 16
def fVB (t : BitVec 48) : BitVec 4 := t.extractLsb' 18 4
def fVZ (t : BitVec 48) : BitVec 1 := t.extractLsb' 17 1
def fLevel (t : BitVec 48) : BitVec 3 := t.extractLsb' 16 3
def fSnap (t : BitVec 48) : BitVec 1 := t.extractLsb' 19 1
def fTZ (t : BitVec 48) : BitVec 12 := t.extractLsb' 20 12

/-- The tail length code that a major's range fixes (R120). -/
def tlOf (major : Nat) : Nat :=
  if major < 0x10 then 0 else if major < 0x20 then 1 else if major < 0x38 then 2 else 3

/-- The majors that R120 assigns. -/
def majorAssigned (m : Nat) : Bool :=
  decide (m ≤ 0x0B) || (decide (0x10 ≤ m) && decide (m ≤ 0x14)) || (decide (0x20 ≤ m) && decide (m ≤ 0x23)) || m == 0x28
    || (decide (0x30 ≤ m) && decide (m ≤ 0x34)) || m == 0x38 || m == 0x3C

/-- The majors whose W may be non-zero (R142). -/
def waitMajor (m : Nat) : Bool :=
  m == 0x13 || m == 0x22 || m == 0x23 || (decide (0x30 ≤ m) && decide (m ≤ 0x34)) || m == 0x3C

/-- The format of a code (R143). -/
def fmtOf (c : BitVec 5) : Option Fmt :=
  match c.toNat with
  | 0x00 => some .raw | 0x01 => some .f32 | 0x02 => some .bf16 | 0x03 => some .f16 | 0x04 => some .e4m3
  | 0x05 => some .e5m2 | 0x06 => some .e2m1 | 0x08 => some .e4m3s | 0x09 => some .e5m2s | 0x0A => some .e2m1s
  | 0x10 => some .i32 | 0x11 => some .n32 | 0x12 => some .i16 | 0x13 => some .n16 | 0x14 => some .i8 | 0x15 => some .n8
  | 0x19 => some (.b 0) | 0x1A => some (.b 1) | 0x1B => some (.b 2) | 0x1C => some (.b 3) | 0x1D => some (.b 4)
  | 0x1E => some (.b 5) | 0x1F => some (.b 6)
  | _ => none

/-- The code of a format (R143). -/
def Fmt.code : Fmt → BitVec 5
  | .raw => 0x00 | .f32 => 0x01 | .bf16 => 0x02 | .f16 => 0x03 | .e4m3 => 0x04 | .e5m2 => 0x05 | .e2m1 => 0x06
  | .e4m3s => 0x08 | .e5m2s => 0x09 | .e2m1s => 0x0A
  | .i32 => 0x10 | .n32 => 0x11 | .i16 => 0x12 | .n16 => 0x13 | .i8 => 0x14 | .n8 => 0x15
  | .b 0 => 0x19 | .b 1 => 0x1A | .b 2 => 0x1B | .b 3 => 0x1C | .b 4 => 0x1D | .b 5 => 0x1E | .b 6 => 0x1F

/-- The precision of a suffix code (R127). -/
def precOf (p : Nat) : Prec :=
  match p with
  | 0 => .f64 | 1 => .f32 | 2 => .bf16 | _ => .f16

def Prec.code : Prec → BitVec 6
  | .f64 => 0 | .f32 => 1 | .bf16 => 2 | .f16 => 3

def levelOf (l : BitVec 3) : Option Level :=
  match l.toNat with
  | 0 => some .l0 | 1 => some .l1 | 2 => some .l2 | 3 => some .l3 | 4 => some .l4 | 5 => some .l5 | _ => none

def Level.code : Level → BitVec 3
  | .l0 => 0 | .l1 => 1 | .l2 => 2 | .l3 => 3 | .l4 => 4 | .l5 => 5

def memWidthOf (c : BitVec 4) : Option MemWidth :=
  match c.toNat with
  | 0 => some .d64 | 1 => some .i32 | 2 => some .n32 | 3 => some .i16 | 4 => some .n16 | 5 => some .i8 | 6 => some .n8
  | _ => none

def MemWidth.code : MemWidth → BitVec 4
  | .d64 => 0 | .i32 => 1 | .n32 => 2 | .i16 => 3 | .n16 => 4 | .i8 => 5 | .n8 => 6

def aWidthOf (c : BitVec 4) : Option AWidth :=
  match c.toNat with
  | 0 => some .w64 | 1 => some .w32 | _ => none

def AWidth.code : AWidth → BitVec 4
  | .w64 => 0 | .w32 => 1

def cvtSrcOf (c : BitVec 4) : Option CvtSrc :=
  match c.toNat with
  | 0 => some (.fp .f64) | 1 => some (.fp .f32) | 2 => some (.fp .bf16) | 3 => some (.fp .f16)
  | 4 => some .sint | 5 => some .uint | _ => none

def CvtSrc.code : CvtSrc → BitVec 4
  | .fp .f64 => 0 | .fp .f32 => 1 | .fp .bf16 => 2 | .fp .f16 => 3 | .sint => 4 | .uint => 5

def cvtPrecOf (c : BitVec 4) : Option Prec :=
  match c.toNat with
  | 0 => some .f64 | 1 => some .f32 | 2 => some .bf16 | 3 => some .f16 | _ => none

def Prec.code4 : Prec → BitVec 4
  | .f64 => 0 | .f32 => 1 | .bf16 => 2 | .f16 => 3

def sgnOf (c : BitVec 4) : Option SgnMode :=
  match c.toNat with
  | 0 => some .copy | 1 => some .invert | 2 => some .xor | _ => none

def SgnMode.code : SgnMode → BitVec 4
  | .copy => 0 | .invert => 1 | .xor => 2

def armwOf (c : BitVec 4) : Option AtomOp :=
  match c.toNat with
  | 0 => some .add | 1 => some .min | 2 => some .max | 3 => some .minu | 4 => some .maxu | 5 => some .and
  | 6 => some .or | 7 => some .xor | 8 => some .swp | 9 => some .cas | 10 => some .fadd32 | 11 => some .fadd64
  | _ => none

def AtomOp.code : AtomOp → BitVec 4
  | .add => 0 | .min => 1 | .max => 2 | .minu => 3 | .maxu => 4 | .and => 5 | .or => 6 | .xor => 7
  | .swp => 8 | .cas => 9 | .fadd32 => 10 | .fadd64 => 11

def widKindOf (k : BitVec 2) : WidKind :=
  match k.toNat with
  | 0 => .field | 1 => .group | 2 => .extent | _ => .pos

def WidKind.code : WidKind → BitVec 2
  | .field => 0 | .group => 1 | .extent => 2 | .pos => 3

def widFieldOf (i : BitVec 3) : Option (Fin 6) :=
  match i.toNat with
  | 0 => some 0 | 1 => some 1 | 2 => some 2 | 3 => some 3 | 4 => some 4 | 5 => some 5 | _ => none

def widFieldCode (i : Fin 6) : BitVec 3 := BitVec.ofNat 3 i.val

/-- The A and B formats of a float product's minor (R139). -/
def floatPairOf (m : Nat) : Option (FloatAB × FloatAB) :=
  let f : Nat → FloatAB := fun k => match k with
    | 0 => .bf16 | 1 => .e4m3s | 2 => .e5m2s | _ => .e2m1s
  if m < 16 then some (f (m / 4), f (m % 4)) else none

def FloatAB.idx : FloatAB → BitVec 6
  | .bf16 => 0 | .e4m3s => 1 | .e5m2s => 2 | .e2m1s => 3

/-- The A and B mantissa widths, less 2, of a block product's minor (R139). -/
def blockPairOf (m : Nat) : Option (Fin 7 × Fin 7) :=
  if ha : m / 8 < 7 then if hb : m % 8 < 7 then some (⟨m / 8, ha⟩, ⟨m % 8, hb⟩) else none else none

/-- A head whose major, tail length and minor are assigned: the conditions of R122 below MINOR, and the instruction. -/
structure Cand where
  priv : Bool := false
  rsv : Bool := false
  xmark : Bool := false
  level : Bool := false
  snap : Bool := false
  fmt : Bool := false
  instr : Option Instr

/-- A candidate whose last operand code may be refused as a format. -/
def Cand.fmtOpt (rsv : Bool) (i : Option Instr) : Cand := { rsv := rsv, fmt := i.isNone, instr := i }

/-- A candidate whose last operand code may be refused as a reserved field. -/
def Cand.rsvOpt (rsv : Bool) (i : Option Instr) : Cand := { rsv := rsv || i.isNone, instr := i }

/-- The first condition of R122 that holds decides. -/
def Cand.judge (c : Cand) (handler waitBad : Bool) : Decoded :=
  if c.priv && !handler then .illegal .priv
  else if c.rsv then .illegal .rsvbit
  else if waitBad then .illegal .wait
  else if c.xmark then .illegal .xmark
  else if c.level then .illegal .level
  else if c.snap then .illegal .snap
  else if c.fmt then .illegal .fmt
  else match c.instr with
    | some i => .instr i
    | none => .illegal .rsvbit

/-- Format H (R125). -/
def candH (major : Nat) (d a : BitVec 4) : Option Cand :=
  let z := d != 0 || a != 0
  match major with
  | 0x00 => some { rsv := z, instr := some .nop }
  | 0x01 => some { rsv := z, instr := some .exit }
  | 0x02 => some (.rsvOpt (d != 0) (if a = 0 then some .yield else if a = 1 then some .yieldRel else none))
  | 0x03 => some (.rsvOpt (d != 0) (if a = 0 then some .suspend else if a = 1 then some .suspendRel else none))
  | 0x04 => some { rsv := z, instr := some .pin }
  | 0x05 => some { rsv := z, instr := some .quiet }
  | 0x06 => some { rsv := d != 0, instr := some (.brk a) }
  | 0x07 => some { priv := true, rsv := z, instr := some .tack }
  | 0x08 => some { Cand.rsvOpt (d != 0) (if a = 0 then some .tretResume else if a = 1 then some .tretAbandon else none) with priv := true }
  | 0x09 => some { priv := true, rsv := z, instr := some .idle }
  | 0x0A => some { rsv := z, instr := some .uwseal }
  | 0x0B => some { rsv := z, instr := some .ifence }
  | _ => none

/-- Major 0x10 (R126). -/
def candInt (minor : Nat) (d a b c : BitVec 4) : Option Cand :=
  let c0 := c != 0
  let bc0 := b != 0 || c != 0
  match minor with
  | 0x00 => some { rsv := c0, instr := some (.add d a b) }
  | 0x01 => some { rsv := c0, instr := some (.sub d a b) }
  | 0x02 => some { rsv := c0, instr := some (.mul d a b) }
  | 0x03 => some { rsv := c0, instr := some (.mulh d a b) }
  | 0x04 => some { rsv := c0, instr := some (.mulhu d a b) }
  | 0x05 => some { rsv := c0, instr := some (.div d a b) }
  | 0x06 => some { rsv := c0, instr := some (.divu d a b) }
  | 0x07 => some { rsv := c0, instr := some (.rem d a b) }
  | 0x08 => some { rsv := c0, instr := some (.remu d a b) }
  | 0x09 => some { rsv := c0, instr := some (.and d a b) }
  | 0x0A => some { rsv := c0, instr := some (.or d a b) }
  | 0x0B => some { rsv := c0, instr := some (.xor d a b) }
  | 0x0C => some { rsv := c0, instr := some (.shl d a b) }
  | 0x0D => some { rsv := c0, instr := some (.shr d a b) }
  | 0x0E => some { rsv := c0, instr := some (.sha d a b) }
  | 0x0F => some { rsv := c0, instr := some (.slt d a b) }
  | 0x10 => some { rsv := c0, instr := some (.sltu d a b) }
  | 0x11 => some { rsv := c0, instr := some (.min d a b) }
  | 0x12 => some { rsv := c0, instr := some (.minu d a b) }
  | 0x13 => some { rsv := c0, instr := some (.max d a b) }
  | 0x14 => some { rsv := c0, instr := some (.maxu d a b) }
  | 0x15 => some { rsv := bc0, instr := some (.clz d a) }
  | 0x16 => some { rsv := bc0, instr := some (.ctz d a) }
  | 0x17 => some { rsv := bc0, instr := some (.popc d a) }
  | 0x18 => some { instr := some (.sel d a b c) }
  | _ => none

/-- Major 0x11 (R127): minors 4 × op + p, then the two conversions to integers. -/
def candFp (minor : Nat) (d a b c : BitVec 4) : Option Cand :=
  let p := precOf (minor % 4)
  let c0 := c != 0
  let bc0 := b != 0 || c != 0
  match minor / 4 with
  | 0 => some { rsv := c0, instr := some (.fadd p d a b) }
  | 1 => some { rsv := c0, instr := some (.fsub p d a b) }
  | 2 => some { rsv := c0, instr := some (.fmul p d a b) }
  | 3 => some { instr := some (.ffma p d a b c) }
  | 4 => some { rsv := c0, instr := some (.fdiv p d a b) }
  | 5 => some { rsv := bc0, instr := some (.fsqrt p d a) }
  | 6 => some { rsv := c0, instr := some (.fmin p d a b) }
  | 7 => some { rsv := c0, instr := some (.fmax p d a b) }
  | 8 => some { rsv := c0, instr := some (.fcmp p d a b) }
  | 9 => some { rsv := bc0, instr := some (.fclass p d a) }
  | 10 => some (.rsvOpt false ((sgnOf c).map fun m => .fsgn p m d a b))
  | 11 => some (.fmtOpt (b != 0) ((cvtSrcOf c).map fun s => .fcvt p s d a))
  | 12 =>
    if minor % 4 = 0 then some (.fmtOpt (b != 0) ((cvtPrecOf c).map fun s => .fcvtSint s d a))
    else if minor % 4 = 1 then some (.fmtOpt (b != 0) ((cvtPrecOf c).map fun s => .fcvtUint s d a))
    else none
  | _ => none

/-- Major 0x12 (R128). -/
def candCtl (minor : Nat) (d a b c : BitVec 4) : Option Cand :=
  let bc0 := b != 0 || c != 0
  let dbc0 := d != 0 || b != 0 || c != 0
  let abc0 := a != 0 || b != 0 || c != 0
  let all0 := d != 0 || a != 0 || b != 0 || c != 0
  match minor with
  | 0x00 => some { rsv := bc0, instr := some (.jalr d a) }
  | 0x01 => some { rsv := dbc0, instr := some (.wake a) }
  | 0x02 => some { rsv := c != 0, instr := some (.waitc d a b) }
  | 0x03 => some { rsv := c != 0, instr := some (.spawn d a b) }
  | 0x04 => some { rsv := all0, instr := some .ltrig }
  | 0x05 => some { rsv := c != 0, instr := some (.qpush d a b) }
  | 0x06 => some { rsv := c != 0, instr := some (.qpop d a b) }
  | 0x07 => some { rsv := dbc0, instr := some (.evsig a) }
  | 0x08 => some { rsv := all0, instr := some .fenceL1 }
  | 0x09 => some { rsv := all0, instr := some .fenceL2 }
  | 0x0A => some { rsv := all0, instr := some .fenceL3 }
  | 0x0B => some { rsv := all0, instr := some .fenceL4 }
  | 0x0C => some { rsv := all0, instr := some .fenceL5 }
  | 0x10 => some { rsv := abc0, instr := some (.fencei false d) }
  | 0x11 => some { rsv := abc0, instr := some (.fencei true d) }
  | 0x12 => some { rsv := dbc0, instr := some (.fencew false a) }
  | 0x13 => some { rsv := dbc0, instr := some (.fencew true a) }
  | _ => none

/-- Major 0x13 (R129). -/
def candEng (minor : Nat) (w : BitVec 2) (d a b c : BitVec 4) : Option Cand :=
  match minor with
  | 0x00 => some { instr := some (.get w d a b c) }
  | 0x01 => some { instr := some (.put w d a b c) }
  | 0x02 => some { rsv := d != 0, instr := some (.tcpy w a b c) }
  | 0x03 => some { instr := some (.tcpya w d a b c) }
  | 0x04 => some (.rsvOpt false ((armwOf c).map fun op => .armw w op d a b))
  | _ => none

/-- Major 0x14 (R130); CSRW and ASGEN are privileged (R124). -/
def candSys (minor : Nat) (d a b c : BitVec 4) : Option Cand :=
  let bc0 := b != 0 || c != 0
  let abc0 := a != 0 || b != 0 || c != 0
  match minor with
  | 0x00 => some { rsv := d != 0 || bc0, instr := some (.trap a) }
  | 0x01 => some { rsv := bc0, instr := some (.csrr d a) }
  | 0x02 => some { priv := true, rsv := d != 0 || c != 0, instr := some (.csrw a b) }
  | 0x03 => some { priv := true, rsv := abc0, instr := some (.asgen d) }
  | 0x04 => some { rsv := bc0, instr := some (.maprd d a) }
  | 0x05 => some { rsv := abc0, instr := some (.uwopen d) }
  | 0x06 => some { rsv := abc0, instr := some (.uwnum d) }
  | 0x07 => some { rsv := d != 0 || c != 0, instr := some (.trec a b) }
  | _ => none

/-- Major 0x20 (R131, R348, R383, R459). -/
def candImm (minor : Nat) (d a b c : BitVec 4) (imm : BitVec 16) : Option Cand :=
  let bc0 := b != 0 || c != 0
  let sh := bc0 || imm.extractLsb' 6 10 != 0
  let e : BitVec 6 := imm.extractLsb' 0 6
  let w1 : BitVec 6 := imm.extractLsb' 6 6
  let bf := bc0 || imm.extractLsb' 12 4 != 0 || !fieldOk e w1
  match minor with
  | 0x00 => some { rsv := bc0, instr := some (.addi d a imm) }
  | 0x01 => some { rsv := bc0, instr := some (.andi d a imm) }
  | 0x02 => some { rsv := bc0, instr := some (.ori d a imm) }
  | 0x03 => some { rsv := bc0, instr := some (.xori d a imm) }
  | 0x04 => some { rsv := sh, instr := some (.shli d a e) }
  | 0x05 => some { rsv := sh, instr := some (.shri d a e) }
  | 0x06 => some { rsv := sh, instr := some (.shai d a e) }
  | 0x07 => some { rsv := bc0, instr := some (.slti d a imm) }
  | 0x08 => some { rsv := bf, instr := some (.bfx d a e w1) }
  | 0x09 => some { rsv := bf, instr := some (.bfxu d a e w1) }
  | 0x0A => some { rsv := bf, instr := some (.bfi d a e w1) }
  | 0x0B => some (.rsvOpt (bc0 || imm.extractLsb' 5 11 != 0)
      ((widFieldOf (imm.extractLsb' 0 3)).map fun i => .wid d a i (widKindOf (imm.extractLsb' 3 2))))
  | _ => none

/-- Major 0x21 (R132, R346, R376). -/
def candBr (minor : Nat) (d a b c : BitVec 4) (imm : BitVec 16) : Option Cand :=
  let dc0 := d != 0 || c != 0
  match minor with
  | 0x00 => some { rsv := dc0, instr := some (.beq a b imm) }
  | 0x01 => some { rsv := dc0, instr := some (.bne a b imm) }
  | 0x02 => some { rsv := dc0, instr := some (.blt a b imm) }
  | 0x03 => some { rsv := dc0, instr := some (.bge a b imm) }
  | 0x04 => some { rsv := dc0, instr := some (.bltu a b imm) }
  | 0x05 => some { rsv := dc0, instr := some (.bgeu a b imm) }
  | 0x06 => some { rsv := a != 0 || b != 0 || c != 0, instr := some (.loop d imm) }
  | _ => none

/-- Major 0x22 (R133, R372, R396). -/
def candMem (minor : Nat) (w : BitVec 2) (d a b c : BitVec 4) (imm : BitVec 16) : Option Cand :=
  match minor with
  | 0x00 => some (.fmtOpt (b != 0) ((memWidthOf c).map fun n => .ld w n d a imm))
  | 0x01 => some (.fmtOpt (b != 0) ((memWidthOf c).map fun n => .st w n d a imm))
  | 0x02 => some { rsv := c != 0, instr := some (.ldp w d a b imm) }
  | 0x03 => some { rsv := c != 0, instr := some (.stp w d a b imm) }
  | _ => none

/-- Major 0x23 (R134, R334, R455). -/
def candAtom (minor : Nat) (w : BitVec 2) (d a b c : BitVec 4) (imm : BitVec 16) : Option Cand :=
  let n := aWidthOf c
  match minor with
  | 0x00 => some (.fmtOpt false (n.map fun n => .aadd w n d a b imm))
  | 0x01 => some (.fmtOpt false (n.map fun n => .amin w n d a b imm))
  | 0x02 => some (.fmtOpt false (n.map fun n => .amax w n d a b imm))
  | 0x03 => some (.fmtOpt false (n.map fun n => .aminu w n d a b imm))
  | 0x04 => some (.fmtOpt false (n.map fun n => .amaxu w n d a b imm))
  | 0x05 => some (.fmtOpt false (n.map fun n => .aand w n d a b imm))
  | 0x06 => some (.fmtOpt false (n.map fun n => .aor w n d a b imm))
  | 0x07 => some (.fmtOpt false (n.map fun n => .axor w n d a b imm))
  | 0x08 => some (.fmtOpt false (n.map fun n => .aswp w n d a b imm))
  | 0x09 => some (.fmtOpt false (n.map fun n => .acas w n d a b imm))
  | 0x0A => some { fmt := c != 0, instr := some (.afaddF32 w d a b imm) }
  | 0x0B => some { fmt := c != 0, instr := some (.afaddF64 w d a b imm) }
  | 0x10 => some { rsv := c != 0, instr := some (.waita w d a b imm) }
  | _ => none

/-- Major 0x38 (R137, R370, R375). -/
def candLong (minor : Nat) (d a b c : BitVec 4) (imm : BitVec 32) : Option Cand :=
  let abc0 := a != 0 || b != 0 || c != 0
  match minor with
  | 0x00 => some { rsv := d != 0 || abc0, instr := some (.jmp imm) }
  | 0x01 => some { rsv := abc0, instr := some (.jal d imm) }
  | 0x02 => some (.rsvOpt (a != 0 || b != 0)
      (if c = 0 then some (.lim false d imm) else if c = 1 then some (.lim true d imm) else none))
  | _ => none

/-- An instruction of one format whose acceptance its entry states (R144). -/
def Cand.rowF (rsv : Bool) (fmt : Option Fmt) (ok : Fmt → Bool) (i : Fmt → Instr) : Cand :=
  .fmtOpt rsv ((fmt.filter ok).map i)

/-- Major 0x28 (R135, R426): x the transient mark, z head bits [6:4]. -/
def candRow (minor : Nat) (x z : Bool) (a c : BitVec 4) (fmt : Option Fmt) (dst : Option Fmt) (rd ra rb : RowId) : Option Cand :=
  let a0 := z || a != 0
  let rb0 := z || rb != 0
  let arb0 := a0 || rb != 0
  match minor with
  | 0x00 => some (.rowF a0 fmt Fmt.rowOk fun f => .vadd x f c rd ra rb)
  | 0x01 => some (.rowF a0 fmt Fmt.rowOk fun f => .vsub x f c rd ra rb)
  | 0x02 => some (.rowF a0 fmt Fmt.rowOk fun f => .vmul x f c rd ra rb)
  | 0x03 => some (.rowF a0 fmt Fmt.rowOk fun f => .vfma x f c rd ra rb)
  | 0x04 => some (.rowF a0 fmt Fmt.rowOk fun f => .vdiv x f c rd ra rb)
  | 0x05 => some (.rowF a0 fmt Fmt.rowOk fun f => .vmin x f c rd ra rb)
  | 0x06 => some (.rowF a0 fmt Fmt.rowOk fun f => .vmax x f c rd ra rb)
  | 0x07 => some (.rowF arb0 fmt Fmt.rowOk fun f => .vabs x f c rd ra)
  | 0x08 => some (.rowF a0 fmt (fun f => f.isFloat || f.isSigned) fun f => .vsgn x f c rd ra rb)
  | 0x09 => some (.rowF a0 fmt Fmt.isInt fun f => .vand x f c rd ra rb)
  | 0x0A => some (.rowF a0 fmt Fmt.isInt fun f => .vor x f c rd ra rb)
  | 0x0B => some (.rowF a0 fmt Fmt.isInt fun f => .vxor x f c rd ra rb)
  | 0x0C => some (.rowF (z || !shiftOk a rb) fmt Fmt.isInt fun f => .vshl x f a c rd ra rb)
  | 0x0D => some (.rowF (z || !shiftOk a rb) fmt Fmt.isInt fun f => .vshr x f a c rd ra rb)
  | 0x0E => some (.rowF (z || !shiftOk a rb) fmt Fmt.isInt fun f => .vsha x f a c rd ra rb)
  | 0x0F => some (.rowF z fmt Fmt.rowOk fun f => .vcmp x f a c rd ra rb)
  | 0x10 => some (.rowF a0 fmt Fmt.rowOk fun f => .vsel x f c rd ra rb)
  | 0x11 => some (.fmtOpt z ((dst.filter Fmt.cvtOk).bind fun df => (fmt.filter Fmt.cvtOk).map fun sf => .vcvt x df sf a c rd ra))
  | 0x12 => some (.rowF arb0 fmt Fmt.isFloat fun f => .vrcp x f c rd ra)
  | 0x13 => some (.rowF arb0 fmt Fmt.isFloat fun f => .vrsq x f c rd ra)
  | 0x14 => some (.rowF arb0 fmt Fmt.isFloat fun f => .vexp2 x f c rd ra)
  | 0x15 => some (.rowF arb0 fmt Fmt.isFloat fun f => .vlog2 x f c rd ra)
  | 0x16 => some { Cand.rowF (rb0 || rd != 0) fmt Fmt.rowOk (fun f => .vrsum f a c ra) with xmark := x }
  | 0x17 => some { Cand.rowF (rb0 || (rd != 0 && rd != 1)) fmt Fmt.rowOk
      (fun f => if rd = 0 then .vrmax f a c ra else .vrmin f a c ra) with xmark := x }
  | 0x18 => some (.rowF rb0 fmt Fmt.rowOk fun f => .vscan x f a c rd ra)
  | 0x19 => some (.rowF a0 fmt Fmt.rowOk fun f => .vperm x f c rd ra rb)
  | 0x1A => some (.rowF (rb0 || ra != 0) fmt Fmt.rowOk fun f => .vbcast x f a c rd)
  | 0x1B => some (.rowF z fmt Fmt.rowOk fun f => .vext x f a c rd ra rb)
  | 0x1C => some (.rowF (rb0 || ra != 0) fmt Fmt.isInt fun f => .viota x f a c rd)
  | 0x1D => some (.fmtOpt z ((dst.filter Fmt.hasScale).bind fun df => (fmt.filter Fmt.isFloat).map fun sf => .vbfpq x df sf a c rd ra))
  | 0x1E => some (.fmtOpt z ((dst.filter Fmt.isFloat).bind fun df => (fmt.filter Fmt.hasScale).map fun sf => .vbfpd x df sf a c rd ra))
  | _ => none

/-- Major 0x3C (R136, R444, R447): b the stride register, z head bits [6:4] or tail bit 17. -/
def candRowMem (minor : Nat) (w : BitVec 2) (x z : Bool) (a b c : BitVec 4) (fmt : BitVec 5) (rd rb : RowId) (disp : BitVec 16) : Option Cand :=
  let raw := fmt != 0
  match minor with
  | 0x00 => some { rsv := z || rb != 0 || b != 0, fmt := raw, instr := some (.vld x w a c rd disp) }
  | 0x01 => some { rsv := z || rb != 0 || b != 0, xmark := x, fmt := raw, instr := some (.vst w a c rd disp) }
  | 0x02 => some { rsv := z || rb != 0, fmt := raw, instr := some (.vlds x w a b c rd disp) }
  | 0x03 => some (.rowF (z || b != 0) (fmtOf fmt) Fmt.gathOk fun f => .vgath x w f a c rd rb disp)
  | 0x04 => some { Cand.rowF (z || b != 0) (fmtOf fmt) Fmt.gathOk (fun f => .vscat w f a c rd rb disp) with xmark := x }
  | _ => none

/-- The reserved fields of a tile form (R109, R110): tail bits above SNAP, and bit 3 of a register field that names a tile at L0. -/
def tileRsv (lv : Option Level) (z : BitVec 12) (regs : List (BitVec 4)) : Bool :=
  z != 0 || (lv == some .l0 && regs.any fun r => decide (8 ≤ r.toNat))

/-- A tile form: the allowed levels and whether SNAP may be set (R122, R138). -/
def Cand.tile (rsv snapBad : Bool) (lv : Option Level) (levels : Level → Bool) (i : Level → Instr) : Cand :=
  { rsv := rsv, snap := snapBad, level := (lv.filter levels).isNone, instr := (lv.filter levels).map i }

/-- Majors 0x30 to 0x34 (R138, R139, R401). DESIGN CHOICE (log 147): R405 asks for C 0 'at L1 and above' and does not say whether a LEVEL of 6 or 7 is above; here it is, so such a head with C not 0 has RSVBIT. -/
def candTile (major minor : Nat) (w : BitVec 2) (d a b c : BitVec 4) (lv : Option Level) (snap : Bool) (z : BitVec 12) : Option Cand :=
  let l0 := lv == some .l0
  let any : Level → Bool := fun _ => true
  let up : Level → Bool := fun l => l != .l0
  let rs := tileRsv lv z
  match major with
  | 0x30 =>
    match minor with
    | 0x00 => some (.tile (rs [d, a] || b != 0 || c != 0) snap lv any fun l => .tmov l w d a)
    | 0x01 => some (.tile (rs [d, a, b] || (!l0 && c != 0)) snap lv any fun l => .tadd l w d a b c)
    | 0x02 => some (.tile (rs [d, a, b] || (!l0 && c != 0)) snap lv any fun l => .tmul l w d a b c)
    | 0x03 => some (.tile (rs [d, a] || b != 0) snap lv any fun l => .tcvt l w d a c)
    | 0x04 => some (.tile (rs [d, a, b]) snap lv any fun l => .tbaq l w d a b c)
    | 0x05 => some (.tile (rs [d, a] || b != 0) false lv up fun l => .tsortc l snap w d a c)
    | 0x06 => some (.tile (rs [d, a, b]) false lv up fun l => .tcompact l snap w d a b c)
    | 0x07 => some (.tile (rs [d, a] || b != 0) snap lv any fun l => .tred l w d a c)
    | 0x08 => some (.tile (rs [d, a] || b != 0 || (!l0 && c != 0)) snap lv any fun l => .ttrans l w d a c)
    | 0x09 => some (.tile (rs [d, a] || b != 0 || (!l0 && c != 0)) snap lv any fun l => .tfill l w d a c)
    | _ => none
  | 0x31 => (floatPairOf minor).map fun q => .tile (rs [d, a, b] || (l0 && c != 0)) snap lv any fun l => .tmmaFloat l w q.1 q.2 d a b c
  | 0x32 => (blockPairOf minor).map fun q => .tile (rs [d, a, b] || (l0 && c != 0)) snap lv any fun l => .tmmaBlock l w q.1 q.2 d a b c
  | 0x33 => (floatPairOf minor).map fun q => .tile (rs [d, a, b]) false lv up fun l => .tmmagFloat l snap w q.1 q.2 d a b c
  | 0x34 => (blockPairOf minor).map fun q => .tile (rs [d, a, b]) false lv up fun l => .tmmagBlock l snap w q.1 q.2 d a b c
  | _ => none

/-- The candidate of a head whose major is assigned and whose TL fits. -/
def candidate (h : BitVec 16) (t : BitVec 48) : Option Cand :=
  let m := (hMajor h).toNat
  let n := (fMinor t).toNat
  match m with
  | 0x10 => candInt n (hD h) (hA h) (fB t) (fC t)
  | 0x11 => candFp n (hD h) (hA h) (fB t) (fC t)
  | 0x12 => candCtl n (hD h) (hA h) (fB t) (fC t)
  | 0x13 => candEng n (fW t) (hD h) (hA h) (fB t) (fC t)
  | 0x14 => candSys n (hD h) (hA h) (fB t) (fC t)
  | 0x20 => candImm n (hD h) (hA h) (fB t) (fC t) (fImm16 t)
  | 0x21 => candBr n (hD h) (hA h) (fB t) (fC t) (fImm16 t)
  | 0x22 => candMem n (fW t) (hD h) (hA h) (fB t) (fC t) (fImm16 t)
  | 0x23 => candAtom n (fW t) (hD h) (hA h) (fB t) (fC t) (fImm16 t)
  | 0x28 => candRow n (hX h == 1) (hZ h != 0) (hA h) (fC t) (fmtOf (fFmt t)) (fmtOf (fRB t)) (fRD t) (fRA t) (fRB t)
  | 0x38 => candLong n (hD h) (hA h) (fB t) (fC t) (fImm32 t)
  | 0x3C => candRowMem n (fW t) (hX h == 1) (hZ h != 0 || fVZ t != 0) (hA h) (fVB t) (fC t) (fFmt t) (fRD t) (fRB t) (fDisp t)
  | 0x30 | 0x31 | 0x32 | 0x33 | 0x34 => candTile m n (fW t) (hD h) (hA h) (fB t) (fC t) (levelOf (fLevel t)) (fSnap t == 1) (fTZ t)
  | _ => candH m (hD h) (hA h)

/-- Decode a head and its tail, which stands in the low bits of t (R122). handler says whether the strand runs as a handler (R124). -/
def decode (handler : Bool) (h : BitVec 16) (t : BitVec 48) : Decoded :=
  let m := (hMajor h).toNat
  if !majorAssigned m then .illegal .major
  else if (hTl h).toNat != tlOf m then .illegal .tlen
  else match candidate h t with
    | none => .illegal .minor
    | some c => c.judge handler (decide (0x10 ≤ m) && !waitMajor m && fW t != 0)

-- The encoder: heads and tails from the layouts of R108, R109 and R426.
def head (major : BitVec 6) (tl : BitVec 2) (d a : BitVec 4) : BitVec 16 := major ++ tl ++ d ++ a
def headV (major : BitVec 6) (tl : BitVec 2) (x : Bool) (a : BitVec 4) : BitVec 16 :=
  major ++ tl ++ (BitVec.ofBool x) ++ (0 : BitVec 3) ++ a
def tailS (b c : BitVec 4) (w : BitVec 2) (m : BitVec 6) : BitVec 48 := (0 : BitVec 32) ++ b ++ c ++ w ++ m
def tailI (imm : BitVec 16) (b c : BitVec 4) (w : BitVec 2) (m : BitVec 6) : BitVec 48 := (0 : BitVec 16) ++ imm ++ b ++ c ++ w ++ m
def tailL (imm : BitVec 32) (b c : BitVec 4) (w : BitVec 2) (m : BitVec 6) : BitVec 48 := imm ++ b ++ c ++ w ++ m
def tailV (fmt rb ra rd : BitVec 5) (c : BitVec 4) (m : BitVec 6) : BitVec 48 :=
  (0 : BitVec 16) ++ fmt ++ rb ++ ra ++ rd ++ c ++ (0 : BitVec 2) ++ m
def tailVM (disp : BitVec 16) (fmt rb : BitVec 5) (b : BitVec 4) (rd : BitVec 5) (c : BitVec 4) (w : BitVec 2) (m : BitVec 6) : BitVec 48 :=
  disp ++ fmt ++ rb ++ b ++ (0 : BitVec 1) ++ rd ++ c ++ w ++ m
def tailT (snap : Bool) (l : BitVec 3) (b c : BitVec 4) (w : BitVec 2) (m : BitVec 6) : BitVec 48 :=
  (0 : BitVec 28) ++ BitVec.ofBool snap ++ l ++ b ++ c ++ w ++ m

/-- A head and its tail. -/
abbrev Words := BitVec 16 × BitVec 48

def encH (m : BitVec 6) (a : BitVec 4) : Option Words := some (head m 0 0 a, 0)
def encS (major m : BitVec 6) (d a b c : BitVec 4) (w : BitVec 2) : Option Words := some (head major 1 d a, tailS b c w m)
def encI (major m : BitVec 6) (d a b c : BitVec 4) (w : BitVec 2) (imm : BitVec 16) : Option Words :=
  some (head major 2 d a, tailI imm b c w m)
def encL (m : BitVec 6) (d c : BitVec 4) (imm : BitVec 32) : Option Words := some (head 0x38 3 d 0, tailL imm 0 c 0 m)
def encV (m : BitVec 6) (x : Bool) (a c : BitVec 4) (fmt rd ra rb : BitVec 5) : Option Words :=
  some (headV 0x28 2 x a, tailV fmt rb ra rd c m)
def encVM (m : BitVec 6) (x : Bool) (w : BitVec 2) (a b c : BitVec 4) (fmt rd rb : BitVec 5) (disp : BitVec 16) : Option Words :=
  some (headV 0x3C 3 x a, tailVM disp fmt rb b rd c w m)
def encT (major m : BitVec 6) (l : Level) (snap : Bool) (w : BitVec 2) (d a b c : BitVec 4) : Option Words :=
  some (head major 2 d a, tailT snap l.code b c w m)
def encF (op : BitVec 6) (p : Prec) (d a b c : BitVec 4) : Option Words := encS 0x11 (4 * op + p.code) d a b c 0
def encA (m : BitVec 6) (w : BitVec 2) (n : AWidth) (d a b : BitVec 4) (imm : BitVec 16) : Option Words := encI 0x23 m d a b n.code w imm
def encSh (m : BitVec 6) (d a : BitVec 4) (e : BitVec 6) : Option Words := encI 0x20 m d a 0 0 0 ((0 : BitVec 10) ++ e)
def encBf (m : BitVec 6) (d a : BitVec 4) (p w1 : BitVec 6) : Option Words := encI 0x20 m d a 0 0 0 ((0 : BitVec 4) ++ w1 ++ p)
def floatMinor (fa fb : FloatAB) : BitVec 6 := 4 * fa.idx + fb.idx
def blockMinor (fa fb : Fin 7) : BitVec 6 := BitVec.ofNat 6 (8 * fa.val + fb.val)

/-- The head and tail of an instruction; none of a device event. -/
def encode : Instr → Option Words
  | .nop => encH 0x00 0 | .exit => encH 0x01 0 | .yield => encH 0x02 0 | .yieldRel => encH 0x02 1
  | .suspend => encH 0x03 0 | .suspendRel => encH 0x03 1 | .pin => encH 0x04 0 | .quiet => encH 0x05 0
  | .brk n => encH 0x06 n | .tack => encH 0x07 0 | .tretResume => encH 0x08 0 | .tretAbandon => encH 0x08 1
  | .idle => encH 0x09 0 | .uwseal => encH 0x0A 0 | .ifence => encH 0x0B 0
  | .add d a b => encS 0x10 0x00 d a b 0 0 | .sub d a b => encS 0x10 0x01 d a b 0 0 | .mul d a b => encS 0x10 0x02 d a b 0 0
  | .mulh d a b => encS 0x10 0x03 d a b 0 0 | .mulhu d a b => encS 0x10 0x04 d a b 0 0 | .div d a b => encS 0x10 0x05 d a b 0 0
  | .divu d a b => encS 0x10 0x06 d a b 0 0 | .rem d a b => encS 0x10 0x07 d a b 0 0 | .remu d a b => encS 0x10 0x08 d a b 0 0
  | .and d a b => encS 0x10 0x09 d a b 0 0 | .or d a b => encS 0x10 0x0A d a b 0 0 | .xor d a b => encS 0x10 0x0B d a b 0 0
  | .shl d a b => encS 0x10 0x0C d a b 0 0 | .shr d a b => encS 0x10 0x0D d a b 0 0 | .sha d a b => encS 0x10 0x0E d a b 0 0
  | .slt d a b => encS 0x10 0x0F d a b 0 0 | .sltu d a b => encS 0x10 0x10 d a b 0 0 | .min d a b => encS 0x10 0x11 d a b 0 0
  | .minu d a b => encS 0x10 0x12 d a b 0 0 | .max d a b => encS 0x10 0x13 d a b 0 0 | .maxu d a b => encS 0x10 0x14 d a b 0 0
  | .clz d a => encS 0x10 0x15 d a 0 0 0 | .ctz d a => encS 0x10 0x16 d a 0 0 0 | .popc d a => encS 0x10 0x17 d a 0 0 0
  | .sel d a b c => encS 0x10 0x18 d a b c 0
  | .fadd p d a b => encF 0 p d a b 0 | .fsub p d a b => encF 1 p d a b 0 | .fmul p d a b => encF 2 p d a b 0
  | .ffma p d a b c => encF 3 p d a b c | .fdiv p d a b => encF 4 p d a b 0 | .fsqrt p d a => encF 5 p d a 0 0
  | .fmin p d a b => encF 6 p d a b 0 | .fmax p d a b => encF 7 p d a b 0 | .fcmp p d a b => encF 8 p d a b 0
  | .fclass p d a => encF 9 p d a 0 0 | .fsgn p m d a b => encF 10 p d a b m.code | .fcvt p src d a => encF 11 p d a 0 src.code
  | .fcvtSint src d a => encS 0x11 0x30 d a 0 src.code4 0 | .fcvtUint src d a => encS 0x11 0x31 d a 0 src.code4 0
  | .jalr d a => encS 0x12 0x00 d a 0 0 0 | .wake a => encS 0x12 0x01 0 a 0 0 0 | .waitc d a b => encS 0x12 0x02 d a b 0 0
  | .spawn d a b => encS 0x12 0x03 d a b 0 0 | .ltrig => encS 0x12 0x04 0 0 0 0 0 | .qpush d a b => encS 0x12 0x05 d a b 0 0
  | .qpop d a b => encS 0x12 0x06 d a b 0 0 | .evsig a => encS 0x12 0x07 0 a 0 0 0
  | .fenceL1 => encS 0x12 0x08 0 0 0 0 0 | .fenceL2 => encS 0x12 0x09 0 0 0 0 0 | .fenceL3 => encS 0x12 0x0A 0 0 0 0 0
  | .fenceL4 => encS 0x12 0x0B 0 0 0 0 0 | .fenceL5 => encS 0x12 0x0C 0 0 0 0 0
  | .fencei false d => encS 0x12 0x10 d 0 0 0 0 | .fencei true d => encS 0x12 0x11 d 0 0 0 0
  | .fencew false a => encS 0x12 0x12 0 a 0 0 0 | .fencew true a => encS 0x12 0x13 0 a 0 0 0
  | .get w d a b c => encS 0x13 0x00 d a b c w | .put w d a b c => encS 0x13 0x01 d a b c w
  | .tcpy w a b c => encS 0x13 0x02 0 a b c w | .tcpya w d a b c => encS 0x13 0x03 d a b c w
  | .armw w op d a b => encS 0x13 0x04 d a b op.code w
  | .trap a => encS 0x14 0x00 0 a 0 0 0 | .csrr d a => encS 0x14 0x01 d a 0 0 0 | .csrw a b => encS 0x14 0x02 0 a b 0 0
  | .asgen d => encS 0x14 0x03 d 0 0 0 0 | .maprd d a => encS 0x14 0x04 d a 0 0 0 | .uwopen d => encS 0x14 0x05 d 0 0 0 0
  | .uwnum d => encS 0x14 0x06 d 0 0 0 0 | .trec a b => encS 0x14 0x07 0 a b 0 0
  | .aadd w n d a b i => encA 0x00 w n d a b i | .amin w n d a b i => encA 0x01 w n d a b i | .amax w n d a b i => encA 0x02 w n d a b i
  | .aminu w n d a b i => encA 0x03 w n d a b i | .amaxu w n d a b i => encA 0x04 w n d a b i | .aand w n d a b i => encA 0x05 w n d a b i
  | .aor w n d a b i => encA 0x06 w n d a b i | .axor w n d a b i => encA 0x07 w n d a b i | .aswp w n d a b i => encA 0x08 w n d a b i
  | .acas w n d a b i => encA 0x09 w n d a b i
  | .afaddF32 w d a b i => encI 0x23 0x0A d a b 0 w i | .afaddF64 w d a b i => encI 0x23 0x0B d a b 0 w i
  | .waita w d a b i => encI 0x23 0x10 d a b 0 w i
  | .addi d a i => encI 0x20 0x00 d a 0 0 0 i | .andi d a i => encI 0x20 0x01 d a 0 0 0 i | .ori d a i => encI 0x20 0x02 d a 0 0 0 i
  | .xori d a i => encI 0x20 0x03 d a 0 0 0 i | .shli d a e => encSh 0x04 d a e | .shri d a e => encSh 0x05 d a e
  | .shai d a e => encSh 0x06 d a e | .slti d a i => encI 0x20 0x07 d a 0 0 0 i
  | .bfx d a p w1 => encBf 0x08 d a p w1 | .bfxu d a p w1 => encBf 0x09 d a p w1 | .bfi d a p w1 => encBf 0x0A d a p w1
  | .wid d a i k => encI 0x20 0x0B d a 0 0 0 ((0 : BitVec 11) ++ k.code ++ widFieldCode i)
  | .beq a b i => encI 0x21 0x00 0 a b 0 0 i | .bne a b i => encI 0x21 0x01 0 a b 0 0 i | .blt a b i => encI 0x21 0x02 0 a b 0 0 i
  | .bge a b i => encI 0x21 0x03 0 a b 0 0 i | .bltu a b i => encI 0x21 0x04 0 a b 0 0 i | .bgeu a b i => encI 0x21 0x05 0 a b 0 0 i
  | .loop d i => encI 0x21 0x06 d 0 0 0 0 i
  | .ld w n d a i => encI 0x22 0x00 d a 0 n.code w i | .st w n d a i => encI 0x22 0x01 d a 0 n.code w i
  | .ldp w d a b i => encI 0x22 0x02 d a b 0 w i | .stp w d a b i => encI 0x22 0x03 d a b 0 w i
  | .jmp i => encL 0x00 0 0 i | .jal d i => encL 0x01 d 0 i | .lim false d i => encL 0x02 d 0 i | .lim true d i => encL 0x02 d 1 i
  | .vadd x f c rd ra rb => encV 0x00 x 0 c f.code rd ra rb | .vsub x f c rd ra rb => encV 0x01 x 0 c f.code rd ra rb
  | .vmul x f c rd ra rb => encV 0x02 x 0 c f.code rd ra rb | .vfma x f c rd ra rb => encV 0x03 x 0 c f.code rd ra rb
  | .vdiv x f c rd ra rb => encV 0x04 x 0 c f.code rd ra rb | .vmin x f c rd ra rb => encV 0x05 x 0 c f.code rd ra rb
  | .vmax x f c rd ra rb => encV 0x06 x 0 c f.code rd ra rb | .vabs x f c rd ra => encV 0x07 x 0 c f.code rd ra 0
  | .vsgn x f c rd ra rb => encV 0x08 x 0 c f.code rd ra rb | .vand x f c rd ra rb => encV 0x09 x 0 c f.code rd ra rb
  | .vor x f c rd ra rb => encV 0x0A x 0 c f.code rd ra rb | .vxor x f c rd ra rb => encV 0x0B x 0 c f.code rd ra rb
  | .vshl x f a c rd ra rb => encV 0x0C x a c f.code rd ra rb | .vshr x f a c rd ra rb => encV 0x0D x a c f.code rd ra rb
  | .vsha x f a c rd ra rb => encV 0x0E x a c f.code rd ra rb | .vcmp x f a c rd ra rb => encV 0x0F x a c f.code rd ra rb
  | .vsel x f c rd ra rb => encV 0x10 x 0 c f.code rd ra rb | .vcvt x df sf a c rd ra => encV 0x11 x a c sf.code rd ra df.code
  | .vrcp x f c rd ra => encV 0x12 x 0 c f.code rd ra 0 | .vrsq x f c rd ra => encV 0x13 x 0 c f.code rd ra 0
  | .vexp2 x f c rd ra => encV 0x14 x 0 c f.code rd ra 0 | .vlog2 x f c rd ra => encV 0x15 x 0 c f.code rd ra 0
  | .vrsum f a c ra => encV 0x16 false a c f.code 0 ra 0 | .vrmax f a c ra => encV 0x17 false a c f.code 0 ra 0
  | .vrmin f a c ra => encV 0x17 false a c f.code 1 ra 0
  | .vscan x f a c rd ra => encV 0x18 x a c f.code rd ra 0 | .vperm x f c rd ra rb => encV 0x19 x 0 c f.code rd ra rb
  | .vbcast x f a c rd => encV 0x1A x a c f.code rd 0 0 | .vext x f a c rd ra rb => encV 0x1B x a c f.code rd ra rb
  | .viota x f a c rd => encV 0x1C x a c f.code rd 0 0
  | .vbfpq x df sf a c rd ra => encV 0x1D x a c sf.code rd ra df.code | .vbfpd x df sf a c rd ra => encV 0x1E x a c sf.code rd ra df.code
  | .vld x w a c rd i => encVM 0x00 x w a 0 c 0 rd 0 i | .vst w a c rd i => encVM 0x01 false w a 0 c 0 rd 0 i
  | .vlds x w a b c rd i => encVM 0x02 x w a b c 0 rd 0 i | .vgath x w f a c rd rb i => encVM 0x03 x w a 0 c f.code rd rb i
  | .vscat w f a c rd rb i => encVM 0x04 false w a 0 c f.code rd rb i
  | .tmov l w d a => encT 0x30 0x00 l false w d a 0 0 | .tadd l w d a b c => encT 0x30 0x01 l false w d a b c
  | .tmul l w d a b c => encT 0x30 0x02 l false w d a b c | .tcvt l w d a c => encT 0x30 0x03 l false w d a 0 c
  | .tbaq l w d a b c => encT 0x30 0x04 l false w d a b c | .tsortc l sn w d a c => encT 0x30 0x05 l sn w d a 0 c
  | .tcompact l sn w d a b c => encT 0x30 0x06 l sn w d a b c | .tred l w d a c => encT 0x30 0x07 l false w d a 0 c
  | .ttrans l w d a c => encT 0x30 0x08 l false w d a 0 c | .tfill l w d a c => encT 0x30 0x09 l false w d a 0 c
  | .tmmaFloat l w fa fb d a b c => encT 0x31 (floatMinor fa fb) l false w d a b c
  | .tmmaBlock l w fa fb d a b c => encT 0x32 (blockMinor fa fb) l false w d a b c
  | .tmmagFloat l sn w fa fb d a b c => encT 0x33 (floatMinor fa fb) l sn w d a b c
  | .tmmagBlock l sn w fa fb d a b c => encT 0x34 (blockMinor fa fb) l sn w d a b c
  | _ => none

/-- The head and tail of a table word: the opcode table writes a head of 16 bits, or a head followed by its tail as one number, the head highest (log 10). -/
def tableWords (nbits w : Nat) : Words :=
  let n := nbits - 16
  (BitVec.ofNat 16 (w / 2 ^ n), BitVec.ofNat 48 (w % 2 ^ n))

/-- The tail length code of a head that a table word gives: bits the table does not give are zero. -/
def wordsDecoded (h : BitVec 16) (t : BitVec 48) : Option Instr :=
  match decode true h t with
  | .instr i => some i
  | .illegal _ => none

/-- The instruction that the decoder reads from a word numbered as the opcode table numbers it, in a handler, where no head is refused for want of privilege. -/
def decodeTableWord (nbits w : Nat) : Option Instr :=
  if nbits = 16 ∨ nbits = 32 ∨ nbits = 48 ∨ nbits = 64 then wordsDecoded (tableWords nbits w).1 (tableWords nbits w).2 else none

end Sys2Proof
end

