-- ==== Sys2Proof/Machine/Num.lean ====
section
/-! DEFINITION. Number formats and arithmetic (R143 to R163): exact values, one rounding, conversions, requantisation and the functions that are correctly rounded. -/

namespace Sys2Proof.Machine

/-- An exact value: NaN, an infinity, or (−1)^neg × m × 2^e. -/
inductive FVal where
  | nan
  | inf (neg : Bool)
  | num (neg : Bool) (m : Nat) (e : Int)
  deriving DecidableEq, Repr

/-- A floating-point layout (R146): exponent and fraction widths, bias, the largest finite magnitude maxM × 2^maxQ, and which specials it has. -/
structure FpLayout where
  eb : Nat
  mb : Nat
  bias : Nat
  maxM : Nat
  maxQ : Int
  hasInf : Bool := true
  nanBits : Option Nat
  deriving DecidableEq, Repr

/-- Layouts and canonical NaNs (R146, R147). -/
def fp64 : FpLayout := { eb := 11, mb := 52, bias := 1023, maxM := 2 ^ 53 - 1, maxQ := 971, nanBits := some 0x7FF8000000000000 }
def fp32 : FpLayout := { eb := 8, mb := 23, bias := 127, maxM := 2 ^ 24 - 1, maxQ := 104, nanBits := some 0x7FC00000 }
def bf16 : FpLayout := { eb := 8, mb := 7, bias := 127, maxM := 255, maxQ := 120, nanBits := some 0x7FC0 }
def fp16 : FpLayout := { eb := 5, mb := 10, bias := 15, maxM := 2047, maxQ := 5, nanBits := some 0x7E00 }
def e4m3 : FpLayout := { eb := 4, mb := 3, bias := 7, maxM := 14, maxQ := 5, hasInf := false, nanBits := some 0x7F }
def e5m2 : FpLayout := { eb := 5, mb := 2, bias := 15, maxM := 7, maxQ := 13, nanBits := some 0x7E }
def e2m1 : FpLayout := { eb := 2, mb := 1, bias := 1, maxM := 3, maxQ := 1, hasInf := false, nanBits := none }

def precLayout : Prec → FpLayout
  | .f64 => fp64 | .f32 => fp32 | .bf16 => bf16 | .f16 => fp16

/-- The layout of a format's elements, without their scale. -/
def fmtLayout : Fmt → Option FpLayout
  | .f32 => some fp32 | .bf16 => some bf16 | .f16 => some fp16
  | .e4m3 | .e4m3s => some e4m3 | .e5m2 | .e5m2s => some e5m2 | .e2m1 | .e2m1s => some e2m1
  | _ => none

/-- Bits of a whole element. -/
def FpLayout.width (p : FpLayout) : Nat := 1 + p.eb + p.mb

/-- The exponent of the smallest subnormal. -/
def FpLayout.emin (p : FpLayout) : Int := 1 - (p.bias : Int) - p.mb

/-- The value of bits in a layout (R146). -/
def FpLayout.val (p : FpLayout) (bits : Nat) : FVal :=
  let m := bits % 2 ^ p.mb
  let e := bits / 2 ^ p.mb % 2 ^ p.eb
  let s := bits / 2 ^ (p.mb + p.eb) % 2 == 1
  if p.hasInf && e == 2 ^ p.eb - 1 then (if m = 0 then .inf s else .nan)
  else if !p.hasInf && p.nanBits == some (bits % 2 ^ (p.mb + p.eb)) then .nan
  else if e = 0 then .num s m p.emin
  else .num s (2 ^ p.mb + m) (p.emin + e - 1)

/-- Rounding modes (R154); STOCH with the 16 bits q of R155. -/
inductive Mode where
  | rne | rtz | rdn | rup | stoch (q : Nat)
  deriving DecidableEq, Repr

/-- Whether a magnitude between lo and lo + 1 rounds up: rem / 2^sh is the distance from lo. -/
def Mode.up (r : Mode) (neg : Bool) (lo rem sh : Nat) : Bool :=
  match r with
  | .rne => decide (2 ^ sh < 2 * rem) || (2 * rem == 2 ^ sh && lo % 2 == 1)
  | .rtz => false
  | .rdn => neg && rem != 0
  | .rup => !neg && rem != 0
  | .stoch q => decide (65536 ≤ rem * 65536 / 2 ^ sh + q)

def bitLen (n : Nat) : Nat := if n = 0 then 0 else Nat.log2 n + 1

/-- m × 2^e rounded to a multiple of 2^q: the multiple. -/
def roundAt (r : Mode) (neg : Bool) (m : Nat) (e q : Int) : Nat :=
  if q ≤ e then m * 2 ^ (e - q).toNat
  else
    let sh := (q - e).toNat
    let lo := m / 2 ^ sh
    let rem := m % 2 ^ sh
    if r.up neg lo rem sh then lo + 1 else lo

/-- Does M × 2^q exceed the largest finite magnitude? -/
def FpLayout.above (p : FpLayout) (m : Nat) (q : Int) : Bool :=
  if p.maxQ ≤ q then decide (p.maxM < m * 2 ^ (q - p.maxQ).toNat)
  else decide (p.maxM * 2 ^ (p.maxQ - q).toNat < m)

def FpLayout.signBit (p : FpLayout) (neg : Bool) : Nat := if neg then 2 ^ (p.eb + p.mb) else 0

/-- Bits of a finite M × 2^q that the layout represents. -/
def FpLayout.pack (p : FpLayout) (neg : Bool) (m : Nat) (q : Int) : Nat :=
  let m' := if m = 2 ^ (p.mb + 1) then 2 ^ p.mb else m
  let q' := if m = 2 ^ (p.mb + 1) then q + 1 else q
  p.signBit neg + (if m' < 2 ^ p.mb then m' else (q' - p.emin + 1).toNat * 2 ^ p.mb + (m' - 2 ^ p.mb))

def FpLayout.maxBits (p : FpLayout) (neg : Bool) : Nat := p.pack neg p.maxM p.maxQ
def FpLayout.infBits (p : FpLayout) (neg : Bool) : Nat := p.signBit neg + (2 ^ p.eb - 1) * 2 ^ p.mb

/-- The canonical NaN; a format without NaN writes +0 (R147, R156). -/
def FpLayout.nan (p : FpLayout) : Nat := p.nanBits.getD 0

/-- What a magnitude beyond the largest finite one becomes (R156). -/
def FpLayout.overflow (p : FpLayout) (r : Mode) (ovf neg : Bool) : Nat :=
  if !p.hasInf || !ovf then p.maxBits neg
  else match r with
    | .rne | .stoch _ => p.infBits neg
    | .rtz => p.maxBits neg
    | .rdn => if neg then p.infBits neg else p.maxBits neg
    | .rup => if neg then p.maxBits neg else p.infBits neg

/-- An infinity written to a layout (R156). -/
def FpLayout.ofInf (p : FpLayout) (ovf neg : Bool) : Nat :=
  if p.hasInf then (if ovf then p.infBits neg else p.maxBits neg)
  else if ovf && p.nanBits.isSome then p.nan else p.maxBits neg

/-- A value rounded once to a layout under a mode and an overflow choice (R153, R156). -/
def FpLayout.round (p : FpLayout) (r : Mode) (ovf : Bool) (v : FVal) : Nat :=
  match v with
  | .nan => p.nan
  | .inf s => p.ofInf ovf s
  | .num s m e =>
    if m = 0 then p.signBit s
    else
      let top := (bitLen m : Int) - 1 + e
      let q := max (top - p.mb) p.emin
      let n := roundAt r s m e q
      if p.above n q then p.overflow r ovf s else p.pack s n q

/-- RoundNE of R333: nearest even with IEEE overflow. -/
def FpLayout.rne (p : FpLayout) (v : FVal) : Nat := p.round .rne true v

/-! Exact arithmetic. -/

def FVal.ofInt (i : Int) : FVal := .num (decide (i < 0)) i.natAbs 0

def FVal.neg : FVal → FVal
  | .nan => .nan | .inf s => .inf (!s) | .num s m e => .num (!s) m e

/-- A finite value as an integer multiple of 2^q, for q at most its exponent. -/
def signedAt (s : Bool) (m : Nat) (e q : Int) : Int :=
  let k : Int := (m * 2 ^ (e - q).toNat : Nat)
  if s then -k else k

/-- The exact sum; a zero sum of unlike zeros or of opposite values is +0 (R153). -/
def FVal.add : FVal → FVal → FVal
  | .nan, _ => .nan
  | _, .nan => .nan
  | .inf s, .inf t => if s = t then .inf s else .nan
  | .inf s, .num .. => .inf s
  | .num .., .inf t => .inf t
  | .num s m e, .num t n f =>
    let q := min e f
    let k := signedAt s m e q + signedAt t n f q
    if k = 0 then .num (s && t) 0 q else .num (decide (k < 0)) k.natAbs q

def FVal.mul : FVal → FVal → FVal
  | .nan, _ => .nan
  | _, .nan => .nan
  | .inf s, .inf t => .inf (s != t)
  | .inf s, .num t m _ => if m = 0 then .nan else .inf (s != t)
  | .num s m _, .inf t => if m = 0 then .nan else .inf (s != t)
  | .num s m e, .num t n f => .num (s != t) (m * n) (e + f)

/-- A quotient or root that need not be exact: a multiple with a last bit that stands for everything below it. -/
def sticky (q : Nat) (exact : Bool) : Nat := 2 * q + (if exact then 0 else 1)

/-- The quotient (R357), with far more bits than any format keeps. -/
def FVal.div : FVal → FVal → FVal
  | .nan, _ => .nan
  | _, .nan => .nan
  | .inf _, .inf _ => .nan
  | .inf s, .num t _ _ => .inf (s != t)
  | .num s _ _, .inf t => .num (s != t) 0 0
  | .num s m e, .num t n f =>
    if n = 0 then (if m = 0 then .nan else .inf (s != t))
    else
      let k := bitLen n + 80
      .num (s != t) (sticky (m * 2 ^ k / n) (m * 2 ^ k % n == 0)) (e - f - k - 1)

/-- The integer square root, bit by bit. -/
def isqrtFrom (x : Nat) : Nat → Nat → Nat
  | 0, r => r
  | k + 1, r => isqrtFrom x k (if (r + 2 ^ k) * (r + 2 ^ k) ≤ x then r + 2 ^ k else r)

def isqrt (x : Nat) : Nat := isqrtFrom x (bitLen x / 2 + 1) 0

/-- The square root (R357). -/
def FVal.sqrt : FVal → FVal
  | .nan => .nan
  | .inf s => if s then .nan else .inf false
  | .num s m e =>
    if m = 0 then .num s 0 0
    else if s then .nan
    else
      let k := 160 + (e % 2).toNat
      let x := m * 2 ^ k
      let r := isqrt x
      .num false (sticky r (r * r == x)) ((e - k) / 2 - 1)

/-- The order of R153: −0 below +0; no NaN. -/
def FVal.lt : FVal → FVal → Bool
  | .inf s, .inf t => s && !t
  | .inf s, _ => s
  | _, .inf t => !t
  | .num s m e, .num t n f =>
    let q := min e f
    let x := signedAt s m e q
    let y := signedAt t n f q
    decide (x < y) || (x == y && m == 0 && n == 0 && s && !t)
  | _, _ => false

/-- The numeric relation of FCMP (R358): zeros of both signs are equal. -/
inductive Rel where
  | lt | eq | gt | un
  deriving DecidableEq, Repr

def FVal.rel : FVal → FVal → Rel
  | .nan, _ => .un
  | _, .nan => .un
  | .num s m e, .num t n f =>
    let q := min e f
    let x := signedAt s m e q
    let y := signedAt t n f q
    if x < y then .lt else if x = y then .eq else .gt
  | a, b => if a.lt b then .lt else if b.lt a then .gt else .eq

/-- FMIN and FMAX (R153). -/
def FVal.fmin (a b : FVal) : FVal :=
  if a = .nan then b else if b = .nan then a else if b.lt a then b else a
def FVal.fmax (a b : FVal) : FVal :=
  if a = .nan then b else if b = .nan then a else if a.lt b then b else a

/-- The exact sum of a list; empty gives +0 (log 11). -/
def FVal.sum : List FVal → FVal
  | [] => .num false 0 0
  | [a] => a
  | a :: b :: t => FVal.add a (FVal.sum (b :: t))

/-- v × 2^k. -/
def FVal.scale (v : FVal) (k : Int) : FVal :=
  match v with
  | .num s m e => .num s m (e + k)
  | w => w

/-! The correctly rounded functions of R442: fixed point with 320 fraction bits (log 12). -/

def fixBits : Nat := 320
def fixOne : Nat := 2 ^ fixBits

/-- ln 2 as the sum of 1 / (k × 2^k). -/
def ln2Fix : Nat := ((List.range 330).map fun k => fixOne / ((k + 1) * 2 ^ (k + 1))).foldl (· + ·) 0

/-- The Taylor terms of e^y from the k-th on. -/
def expTerms (y : Nat) : Nat → Nat → Nat → Nat → Nat
  | 0, _, _, acc => acc
  | n + 1, k, t, acc =>
    let t' := t * y / fixOne / k
    expTerms y n (k + 1) t' (acc + t')

/-- 2^f for f in [0, 1), both in fixed point. -/
def exp2Fix (f : Nat) : Nat := expTerms (f * ln2Fix / fixOne) 80 1 fixOne fixOne

/-- The terms z^(2k+1) / (2k+1) of atanh z. -/
def atanhTerms (z2 : Int) : Nat → Nat → Int → Int → Int
  | 0, _, _, acc => acc
  | n + 1, k, p, acc => atanhTerms z2 n (k + 2) (p * z2 / fixOne) (acc + p / k)

/-- log2 x for x between 3/4 and 3/2, in fixed point. -/
def log2Fix (x : Nat) : Int :=
  let z : Int := ((x : Int) - fixOne) * fixOne / (x + fixOne)
  2 * atanhTerms (z * z / fixOne) 120 1 z 0 * fixOne / ln2Fix

/-- 2^a (R442). -/
def FVal.exp2 : FVal → FVal
  | .nan => .nan
  | .inf s => if s then .num false 0 0 else .inf false
  | .num s m e =>
    if m = 0 then .num false 1 0
    else if 12 < (bitLen m : Int) + e then (if s then .num false 1 (-5000) else .num false 1 5000)
    else
      let x := signedAt s m e (min e 0)
      let d : Int := (2 ^ (-(min e 0)).toNat : Nat)
      let n := x / d
      let f := (x % d).toNat * 2 ^ fixBits / d.toNat
      if x % d = 0 then .num false 1 n
      else .num false (sticky (exp2Fix f) false) (n - fixBits - 1)

/-- log2 a (R442). -/
def FVal.log2 : FVal → FVal
  | .nan => .nan
  | .inf s => if s then .nan else .inf false
  | .num s m e =>
    if m = 0 then .inf true
    else if s then .nan
    else
      let top := bitLen m - 1
      let n : Int := top + e
      let x := m * 2 ^ fixBits / 2 ^ top
      if m = 2 ^ top then FVal.ofInt n
      else
        let hi := decide (3 * fixOne < 2 * x)
        let n' := if hi then n + 1 else n
        let l := log2Fix (if hi then x / 2 else x) + n' * fixOne
        .num (decide (l < 0)) (sticky l.natAbs false) (-(fixBits : Int) - 1)

/-- 1 / √a (R442). -/
def FVal.rsqrt : FVal → FVal
  | .nan => .nan
  | .inf s => if s then .nan else .num false 0 0
  | .num s m e =>
    if m = 0 then .inf s
    else if s then .nan
    else
      let k := 2 * bitLen m + 200 + ((e + 2 * bitLen m + 200) % 2).toNat
      let x := 2 ^ k / m
      let r := isqrt x
      .num false (sticky r (r * r * m == 2 ^ k)) (-((e + k) / 2) - 1)

/-- 1 / a (R442). -/
def FVal.rcp (a : FVal) : FVal := FVal.div (.num false 1 0) a

/-! The rounding control word and STOCH (R154, R155). -/

/-- A rounding control word: mode, overflow choice, seed. -/
structure Rcw where
  mode : Nat
  ovf : Bool
  seed : Nat
  deriving DecidableEq, Repr

/-- The control word of a register; none when its MODE or a reserved bit is refused (R154). -/
def rcwOf (w : Word) : Option Rcw :=
  if w.toNat % 8 ≤ 4 ∧ w.toNat / 16 % 2 ^ 28 = 0 then
    some { mode := w.toNat % 8, ovf := w.toNat / 8 % 2 == 1, seed := w.toNat / 2 ^ 32 }
  else none

/-- The 16 stochastic bits of element i (R155). -/
def stochQ (seed i : Nat) : Nat :=
  let x0 : BitVec 32 := BitVec.ofNat 32 (seed + i * 0x9E3779B9)
  let x1 := x0 ^^^ (x0 >>> 16)
  let x2 := x1 * 0x85EBCA6B
  let x3 := x2 ^^^ (x2 >>> 13)
  let x4 := x3 * 0xC2B2AE35
  let x5 := x4 ^^^ (x4 >>> 16)
  x5.toNat % 65536

def Rcw.modeAt (c : Rcw) (i : Nat) : Mode :=
  match c.mode with
  | 0 => .rne | 1 => .rtz | 2 => .rdn | 3 => .rup | _ => .stoch (stochQ c.seed i)

def rcwRne (ovf : Bool) : Rcw := { mode := 0, ovf := ovf, seed := 0 }

/-! Conversions (R156, R157, R159). -/

/-- A finite value rounded to an integer under a mode. -/
def roundInt (r : Mode) (s : Bool) (m : Nat) (e : Int) : Int :=
  let n : Int := roundAt r s m e 0
  if s then -n else n

def clampInt (lo hi i : Int) : Int := if i < lo then lo else if hi < i then hi else i

/-- The range of an integer format (R157). -/
def intLo (signed : Bool) (w : Nat) : Int := if signed then -(2 ^ (w - 1) : Nat) else 0
def intHi (signed : Bool) (w : Nat) : Int := if signed then (2 ^ (w - 1) : Nat) - 1 else (2 ^ w : Nat) - 1

/-- A value converted to an integer: rounded, saturated; NaN gives 0, an infinity the end of the range (R157). -/
def toIntVal (r : Mode) (signed : Bool) (w : Nat) (v : FVal) : Int :=
  match v with
  | .nan => 0
  | .inf s => if s then intLo signed w else intHi signed w
  | .num s m e => clampInt (intLo signed w) (intHi signed w) (roundInt r s m e)

/-- The w-bit two's-complement image of an integer. -/
def intBits (w : Nat) (i : Int) : Nat := (i % (2 ^ w : Nat)).toNat

/-- Sext of R333. -/
def sextInt (w n : Nat) : Int := if n % 2 ^ w < 2 ^ (w - 1) then ((n % 2 ^ w : Nat) : Int) else (n % 2 ^ w : Nat) - (2 ^ w : Nat)

/-- The mantissa width of a block format (R143). -/
def blockW (w : Fin 7) : Nat := w.val + 2

/-- The value of an element's bits; x is the scale byte of its block, unused by formats without a scale (R146, R150, R151). -/
def elemVal (f : Fmt) (x bits : Nat) : FVal :=
  match f with
  | .b w => if x = 0xFF then .nan else (FVal.ofInt (sextInt (blockW w) bits)).scale ((x : Int) - 127)
  | .e4m3s | .e5m2s | .e2m1s =>
    if x = 0xFF then .nan else (match fmtLayout f with | some p => p.val bits | none => .nan).scale ((x : Int) - 127)
  | .i32 | .i16 | .i8 => FVal.ofInt (sextInt f.bits bits)
  | .n32 | .n16 | .n8 => FVal.ofInt (bits % 2 ^ f.bits : Nat)
  | _ => match fmtLayout f with | some p => p.val bits | none => .nan

/-- A value converted to a format without a scale (R156, R157). -/
def convElem (f : Fmt) (c : Rcw) (i : Nat) (v : FVal) : Nat :=
  match fmtLayout f with
  | some p => p.round (c.modeAt i) c.ovf v
  | none => intBits f.bits (toIntVal (c.modeAt i) f.isSigned f.bits v)

/-- A value divided by a block's scale and written to an element of a scaled or block format (R158 step 4, R441). -/
def quantElem (f : Fmt) (c : Rcw) (i x : Nat) (v : FVal) : Nat :=
  if x = 0xFF then 0
  else
    let u := v.scale (127 - (x : Int))
    match f with
    | .b w =>
      let bound : Int := (2 ^ (blockW w - 1) : Nat) - 1
      let n := match u with
        | .nan => 0
        | .inf s => if s then -bound else bound
        | .num s m e => clampInt (-bound) bound (roundInt (c.modeAt i) s m e)
      intBits f.bits n
    | _ => match fmtLayout f with
      | some p => p.round (c.modeAt i) c.ovf u
      | none => 0

/-- ⌊log2 of the largest finite magnitude⌋ of a block, none where every value is zero (R158). -/
def topExp : List FVal → Option Int
  | [] => none
  | .num _ m e :: t =>
    if m = 0 then topExp t
    else
      let k := (bitLen m : Int) - 1 + e
      match topExp t with
      | none => some k
      | some j => some (max k j)
  | _ :: t => topExp t

/-- The k of R158. -/
def quantK : Fmt → Int
  | .b w => w.val
  | .e4m3s => 8 | .e5m2s => 15 | _ => 2

/-- Requantise a block: its scale byte and its elements' bits; i0 is the index of element 0, as R155 counts it (R158). -/
def requantise (f : Fmt) (c : Rcw) (i0 : Nat) (vs : List FVal) : Nat × List Nat :=
  let bad := vs.any fun v => match v with | .nan => true | .inf _ => c.ovf | _ => false
  if bad then (0xFF, vs.map fun _ => 0)
  else
    let us := vs.map fun v => match v with | .inf s => FVal.num s fp32.maxM fp32.maxQ | w => w
    match topExp us with
    | none => (0, us.map fun _ => 0)
    | some e =>
      let x := (clampInt 0 254 (e - quantK f + 127)).toNat
      (x, us.mapIdx fun j v => quantElem f { c with ovf := false } (i0 + j) x v)

/-- c + S rounded to FP32, S the exact sum of products (R161). -/
def addBlock (c : Nat) (as bs : List FVal) : Nat :=
  let ps := List.zipWith FVal.mul as bs
  let any := (as ++ bs).any fun v => v == .nan
  if any then fp32.nan else fp32.rne (FVal.add (fp32.val c) (FVal.sum ps))

/-- The residue modulo 3 that the checker compares (R285). -/
def residue3 (n : Nat) : Nat := n % 3

end Sys2Proof.Machine
end

