-- ==== Sys2Proof/Machine/State.lean ====
section
/-! DEFINITION. The state of the panel as plain data: the cores and their strands, memory, the accesses and engine operations in flight, tile tasks, contexts, queues, the map and rotation, the host and link registers, the trust die; the reasons a step can stop; the state after reset. -/

namespace Sys2Proof.Machine

/-- Why the machine stops. Raised by `step` alone. -/
inductive Fault where
  /-- The schedule, which is the model's own field, names a core position that does not exist (48 × 64 × 8 positions, R11). Safe: no hardware run has such a step. -/
  | noSuchCore
  deriving DecidableEq, Repr

/-- What the model does not run. -/
inductive Refusal where
  /-- An instruction without a meaning, raised by its arm of `exec` alone. Safe. -/
  | notModelled (mnemonic : String)
  deriving DecidableEq, Repr

/-! Traps and strands (R34 to R58, R254 to R263). -/

/-- A 32-byte sub-fault record (R81). -/
structure SubFault where
  cause : Nat
  sub : Nat
  level : Nat := 2
  resumable : Bool := true
  leaf : Nat := 0
  seq : BitVec 64 := 0
  addr : BitVec 64 := 0
  kblk : Nat := 0
  vcn : Nat := 0
  deriving DecidableEq, Repr

/-- A trap on its way to a frame (R254, R255, R260). -/
structure Trap where
  cause : Nat
  sub : Nat
  fpc : BitVec 56 := 0
  addr : BitVec 64 := 0
  seq : BitVec 64 := 0
  roll : Bool := false
  subOvf : Bool := false
  subs : List SubFault := []
  deriving DecidableEq, Repr

/-- The outstanding counts (R99, R191). -/
structure Counts where
  loads : Nat := 0
  stores : Nat := 0
  copies : Nat := 0
  tiles : Nat := 0
  cl : Nat := 0
  ch : Nat := 0
  pn : Nat := 0
  deriving DecidableEq, Repr

/-- Window states (R224); a strand without a window is in none. -/
inductive WinState where
  | none | opened | fixed | sealed | truncated
  deriving DecidableEq, Repr

/-- A strand's current window (R224, R226). mark: ring offset of its MARK; rsv: the log writer with which it holds the standing reservation of R475; sealer: the tile root or the engine operation that seals it and is still under way. -/
structure Window where
  num : Nat := 0
  st : WinState := .none
  stamp : Nat := 0
  mark : Option Nat := none
  rsv : Option Nat := none
  sealer : Option (Bool × Nat) := none
  deriving DecidableEq, Repr

/-- States of a strand-table entry (R43); a FREE entry is not listed. -/
inductive StrandState where
  | ready | running | suspending | blocked
  deriving DecidableEq, Repr

/-- What the event unit records for a suspended waiter (R209). -/
inductive Grant where
  | value (v : Word)
  | error (sub : Nat)
  deriving DecidableEq, Repr

/-- Where a tile context lives when no slot holds it (R42, R266, R268). -/
inductive SavedAt where
  | unit (u : Nat)
  | area (pos slot : Nat)
  deriving DecidableEq, Repr

/-- The image formed at a trap stop or at a rotation drain (R256, R279). -/
structure StopImage where
  words : List Word := []
  high : List Word := []
  bypass : List (RowId × Row) := []
  trap : Option Trap := none
  time : Nat := 0
  core : Nat := 0
  tiles : Nat := 0
  deriving DecidableEq, Repr

/-- Which chain entry and slot serve a trap (R259). -/
structure FrameRef where
  chain : Nat
  slot : Nat
  deriving DecidableEq, Repr

/-- What a BLOCKED strand waits for (R37): a work list, its own counts, or something that wakes it by name. -/
inductive BlockOn where
  | other | counts
  | list (d : Nat)
  deriving DecidableEq, Repr

/-- A strand-table entry (R34, R43). A kernel's strand has a kernel; a handler strand has the frame it serves. -/
structure Strand where
  asid : Nat := 0
  vcn : Nat := 0
  recIdx : Nat := 0
  kernel : Option Nat := none
  serves : Option FrameRef := none
  acked : Bool := false
  st : StrandState := .blocked
  pos : Nat := 0
  counts : Counts := {}
  holding : Bool := false
  triggered : Bool := false
  pinned : Bool := false
  slot : Option Nat := none
  saved : Option SavedAt := none
  wakeLatch : Bool := false
  passLatch : Bool := false
  grant : Option Grant := none
  grantVa : BitVec 56 := 0
  suspendedAt : Nat := 0
  window : Window := {}
  trapMark : Bool := false
  stop : Option StopImage := none
  high : Option (List Word) := none
  pending : List Trap := []
  frame : Option FrameRef := none
  rollbackDue : Bool := false
  ending : Bool := false
  yielded : Bool := false
  blockOn : BlockOn := .other
  deriving DecidableEq, Repr

/-- What a core waits for before its strand goes on: an unmet condition that is no suspension point, or a blocking instruction (R37, R39). -/
inductive Wait where
  | none
  | stall
  | block (suspends : Bool)
  deriving DecidableEq, Repr

/-- The outstanding access at which the running strand blocks (R191, R204, R213). -/
inductive Gate where
  | none
  | access (id : Nat)
  | unit
  | watch
  deriving DecidableEq, Repr

/-- How a strand suspends (R37, R50). -/
inductive Susp where
  | none | retry | yield | suspend | idle
  deriving DecidableEq, Repr

/-- A trap that waits for the counts to drain (R255, R256): the trap, the resume PC and RETRY of the image. -/
structure PendingStop where
  trap : Trap
  resume : BitVec 56
  retry : Bool := false
  deriving DecidableEq, Repr

/-- An entry of the vector queue (R428): the clocks it holds a lane group, whether it is a product for the matrix unit, the PC of its instruction while its residue check may fail (R285), the rows that it reads and writes (R249); tile: the piece of a tile instruction at L1 that it is, by root and leaf number (R61). -/
structure VqEntry where
  clocks : Nat
  product : Bool := false
  check : Option (BitVec 56) := none
  reads : List RowId := []
  writes : List RowId := []
  tile : Option (Nat × Nat) := none
  deriving DecidableEq, Repr

/-- A core and the strand that it runs. l5Marks: the marks of the FENCEI.L5 tickets of this dispatch (R195). run: the strand's number, none while idle. retry: the strand resumed at a recorded blocking instruction. idles: its last strand left it by IDLE, and its clock stands until a strand becomes READY for it (R367). past: the PC names head 31 of the line before it (R106). recent: the PCs of the instructions whose residue checks may still be under way, newest first, none for one that gives no checked result (R285). -/
structure Core where
  run : Option Nat := none
  str : Strand := {}
  regs : Vector Word 16 := Vector.replicate 16 0
  pc : BitVec 56 := 0
  line : Option (BitVec 56 × BitVec 512) := none
  bypass : List (RowId × Row) := []
  runStamp : BitVec 16 := 0
  mark : BitVec 32 := 0
  wait : Wait := .none
  gate : Gate := .none
  susp : Susp := .none
  stop : Option PendingStop := none
  retry : Bool := false
  idles : Bool := false
  past : Bool := false
  recent : List (Option (BitVec 56)) := []
  slot0 : Option Nat := none
  slot1 : Option Nat := none
  l5Marks : List (BitVec 32) := []
  vq : List VqEntry := []
  pass : BitVec 64 := 0
  deriving DecidableEq, Repr

/-! Memory and accesses. -/

/-- Memory: listed bytes in the canonical form; the uncorrectable scratchpad words and HBM blocks (R472, R185); the HBM blocks that are being rewritten after a corrected error (R203); the key under which each HBM block was last written (R184). -/
structure Memory where
  cells : List Host.Cell := []
  bad : List Nat := []
  rewrites : List Nat := []
  blockKey : Tbl Nat := []
  deriving DecidableEq, Repr

/-- What a translated address names (R169). Offsets are bytes within the store. own: through the own-core target type. -/
inductive Loc where
  | core (vcn pos off : Nat) (own : Bool)
  | cluster (vcn off : Nat)
  | chiplet (c off : Nat)
  | event (vcn off : Nat)
  | window (off : Nat)
  | hbm (p key : Nat)
  | host (h : Nat)
  | peer (idx off : Nat)
  deriving DecidableEq, Repr

/-- A logged part of a write (R222): the virtual address and the place of its old data, and how many bytes they are. -/
structure Part where
  va : Nat
  loc : Loc
  n : Nat
  deriving DecidableEq, Repr

/-- A contiguous piece of an access within one page: n bytes from a location; for a write, the bytes, none where a byte is not written, and its logged parts; whole: the scatter that it belongs to writes every byte of its words (R472). -/
structure Seg where
  va : BitVec 56
  loc : Loc
  n : Nat
  data : List (Option Byte) := []
  parts : List Part := []
  whole : Bool := false
  deriving DecidableEq, Repr

/-- The destination class (R190). -/
inductive Class where
  | loc | cl | ch | pn
  deriving DecidableEq, Repr

/-- How a loaded value reaches its registers. -/
inductive Dest where
  | none
  | scalar (d : Reg) (n : MemWidth)
  | pair (d b : Reg)
  /-- A row: for each byte of the row, the index of the loaded byte that replaces it, none where the old byte stays; held: the bytes that came from the own slot when the instruction issued (R92). -/
  | row (rd : RowId) (transient : Bool) (from_ : List (Option Nat)) (held : List (Option Byte) := [])
  | atomic (d : Reg) (n : AWidth)
  | status (d : Reg)
  deriving DecidableEq, Repr

/-- What an access does where it arrives. -/
inductive AccOp where
  | load
  | store
  | atomic (op : AtomOp) (n : AWidth) (b c : Word)
  | waita (c : Word)
  | eventLoad (off : Nat)
  | eventStore (off : Nat) (v : Word)
  | wake (vcn recIdx : Nat)
  | spawn (vcn : Nat) (words : List Word) (triggered : Bool)
  | qpush (vcn list : Nat) (item : Word)
  | evsig (vcn line : Nat)
  deriving DecidableEq, Repr

/-- Where an access stands: on its way; waiting at a claim; parked in a fault queue; refused by a full fault queue; held at the shadow; refused as stale; carried by a merge group; waiting for its log writer; watching its word; performed with its result; or failed with a trap. -/
inductive Stage where
  | issued | held | parked | refused | forwarded | stale | merged | logWait | watching
  | performed (bytes : List Byte) (old : Word)
  | failed (t : Trap)
  deriving DecidableEq, Repr

/-- An access that has issued and is not yet answered (R186, R191, R274). sid: its strand. gens: the map generation of each VCN it names when it was sent; asGen: the address-space generation under which it was translated (R178). rsv: log bytes reserved for it (R229). merged: the accesses that it carries; seqNo: its place in a fault queue, among the accesses that wait at claims, or among the messages that a shadow holds (R197, R203, R281); fwd: it has been forwarded; replayed: a fault queue has sent it on (R203); staleAt: when it met a STALE response (R281). group: the first access of the scatter of which it is an element (R445). -/
structure Access where
  id : Nat
  sid : Nat
  core : Nat
  pc : BitVec 56
  asid : Nat
  vcn : Nat
  op : AccOp
  segs : List Seg := []
  cls : List Class := []
  dest : Dest := .none
  stage : Stage := .issued
  gens : List (Nat × BitVec 8) := []
  asGen : BitVec 20 := 0
  win : Nat := 0
  winStamp : Nat := 0
  mark : BitVec 32 := 0
  rsv : List (Nat × Nat) := []
  merged : List Nat := []
  seqNo : Nat := 0
  fwd : Bool := false
  replayed : Bool := false
  staleAt : Nat := 0
  group : Option Nat := none
  deriving DecidableEq, Repr

/-- A claim in a hold table (R197): the engine operation or tile root that holds it, the bank, and the lowest and highest byte; opnd: of a tile instruction, which of its operands (R74). -/
structure Claim where
  owner : Nat
  tile : Bool := false
  write : Bool
  bank : Nat
  lo : Nat
  hi : Nat
  opnd : Nat := 0
  deriving DecidableEq, Repr

/-- A WAITA watch (R213). -/
structure Watch where
  sid : Nat
  bank : Nat
  addr : Nat
  va : BitVec 56
  cmp : Word
  access : Nat
  deriving DecidableEq, Repr

/-- The engine instructions (R173). -/
inductive EngKind where
  | get | put | tcpy | tcpya | armw (op : AtomOp) (b c : Word)
  deriving DecidableEq, Repr

/-- What an engine moves to one place: n bytes, from a located source at its virtual address or from a fill, to a piece with its logged parts; the data is read when it moves. -/
structure EMove where
  sva : Nat := 0
  src : Option Loc := none
  fill : List Byte := []
  dst : Seg
  deriving DecidableEq, Repr

/-- An engine operation (R173, R196, R199). bytes: what its arrival counts. arr: its arrival operand and the place that it names; arrGens: the map generation under which the arrival was sent, none before; arrFwd, arrSeq: its place among the messages that a shadow holds, and among those that wait at claims (R197); parked: the place of an ARMW in its fault queue (R203); staleAt: when it met a STALE response (R274, R281). asGen: as of an access. add: the format of TCPYA. out, again: packets to a peer that are not answered, those that the far panel asked for again, and the one that carries the arrival, which waits for all others; retryAt: when the far panel last asked for one again. -/
structure EngOp where
  id : Nat
  sid : Nat
  core : Nat
  pc : BitVec 56
  asid : Nat
  vcn : Nat
  kind : EngKind
  bytes : Nat := 0
  moves : List EMove := []
  add : Option Fmt := none
  arr : Option (Word × Seg) := none
  arrGens : List (Nat × BitVec 8) := []
  arrFwd : Option Nat := none
  arrSeq : Option Nat := none
  parked : Option Nat := none
  staleAt : Option Nat := none
  asGen : BitVec 20 := 0
  moved : Bool := false
  arrived : Bool := false
  subs : List SubFault := []
  shapeErr : Option (BitVec 64) := none
  near : Nat := 5
  far : Bool := false
  farDone : Bool := false
  mark : BitVec 32 := 0
  out : List (List Byte) := []
  again : List (List Byte) := []
  hold : List (List Byte) := []
  retryAt : Nat := 0
  win : Nat := 0
  winStamp : Nat := 0
  result : Word := 0
  dest : Option Reg := none
  deriving DecidableEq, Repr

/-- An entry of a translation cache (R177). -/
structure TlbEntry where
  at_ : Agent
  asid : Nat
  gen : BitVec 20
  base : Nat
  size : Nat
  leaf : Word
  deriving DecidableEq, Repr

/-- A non-leaf entry in a chiplet's walk cache (R177): the table that it leads to from a level, for the virtual addresses with this index above that level. -/
structure WalkEntry where
  chip : Nat
  asid : Nat
  gen : BitVec 20
  level : Nat
  idx : Nat
  next : Nat
  deriving DecidableEq, Repr

/-- An arrival that a peer asked for and that waits to be performed here (R199, R306). fwd, seqNo, staleAt: as of the arrival of an engine operation. -/
structure FarArrival where
  id : Nat
  asid : Nat
  gens : List (Nat × BitVec 8) := []
  fwd : Option Nat := none
  seqNo : Option Nat := none
  staleAt : Option Nat := none
  asGen : BitVec 20 := 0
  seg : Seg
  counter : Bool
  n : Nat
  err : Bool
  deriving DecidableEq, Repr

/-! Tile instructions (R61 to R83). -/

/-- States of a tile-task record (R76). -/
inductive TaskState where
  | waiting | ready | staging | running | faulted | done
  deriving DecidableEq, Repr

/-- A parsed tile descriptor (R63). -/
structure Desc where
  base : Nat := 0
  fmt : Fmt := .f32
  rows : Nat := 1
  cols : Nat := 1
  gscalestride : Nat := 0
  rowstride : Nat := 0
  gstride : Nat := 0
  scalebase : Nat := 0
  scalestride : Nat := 0
  kbstride : Nat := 0
  deriving DecidableEq, Repr

/-- The tile instructions (R138, R139). -/
inductive TileKind where
  | mov | add | mul | cvt | baq | sortc | compact | red | trans | fill
  | mma (fa fb : Fmt)
  | mmag (fa fb : Fmt)
  deriving DecidableEq, Repr

/-- A leaf unit (R67, R68) and its record (R75). order: its age in its queue. stealTo: the thief that it is on its way to. acc: the accumulators of a product, or the counts of a sort leaf; begun: a block has been added, or the items have been counted; go: the parent has passed the offsets of a sort leaf down (R73); copy: the operand bytes that its stager has copied, each stretch at its address (R74); fail: the block whose staging met a fault; active: it is on an engine; placed, spots: a sort leaf whose items have been placed, and where; farSubs: the sub-faults of the share of another panel; retried: its block failed its residue once; gate: the port and the number of the gateway core that has its block (R308). -/
structure Leaf where
  idx : Nat
  vcn : Nat
  order : Nat := 0
  st : TaskState := .ready
  stolen : Bool := false
  stealTo : Option Nat := none
  kblk : Nat := 0
  group : Nat := 0
  rowOrg : Nat := 0
  colOrg : Nat := 0
  rowCnt : Nat := 0
  colCnt : Nat := 0
  acc : List Nat := []
  begun : Bool := false
  go : Bool := false
  copy : List (Nat × List Byte) := []
  spots : List Nat := []
  gate : Option (Nat × Nat) := none
  fail : Option (Nat × SubFault) := none
  sub : Option SubFault := none
  farSubs : List SubFault := []
  active : Bool := false
  placed : Bool := false
  retried : Bool := false
  reported : Bool := false
  deriving DecidableEq, Repr

/-- A record between the root and its L2 tasks (R61, R75): an L3 record, of the chiplet `place`, or an L4 record, of the peer with that index. parent: its parent's place in the list of records of the level above, none for the root. lo, hi: its first leaf, and one past its last; stolen: it came from another chiplet (R78). -/
structure TileMid where
  level : Nat
  parent : Option Nat := none
  place : Nat
  lo : Nat
  hi : Nat
  stolen : Bool := false
  deriving DecidableEq, Repr

/-- The root record of a tile instruction at L1 or above (R65, R66, R75). word: the value of sC, or of sA for TFILL; recVa: the group-shape or count record, or the count word; groups: first row and rows of each group; keys: the key count of TSORTC; mask: the mask of TCOMPACT, once read; own: a sub-fault of the root itself, which no leaf has; worker, copy: the virtual cluster and the copied operands of the leaf that it is seen from (TileRoot.via); spans: the ranges that R77 compares; mids: its records at the levels between; rsv: log bytes reserved and not yet written, under the logging mode at its issue (R221); near: the smallest scope that its destination lies in; tick: the number that the strand's next access had when it issued; order: its number among the context's TBAQ at L5; spoiled: a store has reached its staging area (R72). snap, addrs: SNAP and the addresses in its registers A, B, C and D, as its record shows them (R75). -/
structure TileRoot where
  seq : Nat
  sid : Nat
  asid : Nat
  vcn : Nat
  core : Nat
  pc : BitVec 56
  kind : TileKind
  level : Nat
  d : Desc := {}
  a : Option Desc := none
  b : Option Desc := none
  c : Option Desc := none
  word : Word := 0
  recVa : Nat := 0
  groups : List (Nat × Nat) := []
  gbase : Nat := 0
  keys : Nat := 0
  mask : Option (List Bool) := none
  own : Option SubFault := none
  worker : Nat := 0
  copy : List (Nat × List Byte) := []
  spans : List (Nat × Nat × Bool) := []
  st : TaskState := .waiting
  leaves : List Leaf := []
  mids : List TileMid := []
  snap : Bool := false
  addrs : List Nat := []
  mode : Nat := 0
  tick : Nat := 0
  win : Nat := 0
  winStamp : Nat := 0
  rsv : List (Nat × Nat) := []
  near : Nat := 5
  order : Nat := 0
  spoiled : Bool := false
  deriving DecidableEq, Repr

/-! Virtual clusters, contexts, queues and kernels. -/

/-- A strand that waits at the event unit (R205, R207, R208): its number and the register it loads into. -/
structure Waiter where
  sid : Nat
  dest : Reg
  va : BitVec 56
  deriving DecidableEq, Repr

/-- An arrival at a barrier: a strand's, or a child barrier's (virtual cluster and number); package times and virtual clusters of the first and last arrival that it stands for. -/
structure BarArrival where
  waiter : Option Waiter := none
  child : Nat × Nat := (0, 0)
  first : Nat := 0
  last : Nat := 0
  firstVcn : Nat := 0
  lastVcn : Nat := 0
  deriving DecidableEq, Repr

/-- A barrier (R206, R207). arrivals: those of the episode, whose ARRIVED they are; held: those that came while it waits for its parent; withheld: the release word of a superstep stop (R321). -/
structure Barrier where
  count : Nat := 0
  chain : Bool := false
  pvcn : Nat := 0
  pbar : Nat := 0
  scope : Nat := 0
  complete : Bool := false
  arrivals : List BarArrival := []
  held : List BarArrival := []
  episode : BitVec 32 := 0
  val : Word := 0
  withheld : Option Word := none
  deriving DecidableEq, Repr

/-- A mutex (R208). -/
structure Mutex where
  holder : Option Nat := none
  waiters : List Waiter := []
  deriving DecidableEq, Repr

/-- A performance counter (R326): configuration and count. -/
structure Pmc where
  cfg : BitVec 15 := 0
  cnt : BitVec 48 := 0
  deriving DecidableEq, Repr

/-- The state that belongs to a virtual cluster (R65, R204, R326): tables by line, barrier, mutex and counter number. -/
structure VCluster where
  tileIssue : BitVec 52 := 0
  lines : Tbl Nat := []
  lineWaiters : Tbl (List Waiter) := []
  bars : Tbl Barrier := []
  mutexes : Tbl Mutex := []
  pmc : Tbl Pmc := []
  pmOvf : BitVec 8 := 0
  deriving DecidableEq, Repr

/-- A log writer of a context (R219, R474): the chunk it fills, how far, and the bytes reserved and not yet written. -/
structure LogWriter where
  chunk : Option Nat := none
  fill : Nat := 0
  rsv : Nat := 0
  deriving DecidableEq, Repr

/-- The undo log of a context (R219, R220). Writers are numbered 0 to 47 for chiplets and 48 to 71 for stacks. skip: abandoned stretches (R473). fills: how far each chunk is filled; places: for each entry of old data, by ring offset, the piece that it came from (log 16). lost: entries have been passed by the head or dropped; opens: the opening stamp of each window that has entries (R223). -/
structure UndoLog where
  mode : Nat := 0
  recycle : Bool := false
  logsz : Nat := 16
  base : BitVec 56 := 0
  head : Nat := 0
  tail : Nat := 0
  used : Nat := 0
  next : BitVec 32 := 1
  writers : Tbl LogWriter := []
  skip : List (Nat × Nat) := []
  wins : List (Nat × Nat) := []
  fills : Tbl Nat := []
  places : Tbl Part := []
  opens : Tbl Nat := []
  lost : Bool := false
  deriving DecidableEq, Repr

/-- An entry of the handler chain (R258). slots: the numbers of the slots in use; queue: the trapped strands whose messages wait, with the secondary frame of a double fault, empty where there is none (R263). -/
structure ChainEntry where
  entry : BitVec 56 := 0
  frames : BitVec 56 := 0
  hvcn : Nat := 0
  nframes : Nat := 1
  hpool : Nat := 0
  busy : List Nat := []
  queue : List (Nat × List Byte) := []
  deriving DecidableEq, Repr

/-- Who runs an ASGEN: a strand, with the register that takes the generation, or the firmware for a migration (R178, R181). -/
inductive AsgenBy where
  | strand (sid : Nat) (d : Reg)
  | migration (mid : Nat)
  deriving DecidableEq, Repr

/-- A context (R26, R235). asgens: those in progress, in order; genSeen, genAt: the generation tables that the newest generation has reached, and when it was sent to them (R178); l5count: the TBAQ issued at L5 (R407); csrws: the strands whose CSRW is on its way to the log writers (R353); waitingSince: since when it has waited for physical clusters (R236); saveKey: the serial of its save key; areaTags: the tags of held eviction areas (R268). -/
structure Ctx where
  desc : Nat
  ptroot : Nat := 0
  gen : BitVec 20 := 0
  log : UndoLog := {}
  saveBase : BitVec 56 := 0
  saveSize : Nat := 0
  handlers : BitVec 56 := 0
  stage2 : Option Nat := none
  stage3 : Option Nat := none
  vcfirst : Nat := 0
  vcnum : Nat := 0
  peers : BitVec 56 := 0
  peerList : List Nat := []
  resident : Bool := false
  everResident : Bool := false
  lost : Bool := false
  evicting : Bool := false
  saving : Bool := false
  preempt : Bool := false
  stopReq : Bool := false
  stopped : Bool := false
  stoppedAt : Nat := 0
  armed : Option (Nat × Nat × BitVec 32) := none
  residentAt : Nat := 0
  waitingSince : Option Nat := none
  saveSeq : Nat := 0
  saveKey : Nat := 0
  areaTags : Tbl Nat := []
  units : List Nat := []
  chain : List ChainEntry := []
  l5count : Nat := 0
  asgens : List AsgenBy := []
  genSeen : List Nat := []
  genAt : Nat := 0
  csrws : List Nat := []
  deriving DecidableEq, Repr

/-- States of a queue (R239). -/
inductive QState where
  | disabled | idle | running | blocked | stopped | killed
  deriving DecidableEq, Repr

/-- A trace session (R322 to R325). asid: the context that its ring and its status block lie in. -/
structure TraceSession where
  asid : Nat
  ring : BitVec 56
  logsz : Nat
  wrap : Bool
  imbal : Bool
  status : BitVec 56
  written : Nat := 0
  dropped : Nat := 0
  buffers : Tbl (List (List Byte)) := []
  deriving DecidableEq, Repr

/-- A queue (R237 to R243). next: the index of the packet to process, which differs from head inside a loop; loops: the LOOP packet of each open entry, its BACK and the times left. skip: packets that a COND retires; breaks: armed indexes; waits: its COND or SIGNAL waits for earlier kernels, which is no BLOCKED state (R239); passBreak: the held packet goes on; failNext: the launch whose DONE arrival failed (R51); readySince: since when the packet that it has come to has been processable (R253); since: when a read of it was put off; retry: a read of it met an entry that is not resident (R275). -/
structure Queue where
  base : BitVec 56 := 0
  rsize : Nat := 4
  enable : Bool := false
  prio : Nat := 0
  weight : Nat := 1
  wdlim : Nat := 0
  tail : BitVec 32 := 0
  head : BitVec 32 := 0
  next : BitVec 32 := 0
  st : QState := .disabled
  code : Nat := 0
  sub : Nat := 0
  pktidx : BitVec 32 := 0
  done : BitVec 64 := 0
  desc : Nat := 0
  asid : Option Nat := none
  loops : List (BitVec 32 × Nat × Nat) := []
  skip : Nat := 0
  breaks : List Nat := []
  passBreak : Bool := false
  waits : Bool := false
  failNext : Option (BitVec 32) := none
  since : Nat := 0
  readySince : Option Nat := none
  starved : Bool := false
  retry : Bool := false
  trace : Option TraceSession := none
  deriving DecidableEq, Repr

/-- The launch header (R28). -/
structure Header where
  entry : BitVec 56 := 0
  args : Word := 0
  widths : List Nat := []
  nfields : Nat := 1
  scopes : List Nat := []
  extents : List Nat := []
  vcbase : Nat := 0
  vccount : Nat := 1
  pooloff : Nat := 0
  poolcap : Nat := 1
  wlcap : Nat := 0
  wloff : Nat := 0
  done : BitVec 56 := 0
  deriving DecidableEq, Repr

/-- A work list (R53): the slot of its oldest item and the number of items, in the ring of WLCAP slots after its control block (log 18). -/
structure WorkList where
  head : Nat := 0
  count : Nat := 0
  deriving DecidableEq, Repr

/-- A launched kernel (R31, R51, R56). messages: the virtual clusters whose launch message is on its way; told: those the quiescence report has reached; timer: residency at which its watchdog restarted (R251). -/
structure Kernel where
  q : Nat
  pkt : BitVec 32
  asid : Nat
  hdr : Header
  messages : List Nat := []
  live : Nat := 0
  lists : Tbl WorkList := []
  inflight : Nat := 0
  quiet : Bool := false
  told : List Nat := []
  timer : Nat := 0
  wdTrapped : Bool := false
  deriving DecidableEq, Repr

/-! The panel. -/

/-- A map entry (R272). prevPcn, prevGen: valid while GRACE is set. -/
structure MapEntry where
  pcn : Nat := 0
  gen : BitVec 8 := 0
  valid : Bool := false
  moored : Bool := false
  grace : Bool := false
  nonres : Bool := false
  prevPcn : Nat := 0
  prevGen : BitVec 8 := 0
  deriving DecidableEq, Repr

/-- A publication that has not reached every router (R273): its entries as they stood before, its time, and the routers that it has reached. -/
structure Pub where
  seq : BitVec 32
  before : List (Nat × MapEntry)
  time : Nat
  reached : List Nat := []
  deriving DecidableEq, Repr

/-- What the firmware has decided to publish (R273): a mooring, a retirement with the time of the failed test, the move of a virtual cluster to another chiplet, another cluster out of service so that four are (R289). -/
inductive PubReq where
  | moor (vcn : Nat) (on : Bool)
  | retire (pcn : Nat) (failed : Option Nat)
  | evacuate (vcn : Nat)
  | fill (chip : Nat)
  deriving DecidableEq, Repr

/-- States of a physical cluster (R276). -/
inductive RotState where
  | inService | due | draining | copying | test | shadow | retired
  deriving DecidableEq, Repr

/-- What occupies a lane group or the matrix unit (R248, R250): a row operation or an L0 tile instruction of a core, with the rows that it writes, or a leaf of a tile instruction. -/
inductive Occupant where
  | core (pos : Nat) (writes : List RowId)
  | leaf (seq idx : Nat)
  deriving DecidableEq, Repr

/-- A physical cluster: its rotation state (condemned: it is to be retired at its next self-test; testEnd, lastPass: when its 75 ms of test end, and its last passing test; hosts: the contexts that it has hosted since), whether it is halted, and for which context, or moored, its ageing counter (R276, R264, R284, R286), the lane groups, the passes of the task scheduler and of the matrix unit's candidates, which candidates were ready in the previous clock and which have become ready in this one, of the lane groups and of the matrix unit (R249, R250), and until when an L0 TMMA holds the matrix unit. -/
structure Cluster where
  rot : RotState := .inService
  halted : Bool := false
  haltedFor : Nat := 0
  moored : Bool := false
  dead : Bool := false
  router : Bool := true
  corr : Nat := 0
  resid : Nat := 0
  margin : Nat := 0
  hours : Nat := 0
  condemned : Bool := false
  testEnd : Nat := 0
  lastPass : Nat := 0
  hosts : List Nat := []
  groups : Tbl Occupant := []
  taskPass : BitVec 64 := 0
  ready : List Nat := []
  risen : List Nat := []
  mpass : Tbl (BitVec 64) := []
  mready : List Nat := []
  mrisen : List Nat := []
  matrix : Option Occupant := none
  matrixUntil : Nat := 0
  deriving DecidableEq, Repr

/-- A chiplet: its rotation controller (R276 to R282), its clock (R328), whether it is held in reset (R329). clean: segments of the due cluster already patched; stepAt: when its phase began; dest: the cluster that takes over in the step under way. -/
structure Chiplet where
  due : Nat := 0
  phase : Nat := 0
  defer : Nat := 0
  steps : BitVec 32 := 0
  clean : List Nat := []
  stepAt : Nat := 0
  dest : Nat := 0
  graceVcn : Option Nat := none
  gracePcn : Nat := 0
  throttled : Bool := false
  lost : Bool := false
  retiredWhole : Bool := false
  deriving DecidableEq, Repr

/-- A Shadex port (R299 to R304). counted: it has trained, and has not gone down since (R25). pend: flits not yet sent, as their bytes 4 to 247, with their peer; replay: those sent and not acknowledged, with their SEQ; ackAt: the time of the last new ACK; naked: a NAK has gone out and its replay has not come. partials: the flits of the packet that is arriving; sent: what has gone out; -/
structure Port where
  enable : Bool := false
  st : Nat := 0
  width : Nat := 0
  dead : BitVec 16 := 0
  replays : Nat := 0
  laneLoss : Nat := 0
  remote : Word := 0
  counted : Bool := false
  txSeq : Nat := 0
  ackAt : Nat := 0
  pend : List (List Byte × Nat) := []
  replay : List (Nat × List Byte × Nat) := []
  rxSeq : Nat := 0
  rxAck : Nat := 0xFFFF
  naked : Bool := false
  partials : List (List Byte) := []
  delivered : List (List Byte) := []
  sent : List (List Byte) := []
  deriving DecidableEq, Repr

/-- A peer-table entry (R295, R305). tally: twice the bytes that each tag of the peer has sent here, and one more after a fault (log 20). -/
structure Peer where
  remote : Word
  ports : Nat
  asid : Nat
  tally : Tbl Nat := []
  deriving DecidableEq, Repr

/-- A mailbox instance (R295). op, args: the registers; reqOp, req: the request as GO found it (R318); taken: the firmware has begun it; order: the place of its GO write. -/
structure Mailbox where
  op : Nat := 0
  args : List Word := [0, 0, 0, 0]
  st : Nat := 0
  code : Nat := 0
  reqOp : Nat := 0
  req : List Word := [0, 0, 0, 0]
  taken : Bool := false
  order : Nat := 0
  deriving DecidableEq, Repr

/-- A page migration (R180, R181). -/
structure Migration where
  mid : Nat
  asid : Nat
  va : Nat
  size : Nat
  old : Loc
  new : Loc
  leaf : Word
  copied : Nat := 0
  forward : Bool := false
  asgen : Bool := false
  inst : Inst
  deriving DecidableEq, Repr

/-- The fuses (R12, R23, R277, R315, R317). Clusters that are not listed have every core live. -/
structure Fuses where
  live : Tbl Nat := []
  pres : Tbl Nat := []
  stepping : Nat := 0
  lifecycle : Nat := 1
  ownerDigest : BitVec 256 := 0
  debugEnable : Bool := true
  serial : Word := 0
  deriving DecidableEq, Repr

/-- The trust die (R297, R313 to R317). bootFail: the measurement slot at which boot stopped; absent: the chiplets that failed their measurement. hot, cooled: the die has passed 110 °C, and has fallen below 95 °C since (R329). -/
structure Trust where
  bootFail : Option Nat := none
  eid : Nat := 0
  negotiated : Bool := false
  debugOpen : Bool := false
  nonce : Option (Nat × List Byte) := none
  tokenDigest : BitVec 256 := 0
  absent : List Nat := []
  hot : Bool := false
  cooled : Bool := false
  deriving DecidableEq, Repr

/-- Registers of the host port, health, time and the error log (R287, R291, R293, R296, R311), and what has been sent outside. sweepAt, agedAt: the last health sweep, and the last hourly save of the ageing counters; beaconAt: each die's last beacon pair; offsets: how far each die's counter runs ahead of the master, in ns (R310); retries: copies of the save area that failed and whose neighbour passed (R269); held: aperture writes that wait, oldest first (R293); sigReads: the zero-length reads that stand before MSI-X messages of SIGNAL, and their vectors (R294). -/
structure HostIf where
  up : Bool := false
  width : Nat := 0
  apStack : Nat := 0
  apKey : Nat := 0
  apEnable : Bool := false
  risk : Nat := 0
  worst : Nat := 0
  sweepAt : Nat := 0
  agedAt : Nat := 0
  secureIv : Nat := 3600
  riskIrq : Nat := 0xFF
  errHead : Nat := 0
  errTail : Nat := 0
  errLost : Nat := 0
  errRing : Tbl (List Byte) := []
  retries : Nat := 0
  held : List (Nat × List Byte) := []
  sigReads : List (Nat × Nat) := []
  sideErrors : List Nat := []
  ageStore : Tbl Word := []
  maxSeen : Nat := 0
  beacons : BitVec 32 := 0
  beaconAt : Tbl Nat := []
  offsets : Tbl Int := []
  msixTable : Tbl Word := []
  msix : List Nat := []
  replies : List (List Byte) := []
  events : List Nat := []
  deriving DecidableEq, Repr

/-- What befalls the panel without a row of the opcode table (log 142): an access that finds one wrong bit in the scratchpad word at a flat address, or one wrong symbol in the HBM block there, and corrects it (R184, R185, R472); an error that cannot be corrected in that word or block; the end of the rewriting of a corrected HBM block (R203); an error of two bits in the control state of a cluster, found for one of its strands or for none (R290); a new address-space generation reaching one table, cluster tables by PCN and chiplet tables from 4,096 on (R178). -/
inductive Chance where
  | single (a : Nat)
  | double (a : Nat)
  | rewritten (a : Nat)
  | control (pcn : Nat) (sid : Option Nat)
  | genTable (asid table : Nat)
  deriving DecidableEq, Repr

/-- A pick of the schedule: the core or the event that moves next, or what befalls the panel. -/
inductive Pick where
  | core (id : Nat)
  | event (i : Instr)
  | chance (c : Chance)
  deriving DecidableEq, Repr

/-- The panel. The first fields are the focused core and the model's own schedule (log 1). lastQueue: for each priority, the queue that was served last. stackErrs: the symbols that each HBM stack has corrected, as its error log counts them (R185). ptime: the master package time (R310); events: the counted events that have happened and that no counter has taken yet (R326). -/
structure State where
  focus : Nat := 0
  cur : Core := {}
  cores : Tbl Core := []
  strands : Tbl Strand := []
  nextSid : Nat := 0
  ready : Tbl (List Nat) := []
  mem : Memory := {}
  keys : Tbl Nat := []
  keyCtr : Nat := 0
  tlb : List TlbEntry := []
  walks : List WalkEntry := []
  icache : List (Nat × BitVec 56 × Nat × BitVec 512) := []
  flight : List Access := []
  engines : List EngOp := []
  claims : List Claim := []
  watches : List Watch := []
  nextId : Nat := 0
  tiles : List TileRoot := []
  vcs : Tbl VCluster := []
  ctxs : Tbl Ctx := []
  queues : Tbl Queue := []
  kernels : Tbl Kernel := []
  nextKernel : Nat := 0
  lastQueue : Tbl Nat := []
  map : Tbl MapEntry := []
  mapSeq : BitVec 32 := 0
  pubs : List Pub := []
  pubReqs : List PubReq := []
  clusters : Tbl Cluster := []
  chips : Tbl Chiplet := []
  lostDies : List Nat := []
  stackErrs : Tbl Nat := []
  asyncFlight : List (Nat × Trap) := []
  releases : List (Nat × Nat × Grant) := []
  parentArrivals : List (Nat × Nat × BarArrival) := []
  arrivals : List FarArrival := []
  migrations : List Migration := []
  peers : Tbl Peer := []
  ports : Tbl Port := []
  mboxHost : Mailbox := {}
  mboxSide : Mailbox := {}
  mbOrder : Nat := 0
  fuses : Fuses := {}
  trust : Trust := {}
  hostIf : HostIf := {}
  ptime : Nat := 0
  events : Tbl Nat := []
  freeCtr : Nat := 0
  sched : List (Nat × Pick) := []
  deriving DecidableEq, Repr

/-- The machine right after power-on reset: R4, R98, R99, R220, R237 to R239, R272, R276, R277, R287, R293, R295, R296, R304, R311, R316; registers that no rule resets hold 0 (log 3), memory lists nothing (log 4). -/
def State.reset : State := {}

end Sys2Proof.Machine
end

