-- ==== Sys2Proof/Machine/Mem.lean ====
section
/-! DEFINITION. Physical memory: the flat numbering of every store, its canonical form, home banks, keys and integrity (R18, R171, R183 to R185, R472). -/

namespace Sys2Proof.Machine

/-! The flat numbering: HBM at its physical address, the scratchpads and host memory above it. -/

def coreBase (pcn pos : Nat) : Nat := 2 ^ 44 + (pcn * 8 + pos) * 2 ^ 16
def clusterBase (pcn : Nat) : Nat := 2 ^ 45 + pcn * 2 ^ 20
def chipletBase (c : Nat) : Nat := 2 ^ 46 + c * 2 ^ 24
def hostBase : Nat := 2 ^ 57

/-- HBM ends at 0x180_0000_0000 (R171). -/
def hbmEnd : Nat := 0x18000000000

def isHbm (a : Nat) : Bool := decide (a < 2 ^ 44)
def isHost (a : Nat) : Bool := decide (2 ^ 57 ≤ a)

/-- What a byte reads as that nothing has written (log 4). -/
def unlisted : Byte := 0

/-- The byte listed at an address. -/
def cellGet : List Host.Cell → Nat → Byte
  | [], _ => unlisted
  | (i, b) :: t, a => if i = a then b else if a < i then unlisted else cellGet t a

/-- Write a byte, keeping addresses rising and listing no byte that reads as an unlisted one. -/
def cellSet : List Host.Cell → Nat → Byte → List Host.Cell
  | [], a, x => if x = unlisted then [] else [(a, x)]
  | (i, b) :: t, a, x =>
    if a < i then (if x = unlisted then (i, b) :: t else (a, x) :: (i, b) :: t)
    else if i = a then (if x = unlisted then t else (a, x) :: t)
    else (i, b) :: cellSet t a x

/-- The addresses rise and no listed byte reads as an unlisted one. -/
def cellsWf : List Host.Cell → Bool
  | [] => true
  | [(_, b)] => b != unlisted
  | (i, b) :: (j, c) :: t => b != unlisted && decide (i < j) && cellsWf ((j, c) :: t)

/-- The canonical form of memory. -/
def Memory.wf (m : Memory) : Bool := cellsWf m.cells

def Memory.byte (m : Memory) (a : Nat) : Byte := cellGet m.cells a

/-- n bytes from an address. -/
def Memory.read (m : Memory) (a : Nat) : Nat → List Byte
  | 0 => []
  | n + 1 => m.byte a :: Memory.read m (a + 1) n

def Memory.setByte (m : Memory) (a : Nat) (b : Byte) : Memory := { m with cells := cellSet m.cells a b }

/-- Write bytes from an address on; none leaves a byte as it is. -/
def Memory.write (m : Memory) (a : Nat) : List (Option Byte) → Memory
  | [] => m
  | none :: t => m.write (a + 1) t
  | some b :: t => (m.setByte a b).write (a + 1) t

/-- Little-endian value of bytes (R2). -/
def leNat : List Byte → Nat
  | [] => 0
  | b :: t => b.toNat + 256 * leNat t

/-- The n low bytes of a value, lowest first (R2). -/
def toLe : Nat → Nat → List Byte
  | 0, _ => []
  | n + 1, v => BitVec.ofNat 8 v :: toLe n (v / 256)

/-- A little-endian field of a byte string. -/
def field (bs : List Byte) (off n : Nat) : Nat := leNat ((bs.drop off).take n)

def wordLe (w : Word) : List Byte := toLe 8 w.toNat

/-! Home banks (R171). -/

/-- The width of the banks that hold an address. -/
def bankWidth (a : Nat) : Nat :=
  if isHbm a then 256 else if a < 2 ^ 45 then 8 else if a < 2 ^ 46 then 32 else 64

/-- The home bank of a flat address. -/
def bankOf (a : Nat) : Nat :=
  if isHbm a then a / 2 ^ 36 * 64 + a / 256 % 64
  else if a < 2 ^ 45 then 2 ^ 40 + (a - 2 ^ 44) / 2 ^ 16 * 512 + a / 8 % 512
  else if a < 2 ^ 46 then 2 ^ 41 + (a - 2 ^ 45) / 2 ^ 20 * 64 + a / 32 % 64
  else if a < 2 ^ 57 then 2 ^ 42 + (a - 2 ^ 46) / 2 ^ 24 * 256 + a / 64 % 256
  else 2 ^ 43

/-- The stretches of n bytes from an address, cut where the bank changes: bank, lowest and highest byte. fuel: at least the bytes. -/
def stretches : Nat → Nat → Nat → List (Nat × Nat × Nat)
  | 0, _, _ => []
  | fuel + 1, a, n =>
    if n = 0 then []
    else
      let w := bankWidth a
      let k := min n (w - a % w)
      (bankOf a, a, a + k - 1) :: stretches fuel (a + k) (n - k)

/-- The banks that n bytes from an address touch. -/
def banksOf (a n : Nat) : List Nat := ((stretches n a n).map fun x => x.1).eraseDups

/-- The log writer that serves a flat address (R219): 0 to 47 for chiplets, 48 on for stacks. -/
def writerOf (a : Nat) : Nat :=
  if isHbm a then 48 + a / 2 ^ 36
  else if a < 2 ^ 45 then (a - 2 ^ 44) / 2 ^ 19 / 64
  else if a < 2 ^ 46 then (a - 2 ^ 45) / 2 ^ 20 / 64
  else (a - 2 ^ 46) / 2 ^ 24

/-! Errors of a read or a partial write (R184, R185, R316, R329, R472). -/

/-- Why bytes cannot be read: cause and subcode of R254, and the flat address. -/
structure MemErr where
  cause : Nat
  sub : Nat
  at_ : Nat
  deriving DecidableEq, Repr

/-- The aligned unit in which errors are found: 8 bytes of a scratchpad, 64 of HBM. -/
def errUnit (a : Nat) : Nat := if isHbm a then a / 64 * 64 else a / 8 * 8

def stackLost (lost : List Nat) (a : Nat) : Bool := lost.contains (0x100 + a / 2 ^ 36)

/-- The block at an HBM address was last written under this key (R184). -/
def keyMatches (m : Memory) (key : Option Nat) (a : Nat) : Bool :=
  match key with
  | none => false
  | some k => m.blockKey.get? (a / 64) == some k

/-- The first error among the units of n bytes from an address. key: the serial of the key under which an HBM access is made. fuel: at least the bytes. -/
def readErr (m : Memory) (lost : List Nat) (key : Option Nat) : Nat → Nat → Nat → Option MemErr
  | 0, _, _ => none
  | fuel + 1, a, n =>
    if n = 0 then none
    else if isHost a then none
    else
      let u := errUnit a
      let k := (if isHbm a then 64 else 8) - (a - u)
      if isHbm a && stackLost lost a then some { cause := 0x0D, sub := 0x04, at_ := a }
      else if isHbm a && key.isNone then some { cause := 0x03, sub := 0x08, at_ := a }
      else if isHbm a && (m.bad.contains u || !keyMatches m key a) then some { cause := 0x0D, sub := 0x02, at_ := a }
      else if !isHbm a && m.bad.contains u then some { cause := 0x0D, sub := 0x01, at_ := u }
      else readErr m lost key fuel (a + k) (n - k)

/-- The first error of a write: a unit that is covered whole is not read (R472, R184, R185). -/
def writeErr (m : Memory) (lost : List Nat) (key : Option Nat) : Nat → Nat → List (Option Byte) → Option MemErr
  | 0, _, _ => none
  | fuel + 1, a, bs =>
    if bs.isEmpty then none
    else if isHost a then none
    else
      let u := errUnit a
      let size := if isHbm a then 64 else 8
      let k := size - (a - u)
      let part := bs.take k
      let whole := a == u && part.length == size && part.all Option.isSome
      let touched := part.any Option.isSome
      if touched && isHbm a && stackLost lost a then some { cause := 0x0D, sub := 0x04, at_ := a }
      else if touched && isHbm a && key.isNone then some { cause := 0x03, sub := 0x08, at_ := a }
      else if touched && !whole && isHbm a && (m.bad.contains u || !keyMatches m key a) then some { cause := 0x0D, sub := 0x02, at_ := a }
      else if touched && !whole && !isHbm a && m.bad.contains u then some { cause := 0x0D, sub := 0x01, at_ := u }
      else writeErr m lost key fuel (a + k) (bs.drop k)

/-- Units written whole become correctable, and HBM blocks take the key of the write. -/
def heal (m : Memory) (key : Option Nat) : Nat → Nat → List (Option Byte) → Memory
  | 0, _, _ => m
  | fuel + 1, a, bs =>
    if bs.isEmpty then m
    else
      let u := errUnit a
      let k := (if isHbm a then 64 else 8) - (a - u)
      let part := bs.take k
      let m1 := if part.any Option.isSome then
          { m with bad := m.bad.filter (· != u)
                   blockKey := if isHbm a then (match key with | some x => m.blockKey.set (a / 64) x | none => m.blockKey) else m.blockKey }
        else m
      heal m1 key fuel (a + k) (bs.drop k)

/-- Write bytes that writeErr has let through. -/
def Memory.store (m : Memory) (key : Option Nat) (a : Nat) (bs : List (Option Byte)) : Memory :=
  (heal m key bs.length a bs).write a bs

end Sys2Proof.Machine
end

