-- ==== Sys2Proof/Machine/Xlate.lean ====
section
/-! DEFINITION. Clusters and the map as a router sees it (R12, R14, R272 to R276), the page walk and its caches (R164 to R170, R177), and what an access may reach (R332). -/

namespace Sys2Proof.Machine

/-! Fixed places. -/

def chipOf (pcn : Nat) : Nat := pcn / 64
/-- The core positions exist (R11). -/
def coreExists (core : Nat) : Bool := decide (core < 48 * 64 * 8)

/-- The live-core mask of a cluster (R12). -/
def State.liveMask (s : State) (pcn : Nat) : Nat := s.fuses.live.getD pcn 0xFF
def State.live (s : State) (pcn pos : Nat) : Bool := decide (pos < 8) && s.liveMask pcn / 2 ^ pos % 2 == 1
/-- Bit k of CLPRES (R277). -/
def State.present (s : State) (pcn : Nat) : Bool := s.fuses.pres.getD (chipOf pcn) (2 ^ 64 - 1) / 2 ^ (pcn % 64) % 2 == 1

/-- The present clusters of a chiplet that lie above, or below, a cluster. -/
def State.above (s : State) (pcn : Nat) : Nat := (List.range (63 - pcn % 64)).countP fun i => s.present (pcn + 1 + i)
def State.below (s : State) (pcn : Nat) : Nat := (List.range (pcn % 64)).countP fun i => s.present (pcn - 1 - i)
/-- A cluster at reset (R276, log 5): the lowest that takes part is due, and the four highest are in TEST. DESIGN CHOICE (log 152): R16 does not say when the tests of those four began; the model has them end 25 ms apart, the lowest cluster's first, at the chiplet's first step instants, so that each chiplet has a shadow for its step at 25 ms and for every later one. -/
def State.cluster0 (s : State) (pcn : Nat) : Cluster :=
  { rot := if !s.present pcn then .retired else if s.above pcn < 4 then .test else if s.below pcn = 0 then .due else .inService
    testEnd := if s.above pcn < 4 then (3 - s.above pcn) * 25000000 + chipOf pcn * 500000 else 0 }
def State.cluster (s : State) (pcn : Nat) : Cluster := (s.clusters.get? pcn).getD (s.cluster0 pcn)
def State.setCluster (s : State) (pcn : Nat) (c : Cluster) : State := { s with clusters := s.clusters.set pcn c }
/-- A chiplet; its due cluster at reset is the lowest that takes part (R276, log 5). -/
def State.chip (s : State) (c : Nat) : Chiplet :=
  s.chips.getD c { due := ((List.range 64).find? fun k => s.present (c * 64 + k)).getD 0 }
def State.setChip (s : State) (c : Nat) (x : Chiplet) : State := { s with chips := s.chips.set c x }
def State.chipAbsent (s : State) (c : Nat) : Bool := decide (48 ≤ c) || (s.chip c).lost || s.lostDies.contains c

/-- The command processor runs (R313, R329). -/
def State.cpRuns (s : State) : Bool := !s.lostDies.contains 0x200 && s.trust.bootFail.isNone

/-! The map (R272 to R275). -/

def State.mapNow (s : State) (v : Nat) : MapEntry := s.map.getD v {}

/-- A publication has not reached a router: each one arrives within 2 µs (R273). -/
def State.unseen (s : State) (router : Nat) (p : Pub) : Bool := !p.reached.contains router && decide (s.ptime < p.time + 2000)

/-- The entry of a VCN that a router holds. -/
def State.entryAt (s : State) (router v : Nat) : MapEntry :=
  s.pubs.foldr (fun p e => if s.unseen router p then (p.before.lookup v).getD e else e) (s.mapNow v)

/-- The publication number of the map that a router holds. -/
def State.seqAt (s : State) (router : Nat) : BitVec 32 :=
  match s.pubs.find? (s.unseen router) with
  | some p => p.seq - 1
  | none => s.mapSeq

/-- MAPRD's word (R272). -/
def entryWord (e : MapEntry) (seq : BitVec 32) : Word :=
  let b : Bool → Nat → Nat := fun x k => if x then 2 ^ k else 0
  if e.valid then
    BitVec.ofNat 64 ((if e.nonres then 0 else e.pcn % 4096) + e.gen.toNat * 2 ^ 12 + 2 ^ 20 + b e.moored 21 + b e.grace 22 + b e.nonres 23
      + seq.toNat * 2 ^ 32)
  else BitVec.ofNat 64 (b e.moored 21 + b e.grace 22 + b e.nonres 23 + seq.toNat * 2 ^ 32)

/-! Contexts. -/

def State.ctx? (s : State) (asid : Nat) : Option Ctx := s.ctxs.get? asid
def State.setCtx (s : State) (asid : Nat) (c : Ctx) : State := { s with ctxs := s.ctxs.set asid c }
def State.modCtx (s : State) (asid : Nat) (f : Ctx → Ctx) : State :=
  match s.ctx? asid with
  | some c => s.setCtx asid (f c)
  | none => s
/-- A VCN of the context (R235). -/
def Ctx.hasVcn (c : Ctx) (v : Nat) : Bool := decide (c.vcfirst ≤ v) && decide (v < c.vcfirst + c.vcnum)

/-- Resident, and not on its way out (R236, R267). -/
def Ctx.inPlace (c : Ctx) : Bool := c.resident && !c.evicting

/-! The page walk (R165 to R167). -/

/-- A failed check: cause, subcode, address. precise: of an engine's range, a trap at its PC and not a sub-fault (R93, R101). -/
structure Fail where
  cause : Nat
  sub : Nat
  addr : BitVec 64 := 0
  precise : Bool := false
  deriving DecidableEq, Repr

/-- Bits hi to lo of a word. -/
def bitsOf (w : Word) (hi lo : Nat) : Nat := w.toNat / 2 ^ lo % 2 ^ (hi + 1 - lo)

/-- A block read by physical address alone passes its keyed check: it has been written, and the key of that write is still loaded (R184, R290; log 13). -/
def State.physOk (s : State) (a : Nat) : Bool :=
  !stackLost s.lostDies a && !s.mem.bad.contains (errUnit a) &&
    (match s.mem.blockKey.get? (a / 64) with
     | some k => s.keys.any fun e => e.2 == k
     | none => false)

/-- Every block that n bytes at a physical address meet passes it. -/
def State.physRange (s : State) (a n : Nat) : Bool := (List.range ((a + n - 1) / 64 - a / 64 + 1)).all fun i => s.physOk (a / 64 * 64 + 64 * i)

/-- A table entry at a physical address, none where the read meets an error (R167 WALKERR, R290). -/
def State.tableWord (s : State) (a : Nat) : Option Word :=
  if s.physOk a then some (BitVec.ofNat 64 (leNat (s.mem.read a 8))) else none

/-- The page sizes of R169. -/
def sizeOk (tt size : Nat) : Bool :=
  size == 2 ^ 16 || (size == 2 ^ 21 && (tt == 0x3 || tt == 0x8 || tt == 0x9 || tt == 0xA)) || (size == 2 ^ 30 && (tt == 0x8 || tt == 0xA))

/-- LOC is within its field, its range and a multiple of the page (R166, R167, R169). -/
def locOk (c : Ctx) (tt loc size : Nat) : Bool :=
  let pages := size / 2 ^ 16
  match tt with
  | 0x0 | 0x5 => loc == 0
  | 0x1 => decide (loc < 2 ^ 15) && c.hasVcn (loc % 4096)
  | 0x2 => decide (loc < 2 ^ 16) && c.hasVcn (loc % 4096)
  | 0x3 => decide (loc < 2 ^ 14) && decide (loc % 64 < 48) && loc / 64 % pages == 0
  | 0x4 => decide (loc < 2 ^ 12) && c.hasVcn loc
  | 0x8 => decide (loc * 2 ^ 16 < hbmEnd) && loc % pages == 0
  | 0x9 => loc % pages == 0
  | 0xA => loc / 256 % pages == 0
  | _ => false

/-- A valid leaf obeys its layout (R166, R167 PTERSV). -/
def leafOk (c : Ctx) (w : Word) (size : Nat) : Bool :=
  let tt := bitsOf w 11 8
  bitsOf w 7 6 == 0 && bitsOf w 15 12 == 0 && sizeOk tt size && locOk c tt (bitsOf w 55 16) size && (tt == 0x8 || bitsOf w 63 56 == 0)

/-- A page that a walk found: its first virtual address, its size and its leaf. -/
structure Page where
  base : Nat
  size : Nat
  leaf : Word
  deriving DecidableEq, Repr

/-- The walk from a level down (R165): level, table address, virtual address; the failing subcode of R167. -/
def State.walkFrom (s : State) (c : Ctx) (va : Nat) : Nat → Nat → Except Nat Page
  | 0, t =>
    match s.tableWord (t + 8 * (va / 2 ^ 16 % 32)) with
    | none => .error 0x04
    | some w =>
      if bitsOf w 0 0 = 0 then .error 0x01
      else if bitsOf w 1 1 = 0 ∨ !leafOk c w (2 ^ 16) then .error 0x03
      else .ok { base := va / 2 ^ 16 * 2 ^ 16, size := 2 ^ 16, leaf := w }
  | k + 1, t =>
    let sh := 12 + 9 * (k + 1)
    let idx := if k = 3 then va / 2 ^ 48 % 256 else va / 2 ^ sh % 512
    match s.tableWord (t + 8 * idx) with
    | none => .error 0x04
    | some w =>
      if bitsOf w 0 0 = 0 then .error 0x01
      else if bitsOf w 1 1 = 1 then
        (if 2 ≤ k ∨ !leafOk c w (2 ^ sh) then .error 0x03
         else .ok { base := va / 2 ^ sh * 2 ^ sh, size := 2 ^ sh, leaf := w })
      else
        let next := bitsOf w 40 8 * 2 ^ 8
        let al := if k = 0 then 2 ^ 8 else 2 ^ 12
        if bitsOf w 7 2 ≠ 0 ∨ bitsOf w 63 41 ≠ 0 ∨ next % al ≠ 0 ∨ hbmEnd ≤ next then .error 0x03
        else s.walkFrom c va k next

/-- The caches that an agent looks in, nearest first (R177). -/
def agentCaches : Agent → List Agent
  | .core n => [.core n, .cluster (n / 8)]
  | .device => []
  | a => [a]

/-- The chiplet whose walker serves an agent. -/
def agentChip : Agent → Option Nat
  | .core n => some (chipOf (n / 8))
  | .cluster p => some (chipOf p)
  | .chiplet c => some c
  | .device => none

/-- The generation table that an agent goes by: its cluster's, or its chiplet's (R178). -/
def agentTable : Agent → Option Nat
  | .core n => some (n / 8)
  | .cluster p => some p
  | .chiplet c => some (4096 + c)
  | .device => none

/-- The generation of an address space that an agent's table holds: a new one reaches every table within 4 µs, and before its ASGEN completes (R178). -/
def Ctx.genFor (c : Ctx) (now : Nat) (a : Agent) : BitVec 20 :=
  if c.asgens.isEmpty || decide (c.genAt + 4000 ≤ now) || (match agentTable a with | some t => c.genSeen.contains t | none => true) then c.gen else c.gen - 1

/-- The virtual addresses that share a table of a level: their bits above the level's index (R165). -/
def walkIdx (va level : Nat) : Nat := va / 2 ^ (21 + 9 * level)

/-- Where a walk starts: at the lowest table that the chiplet's walk cache leads to, or at the root (R177). -/
def State.walkStart (s : State) (a : Agent) (asid : Nat) (c : Ctx) (va : Nat) : Nat × Nat :=
  let hit : Nat → Option Nat := fun k =>
    (s.walks.find? fun e => some e.chip == agentChip a && e.asid == asid && e.gen == c.genFor s.ptime a && e.level == k && e.idx == walkIdx va k).map fun e => e.next
  ([0, 1, 2, 3].findSome? fun k => (hit k).map fun t => (k, t)).getD (4, c.ptroot)

/-- An entry of a cache that serves a virtual address under a generation. -/
def TlbEntry.serves (e : TlbEntry) (k : Agent) (asid : Nat) (gen : BitVec 20) (va : Nat) : Bool :=
  e.at_ == k && e.asid == asid && e.gen == gen && decide (e.base ≤ va) && decide (va < e.base + e.size)

/-- The page of a virtual address: a current entry of the agent's caches, or a walk (R177, R178). -/
def State.page (s : State) (a : Agent) (asid : Nat) (c : Ctx) (va : Nat) : Except Nat Page :=
  match (agentCaches a).findSome? fun k => s.tlb.find? fun e => e.serves k asid (c.genFor s.ptime a) va with
  | some e => .ok { base := e.base, size := e.size, leaf := e.leaf }
  | none => s.walkFrom c va (s.walkStart a asid c va).1 (s.walkStart a asid c va).2

/-- What an access needs of a leaf (R166). -/
inductive Need where
  | rd | wr | ex | at
  deriving DecidableEq, Repr

def permits (w : Word) : Need → Bool
  | .rd => bitsOf w 2 2 == 1
  | .wr => bitsOf w 3 3 == 1
  | .ex => bitsOf w 4 4 == 1
  | .at => bitsOf w 5 5 == 1 && bitsOf w 2 2 == 1 && bitsOf w 3 3 == 1

/-- The place that a leaf gives a virtual address (R169): v, pos the accessing core's virtual cluster and position. -/
def placeOf (p : Page) (va v pos : Nat) : Loc :=
  let loc := bitsOf p.leaf 55 16
  let off := va - p.base
  match bitsOf p.leaf 11 8 with
  | 0x0 => .core v pos off true
  | 0x1 => .core (loc % 4096) (loc / 4096) off false
  | 0x2 => .cluster (loc % 4096) (loc / 4096 * 2 ^ 16 + off)
  | 0x3 => .chiplet (loc % 64) (loc / 64 * 2 ^ 16 + off)
  | 0x4 => .event loc off
  | 0x5 => .window off
  | 0x8 => .hbm (loc * 2 ^ 16 + off) (bitsOf p.leaf 63 56)
  | 0x9 => .host (loc * 2 ^ 16 + off)
  | _ => .peer (loc % 256) (loc / 256 * 2 ^ 16 + off)

/-- Translate one address for an agent (R164, R167). -/
def State.xlate (s : State) (who : Agent) (asid v pos : Nat) (need : Need) (va : Nat) : Except Fail Loc :=
  match s.ctx? asid with
  | none => .error { cause := 0x04, sub := 0x01, addr := BitVec.ofNat 64 va }
  | some c =>
    match s.page who asid c va with
    | .error k => .error { cause := 0x04, sub := k, addr := BitVec.ofNat 64 va }
    | .ok p => if permits p.leaf need then .ok (placeOf p va v pos) else .error { cause := 0x04, sub := 0x02, addr := BitVec.ofNat 64 va }

/-- The pieces of n bytes from an address, one per 64 KiB page: address and count (R168). fuel: at least the pages. -/
def pagePieces : Nat → Nat → Nat → List (Nat × Nat)
  | 0, _, _ => []
  | fuel + 1, va, n =>
    if n = 0 then []
    else
      let k := min n (2 ^ 16 - va % 2 ^ 16)
      (va, k) :: pagePieces fuel (va + k) (n - k)

/-- Translate every page before anything is accessed (R168). -/
def State.xlateAll (s : State) (who : Agent) (asid v pos : Nat) (need : Need) : List (Nat × Nat) → Except Fail (List Seg)
  | [] => .ok []
  | (va, n) :: t =>
    match s.xlate who asid v pos need va with
    | .error e => .error e
    | .ok l =>
      match s.xlateAll who asid v pos need t with
      | .error e => .error e
      | .ok r => .ok ({ va := BitVec.ofNat 56 va, loc := l, n := n } :: r)

/-! What a place admits (R93, R169, R170, R332). -/

/-- The kinds of access of a core (R332). -/
inductive AKind where
  | load | store | atomic
  deriving DecidableEq, Repr

/-- The VCN that a place names. -/
def Loc.vcn? : Loc → Option Nat
  | .core v _ _ _ => some v
  | .cluster v _ => some v
  | .event v _ => some v
  | _ => none

def slotOf (off : Nat) : Nat := (off - 0xC000) / 0x2000

/-- Whether n bytes at a place lie, in part, in the slot area (R89). -/
def Loc.inSlots (l : Loc) (n : Nat) : Bool :=
  match l with
  | .core _ _ off _ => decide (0xC000 < off + n)
  | _ => false

/-- Check 4 of R332: the subcode of ACCESS with which a place refuses an access of n bytes; holds: the strand holds that slot. -/
def State.refuses (s : State) (router : Nat) (holds : Nat → Bool) (k : AKind) (n : Nat) (l : Loc) : Option Nat :=
  match l with
  | .hbm .. | .host _ | .peer .. => some (if k = .atomic then 0x03 else 0x02)
  | .event v _ => if k = .atomic then some 0x03 else if (s.entryAt router v).valid then none else some 0x07
  | .window _ => if k = .atomic then some 0x03 else none
  | .chiplet c _ => if s.chipAbsent c then some 0x09 else none
  | .cluster v _ => if (s.entryAt router v).valid then none else some 0x07
  | .core v _ off own =>
    if l.inSlots n then
      (if !own || k = .atomic || !holds (slotOf (max off 0xC000)) || !holds (slotOf (off + n - 1)) then some 0x04 else none)
    else if (s.entryAt router v).valid then none else some 0x07

/-- Check 5 of R332 (R101, R204). -/
def sizeRefuses (n : Nat) : Loc → Bool
  | .event .. | .window _ => n != 8
  | _ => false

/-- The first refusal among the pieces of an access. -/
def State.firstRefusal (s : State) (router : Nat) (holds : Nat → Bool) (k : AKind) (n : Nat) (segs : List Seg) : Option Fail :=
  match segs.findSome? fun g => (s.refuses router holds k g.n g.loc).map fun sub => ({ cause := 0x03, sub := sub, addr := g.va.zeroExtend 64 } : Fail) with
  | some f => some f
  | none => segs.findSome? fun g => if sizeRefuses n g.loc then some { cause := 0x03, sub := 0x01, addr := g.va.zeroExtend 64 } else none

/-- The destination class of a place (R190): own the strand's virtual cluster, router the issuing cluster. -/
def State.classOf (s : State) (router own : Nat) (l : Loc) : Class :=
  let near : Nat → Class := fun v => if v = own then .cl else if chipOf (s.entryAt router v).pcn = chipOf router then .ch else .pn
  match l with
  | .core v _ _ o => if o then .loc else near v
  | .cluster v _ => near v
  | .event v _ => near v
  | .window _ => .loc
  | .chiplet c _ => if c = chipOf router then .ch else .pn
  | _ => .pn

/-- The flat address of a place; pcn the physical cluster that the map gives its VCN. -/
def Loc.flat (l : Loc) (pcn : Nat) : Nat :=
  match l with
  | .core _ pos off _ => coreBase pcn pos + off
  | .cluster _ off => clusterBase pcn + off
  | .chiplet c off => chipletBase c + off
  | .event _ off => off
  | .window off => off
  | .hbm p _ => p
  | .host h => hostBase + h
  | .peer _ off => off

/-- The key under which an access to a place is made: the serial loaded at its KEYID (R183, R316). -/
def State.keyOf (s : State) : Loc → Option Nat
  | .hbm _ k => s.keys.get? k
  | _ => none

/-- The flat address of a place under the map as it stands. -/
def State.flatOf (s : State) (l : Loc) : Nat :=
  match l.vcn? with
  | some v => l.flat (s.mapNow v).pcn
  | none => l.flat 0

/-- A page that has been flipped to FORWARD serves an old address at its new home (R180). -/
def State.homeFlat (s : State) (l : Loc) : Nat :=
  let a := s.flatOf l
  match s.migrations.find? fun m => m.forward && decide (s.flatOf m.old ≤ a) && decide (a < s.flatOf m.old + m.size) with
  | some m => s.flatOf m.new + (a - s.flatOf m.old)
  | none => a

/-- The key of the home that serves it. -/
def State.homeKey (s : State) (l : Loc) : Option Nat :=
  let a := s.flatOf l
  match s.migrations.find? fun m => m.forward && decide (s.flatOf m.old ≤ a) && decide (a < s.flatOf m.old + m.size) with
  | some m => s.keyOf m.new
  | none => s.keyOf l

def State.inForward (s : State) (l : Loc) : Bool :=
  let a := s.flatOf l
  s.migrations.any fun m => m.forward && decide (s.flatOf m.old ≤ a) && decide (a < s.flatOf m.old + m.size)

end Sys2Proof.Machine
end

