-- ==== Sys2Proof/Machine/Ops.lean ====
section
/-! DEFINITION. The named operations over registers, strands, memory, the event log and traps, on which every meaning is built. -/

namespace Sys2Proof.Machine

/-- The answer of a meaning. -/
abbrev Out := Host.Outcome State Fault Refusal

/-! Registers and the PC (R84, R85, R104, R106). -/

/-- A scalar register: s0 reads as zero (R85). -/
def State.reg (s : State) (r : Reg) : Word := if r = 0 then 0 else s.cur.regs.get r.toFin

/-- Write a scalar register: a write to s0 is discarded (R85). -/
def State.setReg (s : State) (r : Reg) (v : Word) : State :=
  if r = 0 then s else { s with cur := { s.cur with regs := s.cur.regs.set r.toFin v } }

/-- The number of heads of the fetched line (R102). -/
def lineHeads (l : BitVec 512) : Nat := (l.extractLsb' 0 5).toNat

/-- PC[55:6] × 64. -/
def lineAddr (pc : BitVec 56) : BitVec 56 := pc &&& ~~~63#56

/-- The next PC of R104. -/
def State.nextPc (s : State) : BitVec 56 :=
  let pc := s.cur.pc
  match s.cur.line with
  | some (a, l) => if a = lineAddr pc ∧ lineHeads l ≤ bitsOf (pc.zeroExtend 64) 5 1 then lineAddr pc + 66 else pc + 2
  | none => pc + 2

/-- The instructions whose residue checks may still be under way, once one more has issued: a check takes 12 clocks, and a core issues at most one instruction a clock (R285). -/
def Core.after (c : Core) (p : Option (BitVec 56)) : List (Option (BitVec 56)) := (p :: c.recent).take 12

/-- The key of a virtual cluster's events of a code that its counters have still to count (R326). -/
def eventKey (v code : Nat) : Nat := v * 16 + code

/-- How many of them there are. -/
def State.due (s : State) (v code : Nat) : Nat := s.events.getD (eventKey v code) 0

/-- n events of a virtual cluster happen, and its counters have them to count (R326, log 67). -/
def State.happen (s : State) (v code n : Nat) : State := { s with events := s.events.set (eventKey v code) (s.due v code + n) }

/-- The instruction has completed, and the strand goes on at the next head. -/
def State.advance (s : State) : State := ({ s with cur := { s.cur with pc := s.nextPc, wait := .none, retry := false, past := false, recent := s.cur.after none } } : State).happen s.cur.str.vcn 0x02 1

/-- Go on at a target; past: it is named as head 31 of the line before it (R106). -/
def State.jump (s : State) (pc : BitVec 56) (past : Bool := false) : State :=
  ({ s with cur := { s.cur with pc := pc, wait := .none, retry := false, past := past, recent := s.cur.after none } } : State).happen s.cur.str.vcn 0x02 1

/-- The line-relative targets of R106; an index of 31 names head 31 of the target line, which the fetch refuses. -/
def target16 (pc : BitVec 56) (imm : BitVec 16) : BitVec 56 :=
  lineAddr pc + (imm.extractLsb' 5 11).signExtend 56 * 64 + 2 + 2 * (imm.extractLsb' 0 5).zeroExtend 56
def target32 (pc : BitVec 56) (imm : BitVec 32) : BitVec 56 :=
  lineAddr pc + (imm.extractLsb' 5 27).signExtend 56 * 64 + 2 + 2 * (imm.extractLsb' 0 5).zeroExtend 56

/-- Write a register and go on. -/
def State.answer (s : State) (d : Reg) (v : Word) : State := (s.setReg d v).advance

/-- Write a result of the scalar ALU or FP unit, which carries a residue check, and go on (R285). -/
def State.result (s : State) (d : Reg) (v : Word) : State :=
  let t := s.answer d v
  { t with cur := { t.cur with recent := s.cur.after (some s.cur.pc) } }

/-- The instruction waits: nothing changes but that the strand stands at it. -/
def State.waiting (s : State) (w : Wait) : State := { s with cur := { s.cur with wait := w } }

/-- The next free value (log 2). -/
def State.free (s : State) : Word × State := (Config.freeWord s.freeCtr, { s with freeCtr := s.freeCtr + 1 })

/-- Several free values. -/
def State.freeWords (s : State) : Nat → List Word × State
  | 0 => ([], s)
  | n + 1 =>
    let (w, s1) := s.free
    let (ws, s2) := s1.freeWords n
    (w :: ws, s2)

/-! Cores. -/

/-- The physical cluster and position of the focused core. -/
def State.pcn (s : State) : Nat := s.focus / 8
def State.pos (s : State) : Nat := s.focus % 8
def State.vcn (s : State) : Nat := s.cur.str.vcn
def State.asid (s : State) : Nat := s.cur.str.asid
def State.chipHere (s : State) : Nat := chipOf s.pcn
/-- The package time that a die's own counter shows; the north link die has the master (R310, log 139). -/
def State.dieTime (s : State) (die : Nat) : Nat := ((s.ptime : Int) + s.hostIf.offsets.getD die 0).toNat
/-- The package time that the focused core reads (R100, R312). -/
def State.timeHere (s : State) : Nat := s.dieTime s.chipHere
/-- The agent that translates for the focused core. -/
def State.agent (s : State) : Agent := .core s.focus

/-- Bring a core into focus: the model's own bookkeeping (log 1). -/
def State.focusOn (s : State) (core : Nat) : State :=
  if s.focus = core then s
  else { s with cores := s.cores.set s.focus s.cur, cur := s.cores.getD core {}, focus := core }

/-- A core's state, focused or not. -/
def State.coreAt (s : State) (core : Nat) : Core := if s.focus = core then s.cur else s.cores.getD core {}
def State.setCoreAt (s : State) (core : Nat) (c : Core) : State :=
  if s.focus = core then { s with cur := c } else { s with cores := s.cores.set core c }

/-- Every core that has been touched, with its number. -/
def State.allCores (s : State) : List (Nat × Core) := (s.focus, s.cur) :: s.cores.filter fun e => e.1 != s.focus

/-! Strands (R43 to R46). A running strand's entry stands with its core. -/

/-- The core that runs a strand. -/
def State.coreOf (s : State) (sid : Nat) : Option Nat :=
  if s.cur.run = some sid then some s.focus
  else ((s.cores.filter fun e => e.1 != s.focus).find? fun e => e.2.run == some sid).map fun e => e.1

def State.strand? (s : State) (sid : Nat) : Option Strand :=
  match s.coreOf sid with
  | some c => some (s.coreAt c).str
  | none => s.strands.get? sid

def State.modStrand (s : State) (sid : Nat) (f : Strand → Strand) : State :=
  match s.coreOf sid with
  | some c => s.setCoreAt c { s.coreAt c with str := f (s.coreAt c).str }
  | none =>
    match s.strands.get? sid with
    | some x => { s with strands := s.strands.set sid (f x) }
    | none => s

def State.setStr (s : State) (f : Strand → Strand) : State := { s with cur := { s.cur with str := f s.cur.str } }

/-- Every strand with its number. -/
def State.allStrands (s : State) : List (Nat × Strand) :=
  (s.allCores.filterMap fun e => e.2.run.map fun sid => (sid, e.2.str)) ++ s.strands

/-- The strand of a record of a kernel's pool. -/
def State.strandAt (s : State) (kernel vcn recIdx : Nat) : Option Nat :=
  (s.allStrands.find? fun e => e.2.kernel == some kernel && e.2.vcn == vcn && e.2.recIdx == recIdx).map fun e => e.1

def State.kernel? (s : State) (k : Nat) : Option Kernel := s.kernels.get? k
def State.modKernel (s : State) (k : Nat) (f : Kernel → Kernel) : State :=
  match s.kernels.get? k with
  | some x => { s with kernels := s.kernels.set k (f x) }
  | none => s
/-- The kernel of the running strand. -/
def State.kernelHere (s : State) : Option Kernel := s.cur.str.kernel.bind s.kernel?

/-- Whether a strand runs as a handler (R124). -/
def State.handler (s : State) : Bool := s.cur.str.serves.isSome

/-- The physical cluster that hosts a VCN. -/
def State.host (s : State) (v : Nat) : Nat := (s.mapNow v).pcn

/-- The live core positions of a VCN's cluster. -/
def State.livePos (s : State) (v : Nat) : List Nat := (List.range 8).filter (s.live (s.host v))

def readyKey (v pos : Nat) : Nat := v * 8 + pos
def State.readyList (s : State) (v pos : Nat) : List Nat := s.ready.getD (readyKey v pos) []
def State.setReady (s : State) (v pos : Nat) (l : List Nat) : State :=
  { s with ready := if l.isEmpty then s.ready.drop (readyKey v pos) else s.ready.set (readyKey v pos) l }

/-- The READY count of a position, as CLLOAD shows it: it saturates at 31 (R47). -/
def State.readyCount (s : State) (v pos : Nat) : Nat := min (s.readyList v pos).length 31

/-- The position with the lowest READY count, the lowest of equals. -/
def State.leastPos (s : State) (v : Nat) (ps : List Nat) : Nat :=
  match ps with
  | [] => 0
  | p :: t => t.foldl (fun b q => if s.readyCount v q < s.readyCount v b then q else b) p

/-- The position on whose list a strand that becomes READY is placed (R45, R46). -/
def State.placePos (s : State) (x : Strand) : Nat :=
  let live := s.livePos x.vcn
  if x.slot.isSome then x.pos
  else if x.pinned then (if live.contains x.pos then x.pos else live.headD 0)
  else
    let here := if live.contains x.pos then x.pos else live.headD 0
    let low := s.leastPos x.vcn live
    if s.readyCount x.vcn low + 2 ≤ s.readyCount x.vcn here ∨ !live.contains x.pos then low else here

/-- The clock of a core runs again (R367). -/
def State.wakeCore (s : State) (core : Nat) : State :=
  if (s.coreAt core).idles then s.setCoreAt core { s.coreAt core with idles := false } else s

/-- Make a strand READY at the tail, or at the head, of a ready list (R43, R46, R58); its watch is dropped (R38), and the core's clock runs (R367). A latched wake stays latched (R44, R257). -/
def State.makeReady (s : State) (sid : Nat) (atHead : Bool := false) : State :=
  match s.strands.get? sid with
  | none => s
  | some x =>
    let p := s.placePos x
    let l := s.readyList x.vcn p
    (({ s with strands := s.strands.set sid { x with st := .ready, pos := p }
               watches := s.watches.filter fun w => w.sid != sid }).setReady x.vcn p
      (if atHead then sid :: l else l ++ [sid])).wakeCore (s.host x.vcn * 8 + p)

/-- A wake reaches an entry (R44): a BLOCKED one becomes READY, any other keeps it. -/
def State.wakeStrand (s : State) (sid : Nat) : State :=
  match s.strand? sid with
  | none => s
  | some x => if x.st = .blocked ∧ x.trapMark = false then s.makeReady sid else s.modStrand sid fun x => { x with wakeLatch := true }

/-- The word that a WAITA names, as it stands at its home (R180, R213). -/
def State.watchedWord (s : State) (a : Access) : List Byte :=
  match a.segs with
  | g :: _ => s.mem.read (s.homeFlat g.loc) 8
  | [] => []

/-- A wake with the pass latch (R213, R214): it completes a WAITA at which the strand waits on its core. -/
def State.passWake (s : State) (sid : Nat) : State :=
  match s.flight.find? fun a => a.sid == sid && a.stage == .watching && (match a.op with | .waita _ => true | _ => false) with
  | some a =>
    ({ s with watches := s.watches.filter fun w => w.access != a.id
              flight := s.flight.map fun b => if b.id = a.id then { b with stage := .performed (s.watchedWord a) 0 } else b } : State).happen a.vcn 0x0C 1
  | none => (s.modStrand sid fun x => { x with passLatch := true }).wakeStrand sid

/-- Take a READY strand off its list. -/
def State.unready (s : State) (sid : Nat) : State :=
  match s.strands.get? sid with
  | none => s
  | some x => s.setReady x.vcn x.pos ((s.readyList x.vcn x.pos).filter (· != sid))

/-- A trap that arrives after its instruction has issued (R255, R257): latched in order; a BLOCKED strand becomes READY. A rolled-up tile instruction of a strand that is ending is abandoned at once (R262). -/
def State.latchTrap (s : State) (sid : Nat) (t : Trap) : State :=
  match s.strand? sid with
  | none => s
  | some x =>
    let s1 := s.modStrand sid fun x => { x with pending := x.pending ++ [t] }
    if x.st = .blocked ∧ x.trapMark = false then s1.makeReady sid else s1

/-! Counts (R190, R191). -/

def Counts.zero (c : Counts) : Bool :=
  c.loads == 0 && c.stores == 0 && c.copies == 0 && c.tiles == 0 && c.cl == 0 && c.ch == 0 && c.pn == 0

def Counts.cls (c : Counts) : Class → Nat
  | .loc => 0 | .cl => c.cl | .ch => c.ch | .pn => c.pn

def Counts.addCls (c : Counts) (k : Class) : Counts :=
  match k with
  | .loc => c | .cl => { c with cl := c.cl + 1 } | .ch => { c with ch := c.ch + 1 } | .pn => { c with pn := c.pn + 1 }
def Counts.subCls (c : Counts) (k : Class) : Counts :=
  match k with
  | .loc => c | .cl => { c with cl := c.cl - 1 } | .ch => { c with ch := c.ch - 1 } | .pn => { c with pn := c.pn - 1 }

/-- OUTCNT (R99). -/
def Counts.word (c : Counts) : Word :=
  BitVec.ofNat 64 (c.loads % 64 + c.stores % 64 * 2 ^ 8 + c.copies % 64 * 2 ^ 16 + c.tiles % 64 * 2 ^ 24 + c.cl % 64 * 2 ^ 32
    + c.ch % 64 * 2 ^ 40 + c.pn % 64 * 2 ^ 48)

def State.modCounts (s : State) (sid : Nat) (f : Counts → Counts) : State := s.modStrand sid fun x => { x with counts := f x.counts }
def State.counts (s : State) : Counts := s.cur.str.counts
def State.setCounts (s : State) (f : Counts → Counts) : State := s.setStr fun x => { x with counts := f x.counts }

/-- The wait class W holds an instruction back (R112, R192). -/
def State.classBusy (s : State) (w : BitVec 2) : Bool :=
  match w.toNat with
  | 1 => s.counts.cl != 0 | 2 => s.counts.ch != 0 | 3 => s.counts.pn != 0 | _ => false

/-! Traps (R255). -/

/-- A synchronous trap at the instruction's own PC: nothing else has changed (R331). -/
def State.raise (s : State) (cause sub : Nat) (addr : BitVec 64 := 0) (subs : List SubFault := []) : State :=
  { s with cur := { s.cur with
      wait := .none
      stop := some { trap := { cause := cause, sub := sub, fpc := s.cur.pc, addr := addr, subs := subs }, resume := s.cur.pc } } }

def State.raiseFail (s : State) (f : Fail) : State := s.raise f.cause f.sub f.addr

/-- A completing trap, at the boundary after the instruction (R255). -/
def State.raiseAfter (s : State) (cause sub : Nat) (addr : BitVec 64 := 0) : State :=
  { s.advance with cur := { s.advance.cur with
      stop := some { trap := { cause := cause, sub := sub, fpc := s.cur.pc, addr := addr }, resume := s.nextPc } } }

/-- An asynchronous trap on its way to a strand (R170, R203, R255, R472). -/
def State.sendTrap (s : State) (sid : Nat) (t : Trap) : State := { s with asyncFlight := s.asyncFlight ++ [(sid, t)] }

/-! Writes to memory. -/

/-- The segment of a due cluster's scratchpads that a flat address lies in (R278): cluster scratchpad 0 to 255, core p's data area 256 + 12p on. -/
def segOf (a : Nat) : Option (Nat × Nat) :=
  if isHbm a then none
  else if a < 2 ^ 45 then
    let o := (a - 2 ^ 44) % 2 ^ 16
    if o < 0xC000 then some ((a - 2 ^ 44) / 2 ^ 19, 256 + (a - 2 ^ 44) / 2 ^ 16 % 8 * 12 + o / 4096) else none
  else if a < 2 ^ 46 then some ((a - 2 ^ 45) / 2 ^ 20, (a - 2 ^ 45) % 2 ^ 20 / 4096)
  else none

/-- A write sets the dirty bit of its segment (R278). -/
def State.dirty (s : State) (a : Nat) : State :=
  match segOf a with
  | some (pcn, g) =>
    let ch := s.chip (chipOf pcn)
    if ch.due = pcn % 64 ∧ ch.clean.contains g then s.setChip (chipOf pcn) { ch with clean := ch.clean.filter (· != g) } else s
  | none => s

/-- The watches of a 64-byte block are re-read after a write to it (R213): one whose word differs completes its WAITA, or wakes its strand. -/
def State.fireWatches (s : State) (blk : Nat) : State :=
  s.watches.foldl (fun s w =>
    let word := s.mem.read w.addr 8
    if w.addr / 64 = blk ∧ BitVec.ofNat 64 (leNat word) ≠ w.cmp then
      let s1 := { s with watches := s.watches.filter (· != w)
                         flight := s.flight.map fun a => if a.id = w.access then { a with stage := .performed word 0 } else a }
      if s.flight.any (fun a => a.id == w.access) then s1 else s1.wakeStrand w.sid
    else s) s

/-- Perform a write: the bytes, the keys of their blocks, the dirty bits, the watches. -/
def State.putBytes (s : State) (key : Option Nat) (a : Nat) (bs : List (Option Byte)) : State :=
  let s1 := { s with mem := s.mem.store key a bs }
  let s2 := (List.range ((a % 4096 + bs.length + 4095) / 4096)).foldl (fun s k => s.dirty (a / 4096 * 4096 + 4096 * k)) s1
  if s2.watches.isEmpty then s2
  else ((List.range (bs.length / 64 + 2)).map fun k => a / 64 + k).foldl State.fireWatches s2

/-! Mailboxes (R295, R318). -/

def State.mbox (s : State) : Inst → Mailbox
  | .host => s.mboxHost
  | .side => s.mboxSide

def State.setMbox (s : State) (i : Inst) (m : Mailbox) : State :=
  match i with
  | .host => { s with mboxHost := m }
  | .side => { s with mboxSide := m }

/-- A request ends: 2 DONE or 3 ERROR with its code; results go to the argument registers. -/
def State.finishMbox (s : State) (i : Inst) (st code : Nat) (results : List Word := []) : State :=
  let m := s.mbox i
  s.setMbox i { m with st := st, code := code, taken := false, args := results ++ m.args.drop results.length }

/-! Reads and writes that the device itself makes under a context's page tables (R241, R259, R473). -/

/-- The bytes of the pieces at their homes, or the first error. -/
def State.readSegs (s : State) : List Seg → Except Fail (List Byte)
  | [] => .ok []
  | g :: t =>
    let a := s.homeFlat g.loc
    match readErr s.mem s.lostDies (s.homeKey g.loc) g.n a g.n with
    | some e => .error { cause := e.cause, sub := e.sub, addr := g.va.zeroExtend 64 + BitVec.ofNat 64 e.at_ - BitVec.ofNat 64 a }
    | none =>
      match s.readSegs t with
      | .error f => .error f
      | .ok r => .ok (s.mem.read a g.n ++ r)

/-- A migration is over at its old home, and its request with it (R181, R182). -/
def State.endMigration (s : State) (mid st code : Nat) : State :=
  match s.migrations.find? fun m => m.mid == mid with
  | some m =>
    let s1 : State := { s with migrations := s.migrations.filter fun x => x.mid != mid }
    s1.finishMbox m.inst st code
  | none => s

/-- The migration that copies the page of a flat address, and the first address that it has not copied yet (R180). -/
def State.mirrorOf (s : State) (a : Nat) : Option (Migration × Nat) :=
  (s.migrations.find? fun m => !m.forward && decide (s.flatOf m.old ≤ a) && decide (a < s.flatOf m.old + 64 * m.copied)).map
    fun m => (m, s.flatOf m.old + 64 * m.copied)

/-- A write at the home; the bytes in blocks that a migration has copied are mirrored to the new home (R180), and an error of the mirror abandons the migration (R182). -/
def State.putHome (s : State) (l : Loc) (bs : List (Option Byte)) : State :=
  let a := s.homeFlat l
  let s1 := s.putBytes (s.homeKey l) a bs
  match s.mirrorOf a with
  | some (m, top) =>
    let b := s.flatOf m.new + (a - s.flatOf m.old)
    let ds := bs.take (top - a)
    match writeErr s1.mem s1.lostDies (s.keyOf m.new) ds.length b ds with
    | some _ => s1.endMigration m.mid 3 0x04
    | none => s1.putBytes (s.keyOf m.new) b ds
  | none => s1

/-- Write bytes to the pieces; the first error leaves memory as it was at that piece. -/
def State.writeSegs (s : State) : List Seg → List (Option Byte) → Except Fail State
  | [], _ => .ok s
  | g :: t, bs =>
    let a := s.homeFlat g.loc
    let part := bs.take g.n
    match writeErr s.mem s.lostDies (s.homeKey g.loc) g.n a part with
    | some e => .error { cause := e.cause, sub := e.sub, addr := g.va.zeroExtend 64 + BitVec.ofNat 64 e.at_ - BitVec.ofNat 64 a }
    | none => (s.putHome g.loc part).writeSegs t (bs.drop g.n)

/-- A TT 0x1 place whose position is not live in the cluster that holds its VCN (R12, R170). -/
def State.deadCore (s : State) (l : Loc) : Bool :=
  match l with
  | .core v p _ own => !own && !s.live (s.host v) p
  | _ => false

/-- The serial of the key that the trust die makes next: of a BLANK part a test key (R315); DESIGN CHOICE (log 160): test keys are new at each request too, and are no key that another part makes. -/
def State.newKey (s : State) : Nat := (if s.fuses.lifecycle = 0 then 2 ^ 64 else 0) + s.keyCtr + 1

/-- A TT 0x3 place on a chiplet that is absent or held in reset (R170, R329). -/
def State.goneChip (s : State) (l : Loc) : Bool :=
  match l with
  | .chiplet c _ => s.chipAbsent c
  | _ => false

/-- What an access finds where it arrives, whoever makes it: NOCORE, CHIPGONE, or the DEAD response of a home behind a dead router (R170, R283, R329). -/
def State.homeFault (s : State) (l : Loc) : Option (Nat × Nat) :=
  if (l.vcn?.map fun v => !(s.cluster (s.host v)).router).getD false then some (0x0D, 0x01)
  else if s.deadCore l then some (0x03, 0x06)
  else if s.goneChip l then some (0x03, 0x09)
  else none

/-- Memory the device reaches on its own: scratchpads, HBM, and host memory for the command processor (R237, R245). -/
def devAdmits (host : Bool) : Loc → Bool
  | .core _ _ off own => !own && decide (off < 0xC000)
  | .cluster .. | .chiplet .. | .hbm .. => true
  | .host _ => host
  | _ => false

/-- What a place refuses to the device: cause and subcode (R170, R283, R329). -/
def State.devRefuses (s : State) (host : Bool) (l : Loc) : Option (Nat × Nat) :=
  if !devAdmits host l then some (0x03, 0x02)
  else if (l.vcn?.map fun v => !(s.mapNow v).valid).getD false then some (0x03, 0x07)
  else s.homeFault l

/-- The first piece that refuses the device, as the fault of its access. -/
def State.devFault (s : State) (host : Bool) (segs : List Seg) : Option Fail :=
  segs.findSome? fun g => (s.devRefuses host g.loc).map fun x => { cause := x.1, sub := x.2, addr := g.va.zeroExtend 64 }

/-- Read n bytes at a virtual address of a context. -/
def State.devRead (s : State) (asid va n : Nat) (host : Bool := false) : Except Fail (List Byte) :=
  match s.ctx? asid with
  | none => .error { cause := 0x04, sub := 0x01, addr := BitVec.ofNat 64 va }
  | some _ =>
    if 2 ^ 56 < n + va then .error { cause := 0x03, sub := 0x05, addr := BitVec.ofNat 64 va }
    else
      match s.xlateAll .device asid 0 0 .rd (pagePieces (n / 2 ^ 16 + 2) va n) with
      | .error f => .error f
      | .ok segs =>
        match s.devFault host segs with
        | some f => .error f
        | none => s.readSegs segs

/-- Write bytes at a virtual address of a context. -/
def State.devWrite (s : State) (asid va : Nat) (bs : List Byte) (host : Bool := false) : Except Fail State :=
  match s.ctx? asid with
  | none => .error { cause := 0x04, sub := 0x01, addr := BitVec.ofNat 64 va }
  | some _ =>
    if 2 ^ 56 < bs.length + va then .error { cause := 0x03, sub := 0x05, addr := BitVec.ofNat 64 va }
    else
      match s.xlateAll .device asid 0 0 .wr (pagePieces (bs.length / 2 ^ 16 + 2) va bs.length) with
      | .error f => .error f
      | .ok segs =>
        match s.devFault host segs with
        | some f => .error f
        | none => s.writeSegs segs (bs.map some)

/-! Panel messages. -/

/-- An MSI-X message, sent when the host port is up (R291). -/
def State.msix (s : State) (v : Nat) : State :=
  if s.hostIf.up then { s with hostIf := { s.hostIf with msix := s.hostIf.msix ++ [v] } } else s

/-- Write a record to the panel error log (R270, R271, R296). -/
def State.errRecord (s : State) (kind f2 f4 f6 f8 f10 f18 : Nat) : State :=
  let h := s.hostIf
  let r := toLe 2 kind ++ toLe 2 f2 ++ toLe 2 f4 ++ toLe 2 f6 ++ toLe 8 f8 ++ toLe 8 f10 ++ toLe 8 f18 ++ List.replicate 32 0
  if 256 ≤ h.errTail - h.errHead then { s with hostIf := { h with errLost := h.errLost + 1 } }
  else ({ s with hostIf := { h with errRing := h.errRing.set (h.errTail % 256) r, errTail := h.errTail + 1 } }).msix 0

def State.vc (s : State) (v : Nat) : VCluster := s.vcs.getD v {}
def State.setVc (s : State) (v : Nat) (x : VCluster) : State := { s with vcs := s.vcs.set v x }

def State.queue (s : State) (q : Nat) : Queue := s.queues.getD q {}
def State.setQueue (s : State) (q : Nat) (x : Queue) : State := { s with queues := s.queues.set q x }

/-- Every cache drops its entries of an address space. -/
def State.dropXlate (s : State) (asid : Nat) : State :=
  { s with tlb := s.tlb.filter fun e => e.asid != asid, walks := s.walks.filter fun e => e.asid != asid }

/-- The generation of a context rises by one, and goes out to the generation tables; at the wrap every cache drops its entries (R178). -/
def State.raiseGen (s : State) (asid : Nat) : State :=
  let s1 := s.modCtx asid fun c => { c with gen := c.gen + 1, genSeen := [], genAt := s.ptime }
  match s1.ctx? asid with
  | some c => if c.gen = 0 then s1.dropXlate asid else s1
  | none => s1

/-- Stop a queue (R239, R241). -/
def State.stopQueue (s : State) (q code : Nat) (sub : Nat := 0) : State :=
  let x := s.queue q
  s.setQueue q { x with st := .stopped, code := code, sub := sub, pktidx := x.next }

end Sys2Proof.Machine
end

