-- ==== Sys2Proof/Machine/Operands.lean ====
section
/-! DEFINITION. Operand forms: the registers and rows that an instruction names, effective addresses, displacements, shapes of loads and stores, rows as elements, lane masks and scales (R86 to R94, R110, R164, R372, R427). -/

namespace Sys2Proof.Machine

/-- The scalar registers that an instruction names. -/
def namedRegs : Instr → List Reg
  | .add d a b | .sub d a b | .mul d a b | .mulh d a b | .mulhu d a b | .div d a b | .divu d a b | .rem d a b | .remu d a b
  | .and d a b | .or d a b | .xor d a b | .shl d a b | .shr d a b | .sha d a b | .slt d a b | .sltu d a b | .min d a b | .minu d a b
  | .max d a b | .maxu d a b | .waitc d a b | .spawn d a b | .qpush d a b | .qpop d a b => [d, a, b]
  | .clz d a | .ctz d a | .popc d a | .jalr d a | .csrr d a | .maprd d a => [d, a]
  | .sel d a b c => [d, a, b, c]
  | .fadd _ d a b | .fsub _ d a b | .fmul _ d a b | .fdiv _ d a b | .fmin _ d a b | .fmax _ d a b | .fcmp _ d a b | .fsgn _ _ d a b => [d, a, b]
  | .ffma _ d a b c => [d, a, b, c]
  | .fsqrt _ d a | .fclass _ d a | .fcvt _ _ d a | .fcvtSint _ d a | .fcvtUint _ d a => [d, a]
  | .wake a | .evsig a | .fencew _ a | .trap a => [a]
  | .fencei _ d | .asgen d | .uwopen d | .uwnum d | .loop d _ | .jal d _ | .lim _ d _ => [d]
  | .get _ d a b c | .put _ d a b c | .tcpya _ d a b c => [d, a, b, c]
  | .tcpy _ a b c => [a, b, c]
  | .armw _ _ d a b => [d, a, b]
  | .csrw a b | .trec a b => [a, b]
  | .aadd _ _ d a b _ | .amin _ _ d a b _ | .amax _ _ d a b _ | .aminu _ _ d a b _ | .amaxu _ _ d a b _ | .aand _ _ d a b _
  | .aor _ _ d a b _ | .axor _ _ d a b _ | .aswp _ _ d a b _ | .acas _ _ d a b _ => [d, a, b]
  | .afaddF32 _ d a b _ | .afaddF64 _ d a b _ | .waita _ d a b _ => [d, a, b]
  | .addi d a _ | .andi d a _ | .ori d a _ | .xori d a _ | .slti d a _ => [d, a]
  | .shli d a _ | .shri d a _ | .shai d a _ | .bfx d a _ _ | .bfxu d a _ _ | .bfi d a _ _ | .wid d a _ _ => [d, a]
  | .beq a b _ | .bne a b _ | .blt a b _ | .bge a b _ | .bltu a b _ | .bgeu a b _ => [a, b]
  | .ld _ _ d a _ | .st _ _ d a _ => [d, a]
  | .ldp _ d a b _ | .stp _ d a b _ => [d, a, b]
  | .vadd _ _ c .. | .vsub _ _ c .. | .vmul _ _ c .. | .vfma _ _ c .. | .vdiv _ _ c .. | .vmin _ _ c .. | .vmax _ _ c .. | .vabs _ _ c ..
  | .vsgn _ _ c .. | .vand _ _ c .. | .vor _ _ c .. | .vxor _ _ c .. | .vsel _ _ c .. | .vrcp _ _ c .. | .vrsq _ _ c .. | .vexp2 _ _ c ..
  | .vlog2 _ _ c .. | .vperm _ _ c .. => [c]
  | .vshl _ _ a c .. | .vshr _ _ a c .. | .vsha _ _ a c .. | .vcmp _ _ a c .. | .vscan _ _ a c .. | .vbcast _ _ a c .. | .vext _ _ a c ..
  | .viota _ _ a c .. => [a, c]
  | .vcvt _ _ _ a c .. | .vbfpq _ _ _ a c .. | .vbfpd _ _ _ a c .. => [a, c]
  | .vrsum _ a c _ | .vrmax _ a c _ | .vrmin _ a c _ => [a, c]
  | .vld _ _ a c .. | .vst _ a c .. => [a, c]
  | .vlds _ _ a b c .. => [a, b, c]
  | .vgath _ _ _ a c .. | .vscat _ _ a c .. => [a, c]
  | .tmov _ _ d a => [d, a]
  | .tadd _ _ d a b c | .tmul _ _ d a b c | .tbaq _ _ d a b c | .tcompact _ _ _ d a b c | .tmmaFloat _ _ _ _ d a b c
  | .tmmaBlock _ _ _ _ d a b c | .tmmagFloat _ _ _ _ _ d a b c | .tmmagBlock _ _ _ _ _ d a b c => [d, a, b, c]
  | .tcvt _ _ d a c | .tsortc _ _ _ d a c | .tred _ _ d a c | .ttrans _ _ d a c | .tfill _ _ d a c => [d, a, c]
  | _ => []

/-- The rows of a tile. -/
def tileRows (t : Reg) : List RowId := (List.range 4).map fun r => BitVec.ofNat 5 (4 * (t.toNat % 8) + r)

/-- The rows that an instruction names. -/
def namedRows : Instr → List RowId
  | .vadd _ _ _ d a b | .vsub _ _ _ d a b | .vmul _ _ _ d a b | .vfma _ _ _ d a b | .vdiv _ _ _ d a b | .vmin _ _ _ d a b
  | .vmax _ _ _ d a b | .vsgn _ _ _ d a b | .vand _ _ _ d a b | .vor _ _ _ d a b | .vxor _ _ _ d a b | .vsel _ _ _ d a b
  | .vperm _ _ _ d a b => [d, a, b]
  | .vshl _ _ _ _ d a b | .vshr _ _ _ _ d a b | .vsha _ _ _ _ d a b | .vcmp _ _ _ _ d a b | .vext _ _ _ _ d a b => [d, a, b]
  | .vabs _ _ _ d a | .vrcp _ _ _ d a | .vrsq _ _ _ d a | .vexp2 _ _ _ d a | .vlog2 _ _ _ d a | .vscan _ _ _ _ d a
  | .vcvt _ _ _ _ _ d a | .vbfpq _ _ _ _ _ d a | .vbfpd _ _ _ _ _ d a => [d, a]
  | .vrsum _ _ _ a | .vrmax _ _ _ a | .vrmin _ _ _ a => [a]
  | .vbcast _ _ _ _ d | .viota _ _ _ _ d => [d]
  | .vld _ _ _ _ d _ | .vst _ _ _ d _ | .vlds _ _ _ _ _ d _ => [d]
  | .vgath _ _ _ _ _ d b _ | .vscat _ _ _ _ d b _ => [d, b]
  | .tadd .l0 _ d a b _ | .tmul .l0 _ d a b _ | .tbaq .l0 _ d a b _ | .tmmaFloat .l0 _ _ _ d a b _ | .tmmaBlock .l0 _ _ _ d a b _ =>
    tileRows d ++ tileRows a ++ tileRows b
  | .tmov .l0 _ d a | .tcvt .l0 _ d a _ | .tred .l0 _ d a _ | .ttrans .l0 _ d a _ | .tfill .l0 _ d a _ => tileRows d ++ tileRows a
  | _ => []

/-- A destination row is read too where inactive slots keep their bytes (R88). -/
def underMask (c : Reg) (d : RowId) : List RowId := if c = 0 then [] else [d]

/-- The rows that an instruction reads when it issues. C is no mask of VSEL, VBFPQ, VBFPD and a scaled VCVT (R438, R440, R453), and a shift by a register reads no index row (R454). -/
def readRows : Instr → List RowId
  | .vadd _ _ c d a b | .vsub _ _ c d a b | .vmul _ _ c d a b | .vdiv _ _ c d a b | .vmin _ _ c d a b | .vmax _ _ c d a b
  | .vsgn _ _ c d a b | .vand _ _ c d a b | .vor _ _ c d a b | .vxor _ _ c d a b | .vperm _ _ c d a b
  | .vcmp _ _ _ c d a b => [a, b] ++ underMask c d
  | .vsel _ _ _ _ a b => [a, b]
  | .vshl _ _ n c d a b | .vshr _ _ n c d a b | .vsha _ _ n c d a b => (if n = 0 then [a, b] else [a]) ++ underMask c d
  | .vfma _ _ _ d a b => [d, a, b]
  | .vext _ _ _ c d a b => [a, b] ++ underMask c d
  | .vabs _ _ c d a | .vrcp _ _ c d a | .vrsq _ _ c d a | .vexp2 _ _ c d a | .vlog2 _ _ c d a | .vscan _ _ _ c d a
    => a :: underMask c d
  | .vcvt _ df sf _ c d a => if df.hasScale || sf.hasScale then [a] else a :: underMask c d
  | .vbfpq _ _ _ _ _ _ a | .vbfpd _ _ _ _ _ _ a => [a]
  | .vrsum _ _ _ a | .vrmax _ _ _ a | .vrmin _ _ _ a => [a]
  | .vbcast _ _ _ c d | .viota _ _ _ c d => underMask c d
  | .vst _ _ _ d _ => [d]
  | .vgath _ _ _ _ _ _ b _ => [b]
  | .vscat _ _ _ _ d b _ => [d, b]
  | .tadd .l0 _ _ a b _ | .tmul .l0 _ _ a b _ | .tbaq .l0 _ _ a b _ => tileRows a ++ tileRows b
  | .tmmaFloat .l0 _ _ _ d a b _ | .tmmaBlock .l0 _ _ _ d a b _ => tileRows d ++ tileRows a ++ tileRows b
  | .tmov .l0 _ _ a | .tcvt .l0 _ _ a _ | .tred .l0 _ _ a _ | .ttrans .l0 _ _ a _ => tileRows a
  | _ => []

/-- The rows that an instruction of the vector queue writes. -/
def resultRows : Instr → List RowId
  | .vadd _ _ _ d _ _ | .vsub _ _ _ d _ _ | .vmul _ _ _ d _ _ | .vfma _ _ _ d _ _ | .vdiv _ _ _ d _ _ | .vmin _ _ _ d _ _
  | .vmax _ _ _ d _ _ | .vsgn _ _ _ d _ _ | .vand _ _ _ d _ _ | .vor _ _ _ d _ _ | .vxor _ _ _ d _ _ | .vsel _ _ _ d _ _
  | .vperm _ _ _ d _ _ => [d]
  | .vshl _ _ _ _ d _ _ | .vshr _ _ _ _ d _ _ | .vsha _ _ _ _ d _ _ | .vcmp _ _ _ _ d _ _ | .vext _ _ _ _ d _ _ => [d]
  | .vabs _ _ _ d _ | .vrcp _ _ _ d _ | .vrsq _ _ _ d _ | .vexp2 _ _ _ d _ | .vlog2 _ _ _ d _ | .vscan _ _ _ _ d _
  | .vcvt _ _ _ _ _ d _ | .vbfpq _ _ _ _ _ d _ | .vbfpd _ _ _ _ _ d _ => [d]
  | .vbcast _ _ _ _ d | .viota _ _ _ _ d => [d]
  | .tmov .l0 _ d _ | .tadd .l0 _ d .. | .tmul .l0 _ d .. | .tcvt .l0 _ d .. | .tbaq .l0 _ d .. | .tred .l0 _ d .. | .ttrans .l0 _ d ..
  | .tfill .l0 _ d .. | .tmmaFloat .l0 _ _ _ d .. | .tmmaBlock .l0 _ _ _ d .. => tileRows d
  | _ => []

/-- The registers that a response will write. -/
def Dest.regs : Dest → List Reg
  | .scalar d _ => [d] | .pair d b => [d, b] | .atomic d _ => [d] | .status d => [d] | _ => []
def Dest.rows : Dest → List RowId
  | .row r .. => [r] | _ => []

/-- The instruction names a register or row whose value is still on its way (R191, R338, R342, R448). -/
def State.pendingOperand (s : State) (i : Instr) : Bool :=
  match s.cur.run with
  | none => false
  | some sid =>
    s.flight.any (fun a => a.sid == sid && (a.dest.regs.any (fun r => r != 0 && (namedRegs i).contains r) || a.dest.rows.any (namedRows i).contains))
      || s.engines.any fun e => e.sid == sid && (match e.dest with | some r => r != 0 && (namedRegs i).contains r | none => false)

/-- A blocking instruction that names one of s8 to s15 is no suspension point (R39). -/
def suspendable (i : Instr) : Bool := (namedRegs i).all fun r => decide (r.toNat < 8)

/-- EA of R333 from a register and a signed displacement: none outside [0, 2^56) (R164). -/
def effAddr (base : Word) (disp : Int) : Option Nat :=
  let a : Int := base.toNat + disp
  if 0 ≤ a ∧ a < 2 ^ 56 then some a.toNat else none

/-- The address as ADDR shows it when it lies outside the space (log 14). -/
def rawAddr (base : Word) (disp : Int) : BitVec 64 := BitVec.ofInt 64 (base.toNat + disp)

def disp16 (i : BitVec 16) : Int := i.toInt

/-- Bytes of LD and ST (R372). -/
def memBytes : MemWidth → Nat
  | .d64 => 8 | .i32 | .n32 => 4 | .i16 | .n16 => 2 | .i8 | .n8 => 1

/-- The register image of loaded bytes (R372). -/
def memExtend (n : MemWidth) (v : Nat) : Word :=
  match n with
  | .i32 => (BitVec.ofNat 32 v).signExtend 64 | .i16 => (BitVec.ofNat 16 v).signExtend 64 | .i8 => (BitVec.ofNat 8 v).signExtend 64
  | .n32 => BitVec.ofNat 64 (v % 2 ^ 32) | .n16 => BitVec.ofNat 64 (v % 2 ^ 16) | .n8 => BitVec.ofNat 64 (v % 2 ^ 8)
  | .d64 => BitVec.ofNat 64 v

def aBytes : AWidth → Nat
  | .w64 => 8 | .w32 => 4

/-! Rows as elements (R87 to R90). -/

/-- Elements per row of a container width (R427). -/
def perRow (w : Nat) : Nat := 2048 / w

/-- Element slot i of width w. -/
def rowElem (r : Row) (w i : Nat) : Nat := (r.toNat >>> (w * i)) % 2 ^ w

/-- The elements of a row. -/
def rowElems (r : Row) (w : Nat) : List Nat := (List.range (perRow w)).map fun i => rowElem r w i

/-- A row from its elements, the first in the low bits. -/
def elemsNat (w : Nat) : List Nat → Nat
  | [] => 0
  | e :: t => e % 2 ^ w + 2 ^ w * elemsNat w t
def rowOf (w : Nat) (es : List Nat) : Row := BitVec.ofNat 2048 (elemsNat w es)

/-- Slot i of E is active under a lane mask; a C field of 0 makes every slot active (R88). -/
def active (c : Reg) (mask : Word) (e i : Nat) : Bool := c == 0 || mask.getLsbD (i * 64 / e)

/-- Blocks of a scaled row, as the table of R87 gives them: at most one for each byte of the scale register. -/
def blocksOf (w : Nat) : Nat := min 8 (perRow w / 48)

/-- Byte b of a scale register (R87). -/
def scaleByte (w : Word) (b : Nat) : Nat := w.toNat / 2 ^ (8 * b) % 256

/-- New elements into a row: an inactive slot keeps its old value (R88). -/
def mergeRow (c : Reg) (mask : Word) (w : Nat) (old : Row) (new : List Nat) : Row :=
  rowOf w (List.zipWith (fun p n => if active c mask (perRow w) p.2 then n else p.1) ((rowElems old w).zipIdx) new)

def rowBytes (r : Row) : List Byte := toLe 256 r.toNat
def bytesRow (bs : List Byte) : Row := BitVec.ofNat 2048 (leNat bs)

/-! The L0 control word and the arrival operand (R363, R402). -/

/-- The L0 control word, once its reserved bits have been checked. -/
structure CtlWord where
  rcw : Rcw
  sfmt : Fmt
  dfmt : Fmt
  op : Nat
  axis : Bool
  deriving DecidableEq, Repr

/-- The formats that a tile register admits (R402). -/
def l0Fmt (c : Nat) : Option Fmt :=
  match c with
  | 0x01 => some .f32 | 0x02 => some .bf16 | 0x03 => some .f16 | 0x04 => some .e4m3 | 0x05 => some .e5m2 | 0x06 => some .e2m1
  | 0x10 => some .i32 | 0x11 => some .n32 | 0x12 => some .i16 | 0x13 => some .n16 | 0x14 => some .i8 | 0x15 => some .n8
  | _ => none

/-- Read the control word; none where it raises ILLEGAL FMT. modes: MODE and OVF are used (TCVT, TBAQ). -/
def ctlWord (w : Word) (modes : Bool) : Option CtlWord :=
  if bitsOf w 7 4 ≠ 0 ∨ bitsOf w 15 13 ≠ 0 ∨ bitsOf w 23 21 ≠ 0 ∨ bitsOf w 31 27 ≠ 0 ∨ (modes ∧ 5 ≤ bitsOf w 2 0) then none
  else
    match l0Fmt (bitsOf w 12 8), l0Fmt (bitsOf w 20 16) with
    | some sf, some df =>
      some { rcw := { mode := if modes then bitsOf w 2 0 else 0, ovf := bitsOf w 3 3 == 1, seed := bitsOf w 63 32 }
             sfmt := sf, dfmt := df, op := bitsOf w 25 24, axis := bitsOf w 26 26 == 1 }
    | _, _ => none

end Sys2Proof.Machine
end

