-- ==== Sys2Proof/Machine/Log.lean ====
section
/-! DEFINITION. The undo log: space and reservations, entries, windows (R217 to R229, R473 to R475). -/

namespace Sys2Proof.Machine

def State.log (s : State) (asid : Nat) : UndoLog := match s.ctx? asid with | some c => c.log | none => {}
def State.modLog (s : State) (asid : Nat) (f : UndoLog → UndoLog) : State := s.modCtx asid fun c => { c with log := f c.log }

def chunkSize : Nat := 4096
def UndoLog.size (l : UndoLog) : Nat := 2 ^ l.logsz
def UndoLog.writer (l : UndoLog) (w : Nat) : LogWriter := l.writers.getD w {}
def UndoLog.setWriter (l : UndoLog) (w : Nat) (x : LogWriter) : UndoLog := { l with writers := l.writers.set w x }

/-- A write to a place is logged under a mode (R217); engine: the engine rules for HBM. -/
def loggedAt (mode : Nat) (l : Loc) : Bool :=
  match l with
  | .core _ _ off _ => decide (1 ≤ mode) && decide (off < 0xC000)
  | .cluster .. | .chiplet .. => decide (1 ≤ mode)
  | .hbm .. => decide (2 ≤ mode)
  | _ => false

/-! Parts and sizes (R222, R234). -/

/-- Bytes of an entry with b bytes of old data. -/
def entryBytes (b : Nat) : Nat := 16 + (b + 15) / 16 * 16

/-- Cut n bytes from an address into pieces within units of w bytes, each widened to whole 8-byte words. fuel: at least the pieces. -/
def cutParts (w : Nat) : Nat → Nat → Nat → List (Nat × Nat)
  | 0, _, _ => []
  | fuel + 1, a, n =>
    if n = 0 then []
    else
      let k := min n (w - a % w)
      let lo := a / 8 * 8
      (lo, (a + k + 7) / 8 * 8 - lo) :: cutParts w fuel (a + k) (n - k)

/-- The whole units of w bytes that a write of n bytes reaches. fuel: at least the units. -/
def unitParts (w : Nat) : Nat → Nat → Nat → List (Nat × Nat)
  | 0, _, _ => []
  | fuel + 1, a, n =>
    if n = 0 then []
    else
      let k := min n (w - a % w)
      (a / w * w, w) :: unitParts w fuel (a + k) (n - k)

/-- The logged parts of a write of n bytes: flat address and bytes of old data. A bank word, a bank segment and an HBM block are logged whole (R222, R445). -/
def logParts (own : Bool) (a n : Nat) : List (Nat × Nat) :=
  if isHbm a then unitParts 64 n a n
  else if a < 2 ^ 45 then (if own then cutParts 65536 n a n else unitParts 8 n a n)
  else if a < 2 ^ 46 then unitParts 32 n a n
  else unitParts 64 n a n

/-- The bytes that parts need of each writer. -/
def partsNeed (ps : List (Nat × Nat)) : List (Nat × Nat) := ps.map fun p => (writerOf p.1, entryBytes p.2)

/-! Reservations (R474). -/

/-- K_w: the new chunks that a writer may need with its reserved bytes. -/
def chunksFor (x : LogWriter) (a : Nat) : Nat :=
  let f := if x.chunk.isSome then chunkSize - x.fill else 0
  (a - (f - 256) + 3839) / 3840

def needOf (reqs : List (Nat × Nat)) (w : Nat) : Nat := ((reqs.filter fun r => r.1 == w).map fun r => r.2).sum

/-- The free chunks between the tail and the head. -/
def UndoLog.freeChunks (l : UndoLog) : Nat := (l.size - l.used) / chunkSize

/-- A reservation of these bytes succeeds (R474). -/
def UndoLog.fits (l : UndoLog) (reqs : List (Nat × Nat)) : Bool :=
  let ws := ((l.writers.map fun e => e.1) ++ reqs.map fun r => r.1).eraseDups
  decide ((ws.map fun w => chunksFor (l.writer w) ((l.writer w).rsv + needOf reqs w)).sum ≤ l.freeChunks)

def UndoLog.addRsv (l : UndoLog) (reqs : List (Nat × Nat)) : UndoLog :=
  reqs.foldl (fun l r => l.setWriter r.1 { l.writer r.1 with rsv := (l.writer r.1).rsv + r.2 }) l
def UndoLog.subRsv (l : UndoLog) (reqs : List (Nat × Nat)) : UndoLog :=
  reqs.foldl (fun l r => l.setWriter r.1 { l.writer r.1 with rsv := (l.writer r.1).rsv - r.2 }) l

/-! Windows (R224, R475). -/

/-- Leave OPEN: the standing reservation is released. -/
def State.setWin (s : State) (sid : Nat) (st : WinState) : State :=
  match s.strand? sid with
  | none => s
  | some x =>
    let s1 := if st = .opened then s else s.modLog x.asid fun l => l.subRsv (x.window.rsv.toList.map fun w => (w, 32))
    s1.modStrand sid fun x => { x with window := { x.window with st := st, rsv := if st = .opened then x.window.rsv else none } }

/-- The head passes a chunk: every window with its MARK or an entry in it becomes TRUNCATED (R224, R229). -/
def State.truncateAt (s : State) (asid chunk : Nat) : State :=
  let hit := (s.log asid).wins.filter fun w => w.2 == chunk
  let s1 := (s.allStrands.filter fun e => e.2.asid == asid && hit.any fun w => w.1 == e.2.window.num).foldl
    (fun s e => if e.2.window.st = .opened ∨ e.2.window.st = .fixed then s.setWin e.1 .truncated else s) s
  s1.modLog asid fun l => { l with
    wins := l.wins.filter fun w => w.2 != chunk
    skip := l.skip.filter fun k => k.1 / chunkSize != chunk / chunkSize
    places := l.places.filter fun e => e.1 / chunkSize != chunk / chunkSize
    fills := l.fills.drop chunk
    writers := l.writers.map fun e => if e.2.chunk = some chunk then (e.1, { e.2 with chunk := none, fill := 0 }) else e }

/-- Advance the head by whole chunks. -/
def State.freeChunksFrom (s : State) (asid : Nat) : Nat → State
  | 0 => s
  | n + 1 =>
    let l := s.log asid
    if l.used = 0 then s
    else
      let s1 := s.truncateAt asid l.head
      (s1.modLog asid fun l => { l with head := (l.head + chunkSize) % l.size, used := l.used - chunkSize, lost := true }).freeChunksFrom asid n

/-- Advance the head until a reservation fits (R229 RECYCLE). fuel: the chunks in use. -/
def State.recycleFor (s : State) (asid : Nat) (reqs : List (Nat × Nat)) : Nat → State
  | 0 => s
  | n + 1 => if (s.log asid).fits reqs then s else (s.freeChunksFrom asid 1).recycleFor asid reqs n

/-- LogReserve of R333: none is UNDO LOGFULL. DESIGN CHOICE (log 172): under POLICY RECYCLE R229 advances the head until the entries fit, and does not say what becomes of entries that an empty ring cannot take; here they are UNDO LOGFULL too. -/
def State.reserve (s : State) (asid : Nat) (reqs : List (Nat × Nat)) : Option State :=
  if reqs.isEmpty then some s
  else
    let l := s.log asid
    let s1 := if l.fits reqs ∨ !l.recycle then s else s.recycleFor asid reqs (l.used / chunkSize)
    if (s1.log asid).fits reqs then some (s1.modLog asid fun l => l.addRsv reqs) else none

/-! Appending entries (R219, R222, R223, R473). -/

inductive EntryKind where
  | mark | store | atomic | merge | engine | seal | rollback | pad
  deriving DecidableEq, Repr

def EntryKind.code : EntryKind → Nat
  | .mark => 0 | .store => 1 | .atomic => 2 | .merge => 3 | .engine => 4 | .seal => 5 | .rollback => 6 | .pad => 7

/-- The bytes of an entry (R222). loc: bits [52:0]; win, dstamp: header word 1. -/
def entryImage (k : EntryKind) (loc win dstamp : Nat) (data : List Byte) : List Byte :=
  let size := if k = .pad then 0 else data.length / 8 - 1
  toLe 8 (loc % 2 ^ 53 + size * 2 ^ 53 + k.code * 2 ^ 58) ++ toLe 4 win ++ toLe 4 dstamp ++ data
    ++ List.replicate ((data.length + 15) / 16 * 16 - data.length) 0

/-- Nanoseconds from the opening stamp, saturating; with no window the low half of package time (R222). -/
def dstampOf (win stamp now : Nat) : Nat := if win = 0 then now % 2 ^ 32 else min (now - stamp) 0xFFFFFFFF

/-- A write to the ring under the context's rights: TT 0x8, writable, with a key (R473). -/
def State.ringWrite (s : State) (asid off : Nat) (bs : List Byte) : Except Fail State :=
  let va := (s.log asid).base.toNat + off
  match s.xlateAll .device asid 0 0 .wr (pagePieces 2 va bs.length) with
  | .error f => .error f
  | .ok segs =>
    if segs.all fun g => match g.loc with | .hbm .. => true | _ => false then s.writeSegs segs (bs.map some)
    else .error { cause := 0x03, sub := 0x02, addr := BitVec.ofNat 64 va }

/-- Close a writer's chunk with a PAD where an entry does not fit, and take a new chunk at the tail. -/
def State.newChunk (s : State) (asid w : Nat) : State :=
  let l := s.log asid
  let x := l.writer w
  let s1 := match x.chunk with
    | some c => if x.fill < chunkSize then (match s.ringWrite asid (c + x.fill) (entryImage .pad 0 0 0 []) with | .ok t => t | .error _ => s) else s
    | none => s
  let s2 := if l.freeChunks = 0 ∧ l.recycle then s1.freeChunksFrom asid 1 else s1
  s2.modLog asid fun l => { l.setWriter w { l.writer w with chunk := some l.tail, fill := 0 } with
    tail := (l.tail + chunkSize) % l.size, used := l.used + chunkSize }

/-- The die of a log writer (R219): a chiplet, or the base die of a stack. -/
def writerDie (w : Nat) : Nat := if w < 48 then w else 0x100 + (w - 48)

/-- A log writer takes an entry; the answer is the state and the entry's ring offset, or RINGERR with the ring address (R473). -/
def State.append (s : State) (asid w : Nat) (k : EntryKind) (loc win stamp : Nat) (data : List Byte) : Except (State × Trap) (State × Nat) :=
  let img := entryImage k loc win (dstampOf win stamp (s.dieTime (writerDie w))) data
  let x := (s.log asid).writer w
  let s1 := if x.chunk.isSome ∧ x.fill + img.length ≤ chunkSize then s else s.newChunk asid w
  let y := (s1.log asid).writer w
  let c := y.chunk.getD 0
  match s1.ringWrite asid (c + y.fill) img with
  | .error _ =>
    .error (s1.modLog asid fun l => { (l.setWriter w { y with chunk := none, fill := 0, rsv := y.rsv - img.length }) with
        skip := (c + y.fill, chunkSize - y.fill) :: l.skip, fills := l.fills.set c y.fill },
      { cause := 0x09, sub := 0x04, addr := BitVec.ofNat 64 ((s1.log asid).base.toNat + c + y.fill) })
  | .ok s2 =>
    .ok (s2.modLog asid fun l => { (l.setWriter w { y with fill := y.fill + img.length, rsv := y.rsv - img.length }) with
        fills := l.fills.set c (y.fill + img.length)
        opens := if win = 0 then l.opens else l.opens.set win stamp
        wins := if win = 0 ∨ l.wins.contains (win, c) then l.wins else (win, c) :: l.wins }, c + y.fill)

/-- A place some bytes further on. -/
def Loc.plus (l : Loc) (k : Nat) : Loc :=
  match l with
  | .core v p o own => .core v p (o + k) own
  | .cluster v o => .cluster v (o + k)
  | .chiplet c o => .chiplet c (o + k)
  | .event v o => .event v (o + k)
  | .window o => .window (o + k)
  | .hbm p key => .hbm (p + k) key
  | .host h => .host (h + k)
  | .peer i o => .peer i (o + k)

/-- A place some bytes before. -/
def Loc.back (l : Loc) (k : Nat) : Loc :=
  match l with
  | .core v p o own => .core v p (o - k) own
  | .cluster v o => .cluster v (o - k)
  | .chiplet c o => .chiplet c (o - k)
  | .hbm p key => .hbm (p - k) key
  | m => m

/-- Bytes that a virtual cluster's write has put into the undo log (R326). -/
def State.loggedBytes (s : State) (v : Nat) (ps : List Part) : State :=
  if ps.isEmpty then s else s.happen v 0x07 (ps.map fun p => entryBytes p.n).sum

/-- Append one entry per part with the bytes that the write is about to overwrite (R218). -/
def State.appendParts (s : State) (asid win stamp : Nat) (k : EntryKind) : List Part → Except (State × Trap) State
  | [] => .ok s
  | p :: t =>
    let a := s.flatOf p.loc
    match s.append asid (writerOf a) k (p.va / 8) win stamp (s.mem.read (s.homeFlat p.loc) p.n) with
    | .error e => .error (e.1.modLog asid fun l => l.subRsv (t.map fun q => (writerOf (s.flatOf q.loc), entryBytes q.n)), e.2)
    | .ok (s1, off) => (s1.modLog asid fun l => { l with places := l.places.set off p }).appendParts asid win stamp k t

/-! The running strand's window. -/

/-- Every residue check of the older instructions has passed (R225, R227). -/
def State.checksPassed (s : State) : State :=
  { s with cur := { s.cur with recent := [], vq := s.cur.vq.map fun e => { e with check := none } } }

/-- A fixing operation issues once the older residue checks have passed, and makes an OPEN window FIXED (R225). -/
def State.fixWindow (s : State) : State :=
  match s.cur.run with
  | some sid => (if s.cur.str.window.st = .opened then s.setWin sid .fixed else s).checksPassed
  | none => s

/-- Close the running strand's window: it is no strand's current window any more (R224). -/
def State.closeWindow (s : State) : State :=
  match s.cur.run with
  | some sid => (s.setWin sid .none).checksPassed.setStr fun x => { x with window := {} }
  | none => s

/-- The window is SEALED while an engine operation or a tile root that seals it is under way, and closed by an instruction that completes at once (R224, R432). DESIGN CHOICE (log 171): a TRUNCATED window is sealed as the others are, though the table of R224 lets it leave that state only by UWOPEN and EXIT. -/
def State.sealedBy (s : State) (by_ : Option (Bool × Nat)) : State :=
  match by_, s.cur.run with
  | none, _ => s.closeWindow
  | some _, none => s
  | some b, some sid =>
    if s.cur.str.window.st = .none ∨ s.cur.str.window.st = .sealed then s.checksPassed
    else ((s.setWin sid .sealed).setStr fun x => { x with window := { x.window with sealer := some b } }).checksPassed

/-- The instruction that sealed a window has completed: the strand's state is NONE (R224). -/
def State.unseal (s : State) (sid : Nat) (by_ : Bool × Nat) : State :=
  s.modStrand sid fun x => if x.window.st = .sealed ∧ x.window.sealer = some by_ then { x with window := {} } else x

/-- What a sealing operation comes to: no room for its SEAL entry under POLICY TRAP; an entry that the ring does not accept, so that the effect must not leave the chip; or a sealed window (R227, R473). -/
inductive Sealing where
  | full
  | refused (s : State) (t : Trap)
  | done (s : State)

/-- The SEAL entry of a sealing operation, then its window (R227, R432). -/
def State.sealWindow (s : State) (by_ : Option (Bool × Nat)) : Sealing :=
  if (s.log s.asid).mode = 0 then .done (s.sealedBy by_)
  else
    match s.reserve s.asid [(s.chipHere, 32)] with
    | none => .full
    | some s1 =>
      let w := s.cur.str.window
      match s1.append s.asid s.chipHere .seal 0 w.num w.stamp (toLe 8 s.timeHere) with
      | .error e => .refused e.1.checksPassed { e.2 with fpc := s.cur.pc }
      | .ok (s2, _) => .done ((s2.sealedBy by_).happen s.vcn 0x07 32)

/-- The running strand takes an asynchronous trap at its next boundary. -/
def State.pend (s : State) (t : Trap) : State := s.setStr fun x => { x with pending := x.pending ++ [t] }

/-- A piece of old data of a write: w bytes from the flat address p, where the piece itself begins at a. -/
def partAt (g : Seg) (a p w : Nat) : Part :=
  { va := g.va.toNat + p - a, n := w, loc := if a ≤ p then g.loc.plus (p - a) else g.loc.back (a - p) }

/-- The logged parts of a piece (R217, R222): those of which some byte is written. -/
def State.partsFor (s : State) (mode : Nat) (g : Seg) : List Part :=
  if loggedAt mode g.loc then
    let a := s.flatOf g.loc
    let own := match g.loc with | .core _ _ _ o => o | _ => false
    ((logParts own a g.n).filter fun p => (List.range p.2).any fun j => (g.data.getD (p.1 + j - a) none).isSome && decide (a ≤ p.1 + j)).map
      fun p => partAt g a p.1 p.2
  else []

/-- The pieces of the running strand's write, with their logged parts. -/
def State.withParts (s : State) (segs : List Seg) : List Seg := segs.map fun g => { g with parts := s.partsFor (s.log s.asid).mode g }

/-- The reservation that logged pieces need, by writer (R474). -/
def State.segsReq (s : State) (segs : List Seg) : List (Nat × Nat) :=
  segs.flatMap fun g => g.parts.map fun p => (writerOf (s.flatOf p.loc), entryBytes p.n)

end Sys2Proof.Machine
end

