-- ==== Sys2Proof/Machine/Acc.lean ====
section
/-! DEFINITION. Accesses: the checks of R332, issue and its counts, rows of the tile context slots and their bypass, mapped registers, arrival at the home bank, and the answer to the core (R89 to R101, R186 to R203, R213, R274, R281, R332). -/

namespace Sys2Proof.Machine

/-! Kinds and classes. -/

def AccOp.isLoad : AccOp → Bool
  | .load | .waita _ | .eventLoad _ => true
  | _ => false

/-- The VCN that a message without an address names. -/
def AccOp.vcn? : AccOp → Option Nat
  | .wake v _ | .spawn v _ _ | .qpush v _ _ | .evsig v _ => some v
  | _ => none

/-- STORES falls with the response: SPAWN and QPUSH (R392, R395). -/
def AccOp.answersStore : AccOp → Bool
  | .spawn .. | .qpush .. => true
  | _ => false

/-- Performed, or never to be: what a fence no longer waits for. -/
def Stage.past : Stage → Bool
  | .performed .. | .failed _ => true
  | _ => false

/-- The VCNs that an access names. -/
def vcnsOf (op : AccOp) (segs : List Seg) : List Nat := (op.vcn?.toList ++ segs.filterMap fun g => g.loc.vcn?).eraseDups

/-- The class of a message to a VCN (R190). -/
def State.classTo (s : State) (v : Nat) : Class := s.classOf s.pcn s.vcn (.cluster v 0)

/-- Issue stalls while a count that the access would raise stands at 63 (R99, R191). -/
def State.full (s : State) (load : Bool) (ks : List Class) : Bool :=
  if load then decide (63 ≤ s.counts.loads) else decide (63 ≤ s.counts.stores) || ks.any fun k => decide (63 ≤ s.counts.cls k)

def Counts.issue (c : Counts) (load : Bool) (ks : List Class) : Counts :=
  if load then { c with loads := c.loads + 1 } else { ks.foldl Counts.addCls c with stores := c.stores + 1 }

/-- The classes of the pieces of an access, each once (R190, R445). -/
def State.classes (s : State) (segs : List Seg) : List Class := (segs.map fun g => s.classOf s.pcn s.vcn g.loc).eraseDups

/-- The stamps of a message from a router: the map generation that it holds of each VCN (R274). -/
def State.gensNow (s : State) (router : Nat) (vs : List Nat) : List (Nat × BitVec 8) := vs.map fun v => (v, (s.entryAt router v).gen)

/-- The address-space generation under which an agent translates now (R178). -/
def State.asGenNow (s : State) (asid : Nat) (a : Agent) : BitVec 20 := ((s.ctx? asid).map fun c => c.genFor s.ptime a).getD 0

/-- The access that the running strand sends. -/
def State.newAccess (s : State) (op : AccOp) (segs : List Seg) (k : List Class) (dest : Dest) (rsv : List (Nat × Nat)) : Access :=
  { id := s.nextId, sid := s.cur.run.getD 0, core := s.focus, pc := s.cur.pc, asid := s.asid, vcn := s.vcn, op := op, segs := segs, cls := k
    dest := dest, gens := s.gensNow s.pcn (vcnsOf op segs), asGen := s.asGenNow s.asid s.agent
    win := s.cur.str.window.num, winStamp := s.cur.str.window.stamp, mark := s.cur.mark, rsv := rsv }

/-- An access leaves the core: its counts rise, and it is on its way (R191). -/
def State.issue (s : State) (op : AccOp) (segs : List Seg) (k : List Class) (dest : Dest) (rsv : List (Nat × Nat) := []) : State :=
  { (s.setCounts fun c => c.issue op.isLoad k) with
    flight := s.flight ++ [s.newAccess op segs k dest rsv], nextId := s.nextId + 1 }

/-- The strand holds a tile context slot. -/
def State.holdsSlot (s : State) (k : Nat) : Bool := s.cur.str.slot == some k

/-- The checks of R332 for an aligned access of n bytes, after the wait class; go takes the pieces. -/
def State.withAccess (s : State) (w : BitVec 2) (k : AKind) (need : Need) (base : Word) (disp : Int) (n : Nat) (go : List Seg → Out) : Out :=
  match effAddr base disp with
  | none => .next (s.raise 0x03 0x05 (rawAddr base disp))
  | some a =>
    if s.classBusy w then .next (s.waiting .stall)
    else if a % n ≠ 0 then .next (s.raise 0x03 0x01 (BitVec.ofNat 64 a))
    else
      match s.xlateAll s.agent s.asid s.vcn s.pos need [(a, n)] with
      | .error f => .next (s.raiseFail f)
      | .ok segs =>
        match s.firstRefusal s.pcn s.holdsSlot k n segs with
        | some f => .next (s.raiseFail f)
        | none => go segs

/-! Rows and slots (R89 to R95). -/

/-- The flat address of a byte of a slot of the focused core. -/
def State.slotAddr (s : State) (slot off : Nat) : Nat := coreBase s.pcn s.pos + 0xC000 + 0x2000 * slot + off
def rowOff (r : RowId) : Nat := 0x400 * (r.toNat / 4) + 0x100 * (r.toNat % 4)

/-- A row as the tile register holds it; all zero where no slot is held (R91). -/
def State.slotRow (s : State) (r : RowId) : Row :=
  match s.cur.str.slot with
  | some k => bytesRow (s.mem.read (s.slotAddr k (rowOff r)) 256)
  | none => 0

/-- A row as a row instruction reads it: the newest bypass entry, or the tile register (R94). -/
def State.row (s : State) (r : RowId) : Row :=
  match s.cur.bypass.lookup r with
  | some x => x
  | none => s.slotRow r

/-- The bypass takes a result as its newest entry and keeps three (R94). -/
def pushBypass (b : List (RowId × Row)) (r : RowId) (x : Row) : List (RowId × Row) := ((r, x) :: b).take 3

/-- Write a row; a transient result stays in the bypass (R94). -/
def State.setRow (s : State) (transient : Bool) (r : RowId) (x : Row) : State :=
  let s1 : State := { s with cur := { s.cur with bypass := pushBypass s.cur.bypass r x } }
  match transient, s.cur.str.slot with
  | false, some k => { s1 with mem := s1.mem.store none (s.slotAddr k (rowOff r)) ((rowBytes x).map some) }
  | _, _ => s1

/-- The words of a row's tile register that hold an uncorrectable error and are not wholly written by the bytes that an instruction writes (R472). -/
def State.lostWords (s : State) (transient : Bool) (r : RowId) (wrote : Nat → Bool) : List Nat :=
  match transient, s.cur.str.slot with
  | false, some k => (List.range 32).filter fun j => s.mem.bad.contains (s.slotAddr k (rowOff r) + 8 * j) && !(List.range 8).all fun i => wrote (8 * j + i)
  | _, _ => []

/-- Write some bytes of a row (R88, R94, R472): a word that is lost keeps its state, and a row with one is not kept in the bypass. -/
def State.putRow (s : State) (transient : Bool) (r : RowId) (x : Row) (wrote : Nat → Bool) : State :=
  let lost := s.lostWords transient r wrote
  let s1 : State := { s with cur := { s.cur with bypass := if lost.isEmpty then pushBypass s.cur.bypass r x else s.cur.bypass.filter fun e => e.1 != r } }
  match transient, s.cur.str.slot with
  | false, some k => { s1 with mem := s1.mem.store none (s.slotAddr k (rowOff r)) ((rowBytes x).mapIdx fun i b => if wrote i && !lost.contains (i / 8) then some b else none) }
  | _, _ => s1

/-- The first word of a row whose partial write meets an uncorrectable error, as an offset in the core scratchpad (R472). -/
def State.lostAt (s : State) (transient : Bool) (r : RowId) (wrote : Nat → Bool) : Option (BitVec 64) :=
  ((s.lostWords transient r wrote).find? fun j => (List.range 8).any fun i => wrote (8 * j + i)).bind fun j =>
    s.cur.str.slot.map fun k => BitVec.ofNat 64 (0xC000 + 0x2000 * k + rowOff r + 8 * j)

/-- The slots of the focused core that no strand holds. -/
def Core.freeSlot (c : Core) : Option Nat := if c.slot0.isNone then some 0 else if c.slot1.isNone then some 1 else none
def Core.setSlot (c : Core) (k : Nat) (o : Option Nat) : Core := if k = 0 then { c with slot0 := o } else { c with slot1 := o }
def Core.slotOwner (c : Core) (k : Nat) : Option Nat := if k = 0 then c.slot0 else c.slot1

/-- Give a slot of the focused core to its strand: all of it zero (R91). -/
def State.giveSlot (s : State) (k : Nat) : State :=
  { s with cur := { (s.cur.setSlot k s.cur.run) with str := { s.cur.str with slot := some k } }
           mem := s.mem.store none (s.slotAddr k 0) (List.replicate 0x2000 (some 0)) }

/-- The lowest free tile unit of a context (R265, R266). -/
def Ctx.unitCount (c : Ctx) : Nat := (c.saveSize / 2 - c.vcnum * 2 ^ 21) / 8256
def lowestFree (used : List Nat) : Nat → Nat → Option Nat
  | 0, _ => none
  | n + 1, k => if used.contains k then lowestFree used n (k + 1) else some k
def Ctx.freeUnit (c : Ctx) : Option Nat := lowestFree c.units c.unitCount 0

/-- The bound, suspended strand that has been suspended longest among the holders of the focused core's slots (R42). -/
def State.victimSlot (s : State) : Option Nat :=
  let age : Nat → Option Nat := fun k =>
    match s.cur.slotOwner k with
    | some sid => if s.cur.run = some sid then none else (s.strand? sid).map fun x => x.suspendedAt
    | none => none
  match age 0, age 1 with
  | some a, some b => if b < a then some 1 else some 0
  | some _, none => some 0
  | none, some _ => some 1
  | none, none => none

/-- What a write of a tile register finds (R41, R42, R266): the state to write in, a wait for the eviction of another context, or NOSAVE. -/
def State.withSlot (s : State) (go : State → Out) : Out :=
  if s.cur.str.slot.isSome then go s
  else
    match s.cur.freeSlot with
    | some k => go (s.giveSlot k)
    | none =>
      match s.victimSlot.bind fun k => (s.cur.slotOwner k).bind s.strand? with
      | none => .next (s.waiting .stall)
      | some x =>
        match (s.ctx? x.asid).bind Ctx.freeUnit with
        | none => .next (s.raise 0x07 0x02)
        | some _ => .next (s.waiting .stall)

/-- A store by the holder to bytes of its own slot removes the rows whose bytes it writes from the bypass (R94). off: offset within the slot. -/
def State.dropBypass (s : State) (off : Nat) (bs : List (Option Byte)) : State :=
  let hit : RowId → Bool := fun r => bs.zipIdx.any fun p => p.1.isSome && decide (rowOff r ≤ off + p.2) && decide (off + p.2 < rowOff r + 256)
  { s with cur := { s.cur with bypass := s.cur.bypass.filter fun e => !hit e.1 } }

/-- A piece of the own core's scratchpad is cut where the slot area begins. -/
def Seg.cut (g : Seg) (k : Nat) : List Seg :=
  [{ g with n := k, data := g.data.take k }, { g with va := g.va + BitVec.ofNat 56 k, loc := g.loc.plus k, n := g.n - k, data := g.data.drop k }]

def Seg.atSlots (g : Seg) : List Seg :=
  match g.loc with
  | .core _ _ off _ => if off < 0xC000 ∧ 0xC000 < off + g.n then g.cut (0xC000 - off) else [g]
  | _ => [g]

/-- A piece lies in the slot area. -/
def Seg.inSlots (g : Seg) : Bool := g.loc.inSlots g.n

/-- A row of the own slot that pieces touch is still on its way from memory (R92). -/
def State.slotBusy (s : State) (segs : List Seg) : Bool :=
  let touches : RowId → Seg → Bool := fun r g => match g.loc with
    | .core _ _ off _ => let o := (off - 0xC000) % 0x2000; g.inSlots && decide (rowOff r < o + g.n) && decide (o < rowOff r + 256)
    | _ => false
  s.flight.any fun a => a.sid == s.cur.run.getD 0 && a.dest.rows.any fun r => (segs.flatMap Seg.atSlots).any (touches r)

/-- The first uncorrectable word of a tile register that a row read meets, as an offset in the core scratchpad (R290, R472): a row in the bypass is not read there. -/
def State.rowError (s : State) (rs : List RowId) : Option (BitVec 64) :=
  s.cur.str.slot.bind fun k =>
    (rs.filter fun r => (s.cur.bypass.lookup r).isNone).findSome? fun r =>
      let o := rowOff r
      (readErr s.mem s.lostDies none 256 (s.slotAddr k o) 256).map fun e => BitVec.ofNat 64 (e.at_ - coreBase s.pcn s.pos)

/-- A fault on the response of the running strand's own access: an asynchronous trap (R255, R472). -/
def State.asyncHere (s : State) (cause sub : Nat) (addr : BitVec 64) : State :=
  s.setStr fun x => { x with pending := x.pending ++ [{ cause := cause, sub := sub, fpc := s.cur.pc, addr := addr }] }

/-! The mapped register window (R47, R96 to R101). -/

def bit (p : Bool) (k : Nat) : Nat := if p then 2 ^ k else 0

/-- SELF (R98). -/
def State.selfWord (s : State) : Word :=
  BitVec.ofNat 64 (s.vcn % 4096 + s.pos * 2 ^ 12 + s.liveMask s.pcn % 256 * 2 ^ 16 + bit (s.holdsSlot 0) 24 + bit (s.holdsSlot 1) 25)

/-- The field of CLLOAD for core position i (R47). -/
def State.loadOf (s : State) (i : Nat) : Nat :=
  if s.live s.pcn i then
    let c := s.coreAt (s.pcn * 8 + i)
    let n := ((s.ready.filter fun e => e.1 % 8 == i && decide ((s.mapNow (e.1 / 8)).pcn = s.pcn) && (s.mapNow (e.1 / 8)).valid && !(s.mapNow (e.1 / 8)).nonres).map fun e => e.2.length).sum
    min n 31 + bit c.run.isSome 5 + bit (c.slot0.isSome && c.slot1.isSome) 6 + 2 ^ 7
  else 0
def State.clloadWord (s : State) : Word := BitVec.ofNat 64 (((List.range 8).map fun i => s.loadOf i * 2 ^ (8 * i)).sum)

/-- A load from the window (R96, R97). -/
def State.windowWord (s : State) (off : Nat) : Word :=
  match off with
  | 0x0000 => s.selfWord
  | 0x0008 => s.counts.word
  | 0x0010 => BitVec.ofNat 64 s.timeHere
  | 0x0100 => s.clloadWord
  | _ => 0

/-! Results (R372, R334). -/

/-- The 4-byte or 8-byte value of loaded bytes; the other one. -/
def dwordOf (bs : List Byte) (i : Nat) : Word := BitVec.ofNat 64 (leNat ((bs.drop (8 * i)).take 8))

/-- Returned(old) of R334. -/
def atomReturned (op : AtomOp) (n : AWidth) (old : Nat) : Word :=
  match op, n with
  | .min, .w32 | .max, .w32 => (BitVec.ofNat 32 old).signExtend 64
  | _, _ => BitVec.ofNat 64 old

/-- f(old) of R334 in n bits: none where nothing is written. -/
def atomApply (op : AtomOp) (n : AWidth) (old b c : Nat) : Option Nat :=
  let w := 8 * (aBytes n)
  let o := old % 2 ^ w
  let x := b % 2 ^ w
  match op with
  | .add => some ((o + x) % 2 ^ w)
  | .min => some (if sextInt w x < sextInt w o then x else o)
  | .max => some (if sextInt w o < sextInt w x then x else o)
  | .minu => some (min o x)
  | .maxu => some (max o x)
  | .and => some (o &&& x)
  | .or => some (o ||| x)
  | .xor => some (o ^^^ x)
  | .swp => some x
  | .cas => if o = c % 2 ^ w then some x else none
  | .fadd32 => some (fp32.rne ((fp32.val o).add (fp32.val x)))
  | .fadd64 => some (fp64.rne ((fp64.val o).add (fp64.val x)))

/-- Merge loaded bytes into a row: each byte of the row from the loaded byte that replaces it, or as it was. -/
def rowFrom (old : Row) (bs : List Byte) (from_ : List (Option Nat)) : Row :=
  bytesRow (List.zipWith (fun o f => match f with | some k => bs.getD k 0 | none => o) (rowBytes old) from_)

/-- The bytes of a row that came from the own slot (R92). -/
def overlay (x : Row) (held : List (Option Byte)) : Row :=
  if held.isEmpty then x else bytesRow (List.zipWith (fun o h => h.getD o) (rowBytes x) held)

/-- The bytes of a row that a load writes. -/
def wroteBy (from_ : List (Option Nat)) (held : List (Option Byte)) (i : Nat) : Bool := (from_.getD i none).isSome || (held.getD i none).isSome

/-- The word that a value cannot be merged into (R472). -/
def State.deliverLost (s : State) (d : Dest) : Option (BitVec 64) :=
  match d with
  | .row r t f h => s.lostAt t r (wroteBy f h)
  | _ => none

/-- A value reaches its registers on the focused core. The row of a VLD, VLDS or VGATH from memory becomes the newest entry of the bypass when it comes (log 151). -/
def State.deliver (s : State) (d : Dest) (op : AccOp) (bytes : List Byte) (old : Word) : State :=
  match d with
  | .none => s
  | .scalar d n => s.setReg d (memExtend n (leNat (bytes.take (memBytes n))))
  | .pair d b => (s.setReg d (dwordOf bytes 0)).setReg b (dwordOf bytes 1)
  | .row r t f h => s.putRow t r (overlay (rowFrom (s.row r) bytes f) h) (wroteBy f h)
  | .atomic d n => s.setReg d (match op with | .atomic o _ _ _ => atomReturned o n old.toNat | _ => old)
  | .status d => s.setReg d old

/-- The same, and MEMERR UNCORR for a word that it cannot be merged into (R472). pc: of the instruction. -/
def State.deliverWith (s : State) (pc : BitVec 56) (d : Dest) (op : AccOp) (bytes : List Byte) (old : Word) : State :=
  let t := s.deliver d op bytes old
  match s.deliverLost d with
  | some ad => t.setStr fun x => { x with pending := x.pending ++ [{ cause := 0x0D, sub := 0x01, fpc := pc, addr := ad }] }
  | none => t

/-! Arrival at the home (R197, R203, R274, R281). -/

/-- What the map makes of a message that arrives. -/
inductive Arrive where
  | here | forward | stale | retry | dead
  deriving DecidableEq, Repr

def State.arriveAt (s : State) (v : Nat) (g : BitVec 8) : Arrive :=
  let e := s.mapNow v
  let c := s.cluster e.pcn
  if !e.valid then .stale
  else if e.nonres then .retry
  else if g ≠ e.gen ∧ (!e.grace ∨ g ≠ e.prevGen) then .stale
  else if !c.router then .dead
  else if c.rot = .copying then .forward
  else .here

/-- The worst verdict among the VCNs that an access names. -/
def State.arrive (s : State) (a : Access) : Arrive :=
  (a.gens.map fun p => s.arriveAt p.1 p.2).foldl (fun w x => if w = .here then x else w) .here

/-- What the places of an access refuse as it arrives: NOCORE, CHIPGONE (R170, R329). -/
def State.noPlace (s : State) (a : Access) : Option Fail :=
  a.segs.findSome? fun g =>
    if s.deadCore g.loc then some { cause := 0x03, sub := 0x06, addr := g.va.zeroExtend 64 }
    else if s.goneChip g.loc then some { cause := 0x03, sub := 0x09, addr := g.va.zeroExtend 64 }
    else none

/-- The banks that an access goes to. -/
def State.banks (s : State) (a : Access) : List Nat :=
  (a.segs.flatMap fun g => match g.loc with | .event v _ => [2 ^ 50 + v] | l => banksOf (s.homeFlat l) g.n).eraseDups

/-- An older access of the same strand to the same bank is still to be performed (R188). -/
def State.behindOlder (s : State) (a : Access) : Bool :=
  let bs := s.banks a
  s.flight.any fun b => b.sid == a.sid && decide (b.id < a.id) && !b.stage.past && (s.banks b).any bs.contains

/-- The banks of some pieces. -/
def State.banksAt (s : State) (segs : List Seg) : List Nat := (segs.flatMap fun g => banksOf (s.homeFlat g.loc) g.n).eraseDups

/-- A claim covers some of n bytes from a flat address. -/
def State.claimedAt (s : State) (writes : Bool) (a n : Nat) : Bool :=
  (stretches n a n).any fun x => s.claims.any fun c => c.bank == x.1 && (c.write || writes) && decide (x.2.1 ≤ c.hi) && decide (c.lo ≤ x.2.2)

/-- The access meets a claim on its bytes, at its home or where a write is mirrored (R197). -/
def State.claimed (s : State) (writes : Bool) (segs : List Seg) : Bool :=
  segs.any fun g =>
    let a := s.homeFlat g.loc
    s.claimedAt writes a g.n || (writes && (match s.mirrorOf a with
      | some (m, top) => s.claimedAt true (s.flatOf m.new + (a - s.flatOf m.old)) (min g.n (top - a))
      | none => false))

/-- What a write of a piece meets at its home (R472): a word that its scatter writes whole is not read. -/
def State.pieceErr (s : State) (g : Seg) : Option MemErr :=
  let a := s.homeFlat g.loc
  let m := if g.whole then { s.mem with bad := s.mem.bad.filter (· != errUnit a) } else s.mem
  writeErr m s.lostDies (s.homeKey g.loc) g.n a g.data

/-- Write the pieces, or the fault of the first error with the pieces before it written. -/
def State.writeHome (s : State) : List Seg → Except (State × Fail) State
  | [] => .ok s
  | g :: t =>
    let a := s.homeFlat g.loc
    match s.pieceErr g with
    | some e => .error (s, { cause := e.cause, sub := e.sub, addr := g.va.zeroExtend 64 + BitVec.ofNat 64 e.at_ - BitVec.ofNat 64 a })
    | none => (s.putHome g.loc g.data).writeHome t

def State.modAccess (s : State) (id : Nat) (f : Access → Access) : State :=
  { s with flight := s.flight.map fun a => if a.id = id then f a else a }
def State.access? (s : State) (id : Nat) : Option Access := s.flight.find? fun a => a.id == id
def State.setStage (s : State) (id : Nat) (st : Stage) : State := s.modAccess id fun a => { a with stage := st }

/-- Every strand that an access serves: its own, and those of its merge group. -/
def Access.ids (a : Access) : List Nat := a.id :: a.merged

/-- The other elements of a scatter that are still on their way (R445). -/
def State.siblings (s : State) (a : Access) : List Access :=
  if a.group.isNone then [] else s.flight.filter fun b => b.group == a.group && b.id != a.id

def Stage.isPerformed : Stage → Bool
  | .performed .. => true
  | _ => false

/-- STORES falls with an access: with the last element of a scatter (R191, R445). -/
def State.lastStore (s : State) (a : Access) : Bool := (s.siblings a).all fun b => b.stage.isPerformed

/-- An access has been performed: its result stands, and STORES falls (R191). That of a SPAWN or a QPUSH falls with its response (R392, R395). -/
def State.performed (s : State) (id : Nat) (bytes : List Byte) (old : Word) : State :=
  match s.access? id with
  | none => s
  | some a =>
    let s1 := s.setStage id (.performed bytes old)
    if a.op.isLoad || a.op.answersStore || !s.lastStore a then s1 else s1.modCounts a.sid fun c => { c with stores := c.stores - 1 }

/-- An access will not be performed: its issuer takes an asynchronous trap with the response, and so does every contributor of a merge group that it carries (R170, R201, R203, R472). What it had reserved in the log goes back (R474). -/
def State.failAccess (s : State) (id : Nat) (f : Fail) : State :=
  match s.access? id with
  | none => s
  | some a =>
    let s1 := s.modLog a.asid fun l => l.subRsv a.rsv
    { s1 with flight := s1.flight.map fun b =>
      if a.ids.contains b.id then { b with stage := .failed { cause := f.cause, sub := f.sub, fpc := b.pc, addr := f.addr }, rsv := [] } else b }

/-- The contributions of a merge group, in order of arrival (R201): each contributor takes the running value, and the last one is the value written. -/
def runMerge (op : AtomOp) (n : AWidth) (v : Nat) : List (Nat × Nat) → List (Nat × Nat) × Nat
  | [] => ([], v)
  | (id, b) :: t =>
    let (r, last) := runMerge op n ((atomApply op n v b 0).getD v) t
    ((id, v) :: r, last)

/-- The layout of AFADD. -/
def addLayout : AtomOp → FpLayout
  | .fadd32 => fp32
  | _ => fp64

/-- The sums of the first contributions of AFADD, of the first two, and so on: each exact sum is rounded once (R202). -/
def mergeSums (p : FpLayout) (acc : FVal) : List Nat → List Nat
  | [] => []
  | b :: t => p.rne (acc.add (p.val b)) :: mergeSums p (acc.add (p.val b)) t

/-- The operand of an atomic. -/
def AccOp.operand : AccOp → Nat
  | .atomic _ _ b _ => b.toNat
  | _ => 0

/-- The returns of a merge group and the value that the home writes: AFADD adds the sum of the contributions once (R202). -/
def mergeReturns (op : AtomOp) (n : AWidth) (v : Nat) (cs : List (Nat × Nat)) : List (Nat × Nat) × Nat :=
  match op with
  | .fadd32 | .fadd64 =>
    let sums := match cs with | [] => [] | c :: t => c.2 % 2 ^ (8 * aBytes n) :: mergeSums (addLayout op) ((addLayout op).val c.2) (t.map fun (x : Nat × Nat) => x.2)
    let vals := sums.map fun x => (atomApply op n v x 0).getD v
    (List.zip (cs.map fun c => c.1) (v :: vals), vals.getLastD v)
  | _ => runMerge op n v cs

/-- An atomic is performed at its home as one step (R200, R201). -/
def State.performAtomic (s : State) (a : Access) (op : AtomOp) (n : AWidth) (b c : Word) : State :=
  match a.segs with
  | [] => s
  | g :: _ =>
    match s.readSegs [{ g with n := (aBytes n) }] with
    | .error f => s.failAccess a.id f
    | .ok bs =>
      let old := leNat bs
      let write : State → Nat → State := fun s v => s.putHome g.loc ((toLe (aBytes n) v).map some)
      if a.merged.isEmpty then
        let s1 := match atomApply op n old b.toNat c.toNat with
          | some v => write s v
          | none => s
        s1.performed a.id [] (BitVec.ofNat 64 old)
      else
        let cs := a.ids.map fun id => (id, match s.access? id with | some x => x.op.operand | none => 0)
        let r := mergeReturns op n old cs
        r.1.foldl (fun s p => s.performed p.1 [] (BitVec.ofNat 64 p.2)) (write s r.2)

/-! Staging areas (R72). -/

/-- n bytes of a place lie, in part, in a staging area of a context: its level, 2 or 3. -/
def Ctx.stageAt (c : Ctx) (l : Loc) (n : Nat) : Option Nat :=
  match l with
  | .cluster _ off => c.stage2.bind fun b => if off < b + 2 ^ 18 ∧ b < off + n then some 2 else none
  | .chiplet _ off => c.stage3.bind fun b => if off < b + 2 ^ 22 ∧ b < off + n then some 3 else none
  | _ => none

/-- Outstanding tile instructions whose staging area an access touches: their completion numbers. -/
def State.staging (s : State) (a : Access) : List Nat :=
  match s.ctx? a.asid with
  | none => []
  | some c =>
    let ks := a.segs.filterMap fun g => c.stageAt g.loc g.n
    if ks.isEmpty then [] else (s.tiles.filter fun r => r.asid == a.asid && ks.any fun k => decide (k ≤ r.level)).map fun r => r.seq

/-- n free bytes. -/
def State.freeBytes (s : State) : Nat → List Byte × State
  | 0 => ([], s)
  | n + 1 =>
    let (w, s1) := s.free
    let (bs, s2) := s1.freeBytes n
    (w.truncate 8 :: bs, s2)

/-- A store that reaches a staging area spoils the instructions that use it. -/
def State.spoil (s : State) (a : Access) : State :=
  let hit := s.staging a
  if hit.isEmpty then s else { s with tiles := s.tiles.map fun r => if hit.contains r.seq then { r with spoiled := true } else r }

/-- The write of an access is performed. -/
def State.performWrite (s : State) (a : Access) : State :=
  match a.op with
  | .atomic op n b c => (s.spoil a).performAtomic a op n b c
  | _ =>
    match s.writeHome a.segs with
    | .error (s1, f) => s1.failAccess a.id f
    | .ok s1 => (s1.spoil a).performed a.id [] 0

/-- The bank under which a WAITA stands that its table had no room for: only a timeout ends it (R213). -/
def noBank : Nat := 2 ^ 60

/-- The pass latch of a strand. -/
def State.passLatched (s : State) (sid : Nat) : Bool := ((s.strand? sid).map fun x => x.passLatch).getD false

/-- A WAITA reads its word at the home: it completes, spuriously where its strand's pass latch has been set on its way, or its word is watched, 16 words to a bank (R213). -/
def State.performWaita (s : State) (a : Access) (cmp : Word) : State :=
  match s.readSegs a.segs, a.segs with
  | .error f, _ => s.failAccess a.id f
  | .ok bs, g :: _ =>
    if BitVec.ofNat 64 (leNat bs) ≠ cmp then s.performed a.id bs 0
    else if s.passLatched a.sid then ((s.modStrand a.sid fun x => { x with passLatch := false }).performed a.id bs 0).happen a.vcn 0x0C 1
    else
      let ad := s.homeFlat g.loc
      let s1 := s.setStage a.id .watching
      if 16 ≤ (s.watches.filter fun w => w.bank == bankOf ad).length then
        { s1 with watches := s.watches ++ [{ sid := a.sid, bank := noBank, addr := noBank, va := g.va, cmp := cmp, access := a.id }] }
      else { s1 with watches := s.watches ++ [{ sid := a.sid, bank := bankOf ad, addr := ad, va := g.va, cmp := cmp, access := a.id }] }
  | .ok _, [] => s

/-- The banks of pieces at the home that their address names: the old one of a page that migrates (R180). -/
def State.oldBanks (s : State) (segs : List Seg) : List Nat := (segs.flatMap fun g => banksOf (s.flatOf g.loc) g.n).eraseDups

/-- The pieces at whose bank an ARMW is parked. -/
def EngOp.parkedSegs (e : EngOp) : List Seg := if e.parked.isSome && !e.moved then e.moves.map fun m => m.dst else []

/-- Requests parked in the fault queue of a bank (R203). -/
def State.parkedAt (s : State) (b : Nat) : Nat :=
  (s.flight.filter fun a => a.stage == .parked && (s.oldBanks a.segs).contains b).length + (s.engines.filter fun e => (s.oldBanks e.parkedSegs).contains b).length

/-- The fault queue of some bank of the pieces is full. -/
def State.queueFull (s : State) (segs : List Seg) : Bool := (s.oldBanks segs).any fun b => decide (64 ≤ s.parkedAt b)

/-- A block of the pieces is being rewritten after a corrected error (R203). -/
def State.rewriting (s : State) (segs : List Seg) : Bool :=
  segs.any fun g => s.mem.rewrites.any fun u => decide (s.homeFlat g.loc < u + 64) && decide (u < s.homeFlat g.loc + g.n)

/-- An atomic cannot be performed on arrival: its page is in FORWARD, or its block is being rewritten (R203). -/
def State.parks (s : State) (segs : List Seg) : Bool := segs.any (fun g => s.inForward g.loc) || s.rewriting segs

/-- A request is parked at the tail of the fault queue, or refused by a full one (R203). -/
def State.parkAccess (s : State) (a : Access) : State :=
  if s.queueFull a.segs then s.modAccess a.id fun x => { x with stage := .refused, staleAt := s.ptime }
  else { (s.modAccess a.id fun x => { x with stage := .parked, seqNo := s.nextId }) with nextId := s.nextId + 1 }

/-- A request that a fault queue holds, or has sent on and that is still to be performed. -/
def Access.queued (a : Access) : Bool := a.stage == .parked || (a.replayed && (a.stage == .held || a.stage == .logWait))

/-- Two pieces share an 8-byte word at their homes. -/
def State.sameWord (s : State) (g h : Seg) : Bool :=
  decide (s.homeFlat g.loc / 8 ≤ (s.homeFlat h.loc + h.n - 1) / 8) && decide (s.homeFlat h.loc / 8 ≤ (s.homeFlat g.loc + g.n - 1) / 8)

/-- A request of a fault queue names one of the words (R203): any, or one before a place in the order of arrival. -/
def State.parkedBefore (s : State) (place : Option Nat) (segs : List Seg) : Bool :=
  let meets : List Seg → Bool := fun (gs : List Seg) => gs.any fun g => segs.any (s.sameWord g)
  let first : Nat → Bool := fun n => match place with | some k => decide (n < k) | none => true
  (s.flight.any fun b => b.queued && first b.seqNo && meets b.segs) || s.engines.any fun e => (e.parked.map first).getD false && meets e.parkedSegs

def State.behindParked (s : State) (a : Access) : Bool := s.parkedBefore (if a.queued then some a.seqNo else none) a.segs

/-- An access waits at a claim, in its order of arrival (R197). -/
def State.holdAccess (s : State) (a : Access) : State :=
  if a.stage = .held then s
  else { (s.modAccess a.id fun x => { x with stage := .held, seqNo := if x.replayed then x.seqNo else s.nextId }) with nextId := s.nextId + 1 }

/-- A write kind that the home's access needs of the claims. -/
def AccOp.writes : AccOp → Bool
  | .load | .waita _ => false
  | _ => true

/-- What waits at claims, arrivals among it: its place in the order of arrival, whether it writes, its pieces (R197). -/
def State.waiters (s : State) : List (Nat × Bool × List Seg) :=
  ((s.flight.filter fun b => b.stage == .held).map fun b => (b.seqNo, b.op.writes, b.segs)) ++
    (s.engines.filterMap fun e => if e.arrived then none else e.arrSeq.bind fun n => e.arr.map fun x => (n, true, [x.2])) ++
    s.arrivals.filterMap fun x => x.seqNo.map fun n => (n, true, [x.seg])

/-- Accesses that wait at claims are performed in the order in which they arrived, and before what comes after their claims have gone (R197). place: that of one which waits itself. -/
def State.behindWaiters (s : State) (place : Option Nat) (segs : List Seg) : Bool :=
  s.waiters.any fun w => (match place with | some k => decide (w.1 < k) | none => !s.claimed w.2.1 w.2.2) && (s.banksAt w.2.2).any (s.banksAt segs).contains

def State.behindHeld (s : State) (a : Access) : Bool := s.behindWaiters (if a.stage = .held then some a.seqNo else none) a.segs

/-- A network interface sends no message under a new generation of a VCN while one of its own under an older generation is unacknowledged, and none before a refused one has been sent again (R274, R281): the accesses of a core, and the arrivals that its engine operations have sent. -/
def State.genWaits (s : State) (core id : Nat) (gens : List (Nat × BitVec 8)) : Bool :=
  let meets : List (Nat × BitVec 8) → Bool → Bool := fun ps stale => ps.any fun p => gens.any fun q => p.1 == q.1 && (p.2 != q.2 || stale)
  (s.flight.any fun b => b.core == core && decide (b.id < id) && b.stage != .watching && meets b.gens (b.stage == .stale)) ||
    s.engines.any fun e => e.core == core && decide (e.id < id) && !e.arrived && meets e.arrGens e.staleAt.isSome

/-- One that has been forwarded has been sent already. -/
def State.behindGen (s : State) (a : Access) : Bool := !a.fwd && s.genWaits a.core a.id a.gens

/-- The home serves an access that has arrived. What a load of a staging area returns is free; an atomic or a WAITA there takes the bytes as they stand (R72, log 148). -/
def State.serve (s : State) (a : Access) : State :=
  match s.noPlace a with
  | some f => s.failAccess a.id f
  | none =>
    match a.op with
    | .load =>
      if s.claimed false a.segs then s.holdAccess a
      else
        match s.readSegs a.segs with
        | .error f => s.failAccess a.id f
        | .ok bs =>
          if (s.staging a).isEmpty then s.performed a.id bs 0
          else
            let (fs, s1) := s.freeBytes bs.length
            s1.performed a.id fs 0
    | .waita c => if s.claimed false a.segs then s.holdAccess a else s.performWaita a c
    | .store => if s.claimed true a.segs then s.holdAccess a else if a.rsv.isEmpty then s.performWrite a else s.setStage a.id .logWait
    | .atomic .. =>
      if s.parks a.segs ∧ a.stage ≠ .parked then
        s.parkAccess a
      else if s.claimed true a.segs then s.holdAccess a
      else if a.rsv.isEmpty then s.performWrite a
      else s.setStage a.id .logWait
    | _ => s

/-- Two messages name one VCN. -/
def sameVcn (xs ys : List (Nat × BitVec 8)) : Bool := xs.any fun p => ys.any fun q => p.1 == q.1

/-- The messages that shadows hold for the VCNs of stamps, or have still to apply: accesses and arrivals, each with its place (R280, R281). -/
def State.heldFor (s : State) (gens : List (Nat × BitVec 8)) : List Nat :=
  ((s.flight.filter fun b => (b.stage == .forwarded || (b.fwd && b.stage == .issued)) && sameVcn b.gens gens).map fun b => b.seqNo) ++
    ((s.engines.filter fun e => !e.arrived && sameVcn e.arrGens gens).filterMap fun e => e.arrFwd) ++
    ((s.arrivals.filter fun x => sameVcn x.gens gens).filterMap fun x => x.fwd)

/-- Messages that a shadow holds are applied in their order of arrival, and before any other (R280). -/
def State.behindForwarded (s : State) (fwd : Option Nat) (gens : List (Nat × BitVec 8)) : Bool :=
  (s.heldFor gens).any fun n => match fwd with | some k => decide (n < k) | none => true

/-- A place of a device's write is in a cluster whose network interface deposits nothing: it copies to its shadow, or the shadow has still to apply what it holds (R279, R280). The write waits, as one that is forwarded does. -/
def State.depositsLater (s : State) (segs : List Seg) : Bool :=
  segs.any fun g => match g.loc.vcn? with
    | some v => (s.cluster (s.host v)).rot == .copying || s.behindForwarded none [(v, 0)]
    | none => false

/-- D forwards an access to the shadow, which holds it (R279, R281). -/
def State.forwardAccess (s : State) (id : Nat) : State :=
  { (s.modAccess id fun x => { x with stage := .forwarded, seqNo := s.nextId }) with nextId := s.nextId + 1 }

/-- A STALE response: the access has had no effect (R281). -/
def State.staleAccess (s : State) (id : Nat) : State :=
  let t := s.modAccess id fun x => { x with stage := .stale, staleAt := s.ptime }
  match s.access? id with
  | some a => t.happen a.vcn 0x06 1
  | none => t

/-- An access reaches the place that its stamp routes it to (R203, R274, R275, R281, R283). serve: what the home does with it. -/
def State.arriveThen (s : State) (a : Access) (serve : State → Access → State) : State :=
  match s.arrive a with
  | .here => serve s a
  | .stale => s.staleAccess a.id
  | .retry => s
  | .dead => s.failAccess a.id { cause := 0x0D, sub := 0x01, addr := match a.segs with | g :: _ => g.va.zeroExtend 64 | [] => 0 }
  | .forward => if (s.heldFor a.gens).length < 2048 then s.forwardAccess a.id else s.staleAccess a.id

/-- An access may arrive: it is on its way, or waits at a claim that has gone, behind nothing older (R188, R197). -/
def State.mayArrive (s : State) (a : Access) : Bool :=
  (a.stage == .issued || a.stage == .held || (a.stage == .parked && !s.rewriting a.segs && (s.arrive a == .here || s.arrive a == .dead))) && !s.behindOlder a && !s.behindParked a
    && !s.behindHeld a && !s.behindGen a && !s.behindForwarded (if a.fwd then some a.seqNo else none) a.gens

/-! The answer (R191). -/

/-- The counts after an answer; last: whether STORES falls with a store that has failed; ks: the classes that the answer ends (R445). -/
def Counts.answered (c : Counts) (a : Access) (last : Bool) (ks : List Class) : Counts :=
  let c1 := if a.op.isLoad then { c with loads := c.loads - 1 } else ks.foldl Counts.subCls c
  match a.stage with
  | .failed _ => if a.op.isLoad || !last then c1 else { c1 with stores := c1.stores - 1 }
  | _ => if a.op.answersStore then { c1 with stores := c1.stores - 1 } else c1

/-- The classes of an access that no other element of its scatter still has. -/
def State.classesEnding (s : State) (a : Access) : List Class := a.cls.filter fun k => !(s.siblings a).any fun b => b.cls.contains k

/-- Run on another core and come back. -/
def State.onCore (s : State) (core : Nat) (f : State → State) : State := if s.focus = core then f s else (f (s.focusOn core)).focusOn s.focus

/-- The strand that waited at an access goes on after it, or stands at a boundary. -/
def State.ungate (s : State) (id : Nat) (done : Bool) : State :=
  if s.cur.gate = .access id then
    let s1 : State := { s with cur := { s.cur with gate := .none, wait := .none } }
    if done then s1.advance else s1
  else s

/-- A SPAWN or QPUSH is no longer in flight (R56). -/
def State.landed (s : State) (a : Access) : State :=
  match a.op with
  | .spawn .. | .qpush .. =>
    match (s.strand? a.sid).bind fun x => x.kernel with
    | some k => s.modKernel k fun y => { y with inflight := y.inflight - 1 }
    | none => s
  | _ => s

/-- A value or an acknowledgement reaches the core. -/
def State.respond (s : State) (a : Access) : State :=
  let s1 : State := { s with flight := s.flight.filter fun b => b.id != a.id }
  let s2 := (s1.landed a).modCounts a.sid fun c => c.answered a (s.lastStore a) (s.classesEnding a)
  match a.stage with
  | .performed bytes old => s2.onCore a.core fun t => (t.deliverWith a.pc a.dest a.op bytes old).ungate a.id true
  | .failed t => (s2.latchTrap a.sid t).onCore a.core fun u => u.ungate a.id false
  | _ => s

end Sys2Proof.Machine
end

