-- ==== Sys2Proof/Machine/Port.lean ====
section
/-! DEFINITION. Sending over the Shadex ports: packets, flits and the replay buffer (R300 to R302, R305). -/

namespace Sys2Proof.Machine

def State.port (s : State) (p : Nat) : Port := s.ports.getD p {}
def State.setPort (s : State) (p : Nat) (x : Port) : State := { s with ports := s.ports.set p x }

/-- A port that is not down: one that retrains keeps its traffic, so that the order to a peer holds (R303, R305, log 150). -/
def Port.usable (x : Port) : Bool := x.st == 2 || x.st == 3 || (x.st == 1 && x.counted)

/-- The port that carries all traffic to a peer (R305). -/
def State.peerPort (s : State) (peer : Nat) : Option Nat :=
  match s.peers.get? peer with
  | none => none
  | some e => (List.range 16).find? fun p => e.ports / 2 ^ p % 2 == 1 && (s.port p).usable

/-- A packet: its transaction header of 64 bytes, then its data (R301). len: its DLEN, which in a READREQ is what is asked for. -/
def packetBytes (ty status len off arr tag : Nat) (data : List Byte) : List Byte :=
  toLe 1 ty ++ toLe 1 status ++ toLe 2 len ++ [0, 0, 0, 0] ++ toLe 8 off ++ toLe 8 arr ++ toLe 8 tag ++ List.replicate 32 0 ++ data

def packetType (p : List Byte) : Nat := field p 0 1
def packetStatus (p : List Byte) : Nat := field p 1 1
def packetLen (p : List Byte) : Nat := field p 2 2
def packetOff (p : List Byte) : Nat := field p 8 8
def packetArr (p : List Byte) : Nat := field p 16 8
def packetTag (p : List Byte) : Nat := field p 24 8
def packetData (p : List Byte) : List Byte := (p.drop 64).take (packetLen p)

/-- Bytes 4 to 247 of the flits of a packet; first: the next flit is its first. fuel: at least the flits. -/
def flitBodies : Nat → Bool → List Byte → List (List Byte)
  | 0, _, _ => []
  | fuel + 1, first, bs =>
    let last := decide (bs.length ≤ 240)
    (toLe 1 (bit first 2 + bit last 3) ++ [0, 0, 0] ++ bs.take 240 ++ List.replicate (240 - bs.length) 0) ::
      (if last then [] else flitBodies fuel false (bs.drop 240))

/-- A flit as it goes out (R300). -/
def flitBytes (seq ack : Nat) (body : List Byte) : List Byte :=
  let b := toLe 2 seq ++ toLe 2 ack ++ body
  b ++ toLe 8 (Config.crc64 b).toNat

/-- Send what waits while the replay buffer has room (R302). fuel: the flits that wait. -/
def Port.pump (x : Port) : Nat → Port
  | 0 => x
  | n + 1 =>
    match x.pend with
    | [] => x
    | (b, peer) :: t =>
      if x.st ≠ 2 ∨ 2048 ≤ x.replay.length then x
      else Port.pump { x with pend := t, replay := x.replay ++ [(x.txSeq, b, peer)], txSeq := (x.txSeq + 1) % 65536, sent := x.sent ++ [flitBytes x.txSeq x.rxAck b] } n

/-- The flits that wait at a port without the whole WRITE and READREQ packets of an operation, and the offsets of those packets. fuel: the flits. -/
def pullPend : Nat → Nat → List (List Byte × Nat) → List (List Byte × Nat) × List Nat
  | 0, _, fs => (fs, [])
  | _, _, [] => ([], [])
  | fuel + 1, tag, f :: t =>
    let k := ((f :: t).findIdx fun g => field g.1 0 1 / 8 % 2 == 1) + 1
    let r := pullPend fuel tag ((f :: t).drop k)
    let p := f.1.drop 4
    if field f.1 0 1 / 4 % 2 = 1 ∧ packetTag p = tag ∧ (packetType p = 1 ∨ packetType p = 2) then (r.1, packetOff p :: r.2) else ((f :: t).take k ++ r.1, r.2)

/-- Hand a packet to a port. -/
def State.sendOn (s : State) (p peer : Nat) (pkt : List Byte) : State :=
  let x := s.port p
  let y := { x with pend := x.pend ++ (flitBodies 32 true pkt).map fun b => (b, peer) }
  s.setPort p (y.pump y.pend.length)

/-- Send a packet to a peer; none where no port of its mask is up. -/
def State.sendPeer (s : State) (peer : Nat) (pkt : List Byte) : Option State := (s.peerPort peer).map fun p => s.sendOn p peer pkt

end Sys2Proof.Machine
end

