-- ==== Sys2Proof/Machine/Flags.lean ====
section
/-! DEFINITION. The compare, class and lane masks that stand where other machines keep flags (R88, R358, R439): no register of flags exists, and each mask goes to a general register. -/

namespace Sys2Proof.Machine

/-- The compare mask of FCMP: one bit of [3:0] (R358). -/
def Rel.mask : Rel → Nat
  | .lt => 1 | .eq => 2 | .gt => 4 | .un => 8

/-- The class mask of FCLASS (R358). -/
def classMask (p : FpLayout) (bits : Nat) : Nat :=
  let m := bits % 2 ^ p.mb
  let e := bits / 2 ^ p.mb % 2 ^ p.eb
  let s := bits / 2 ^ (p.mb + p.eb) % 2 == 1
  if e = 2 ^ p.eb - 1 then
    (if m = 0 then (if s then 2 ^ 0 else 2 ^ 7) else if m < 2 ^ (p.mb - 1) then 2 ^ 8 else 2 ^ 9)
  else if e = 0 then
    (if m = 0 then (if s then 2 ^ 3 else 2 ^ 4) else if s then 2 ^ 2 else 2 ^ 5)
  else if s then 2 ^ 1 else 2 ^ 6

/-- The relation of two elements of a row (R439). -/
def elemRel (f : Fmt) (a b : Nat) : Rel := (elemVal f 0 a).rel (elemVal f 0 b)

/-- The relation is in the condition set sA[3:0] (R439). -/
def Rel.inSet (r : Rel) (set : Word) : Bool := set.toNat / r.mask % 2 == 1

/-- The lane mask of a row of truths (R439): bit j when every slot that it governs is true. -/
def laneMask (e : Nat) (ts : List Bool) : Word :=
  BitVec.ofNat 64 ((List.range 64).foldl (fun acc j => if ((ts.drop (j * e / 64)).take (e / 64)).all id then acc + 2 ^ j else acc) 0)

end Sys2Proof.Machine
end

