-- ==== Sys2Proof/Machine/Float.lean ====
section
/-! DEFINITION. Scalar floating point (R357 to R359): no trap, canonical NaNs, one rounding. -/

namespace Sys2Proof.Machine

/-- The value of a register in a precision: the bits above are ignored (R86). -/
def fpVal (p : Prec) (w : Word) : FVal := (precLayout p).val (w.toNat % 2 ^ (precLayout p).width)

/-- A narrow result clears the bits above it (R86). -/
def fpWord (p : Prec) (v : FVal) : Word := BitVec.ofNat 64 ((precLayout p).rne v)

def State.fp2 (s : State) (p : Prec) (f : FVal → FVal → FVal) (d a b : Reg) : Out :=
  .next (s.result d (fpWord p (f (fpVal p (s.reg a)) (fpVal p (s.reg b)))))

def execFadd (p : Prec) (d a b : Reg) (s : State) : Out := s.fp2 p FVal.add d a b
def execFsub (p : Prec) (d a b : Reg) (s : State) : Out := s.fp2 p (fun x y => x.add y.neg) d a b
def execFmul (p : Prec) (d a b : Reg) (s : State) : Out := s.fp2 p FVal.mul d a b
def execFdiv (p : Prec) (d a b : Reg) (s : State) : Out := s.fp2 p FVal.div d a b
def execFmin (p : Prec) (d a b : Reg) (s : State) : Out := s.fp2 p FVal.fmin d a b
def execFmax (p : Prec) (d a b : Reg) (s : State) : Out := s.fp2 p FVal.fmax d a b
def execFfma (p : Prec) (d a b c : Reg) (s : State) : Out :=
  .next (s.result d (fpWord p (((fpVal p (s.reg a)).mul (fpVal p (s.reg b))).add (fpVal p (s.reg c)))))
def execFsqrt (p : Prec) (d a : Reg) (s : State) : Out := .next (s.result d (fpWord p (fpVal p (s.reg a)).sqrt))
def execFcmp (p : Prec) (d a b : Reg) (s : State) : Out :=
  .next (s.result d (BitVec.ofNat 64 ((fpVal p (s.reg a)).rel (fpVal p (s.reg b))).mask))
def execFclass (p : Prec) (d a : Reg) (s : State) : Out :=
  .next (s.result d (BitVec.ofNat 64 (classMask (precLayout p) ((s.reg a).toNat % 2 ^ (precLayout p).width))))

/-- FSGN works on bits and keeps subnormals (R358). -/
def fsgnBits (p : Prec) (m : SgnMode) (a b : Word) : Word :=
  let l := precLayout p
  let sign : Word → Nat := fun w => w.toNat / 2 ^ (l.eb + l.mb) % 2
  let mag := a.toNat % 2 ^ (l.eb + l.mb)
  let sg := match m with
    | .copy => sign b | .invert => 1 - sign b | .xor => (sign a + sign b) % 2
  if fpVal p a = .nan then BitVec.ofNat 64 l.nan else BitVec.ofNat 64 (sg * 2 ^ (l.eb + l.mb) + mag)

def execFsgn (p : Prec) (m : SgnMode) (d a b : Reg) (s : State) : Out := .next (s.result d (fsgnBits p m (s.reg a) (s.reg b)))

/-- FCVT to a floating-point precision (R359). -/
def cvtVal (src : CvtSrc) (w : Word) : FVal :=
  match src with
  | .fp p => fpVal p w | .sint => FVal.ofInt w.toInt | .uint => FVal.ofInt w.toNat

def execFcvt (p : Prec) (src : CvtSrc) (d a : Reg) (s : State) : Out := .next (s.result d (fpWord p (cvtVal src (s.reg a))))
def execFcvtSint (src : Prec) (d a : Reg) (s : State) : Out :=
  .next (s.result d (BitVec.ofInt 64 (toIntVal .rtz true 64 (fpVal src (s.reg a)))))
def execFcvtUint (src : Prec) (d a : Reg) (s : State) : Out :=
  .next (s.result d (BitVec.ofInt 64 (toIntVal .rtz false 64 (fpVal src (s.reg a)))))

end Sys2Proof.Machine
end

