-- ==== Sys2Proof/Machine/Row.lean ====
section
/-! DEFINITION. Row operations of major 0x28 (R426 to R429, R433 to R443, R446, R450 to R454). They take effect in program order when they issue; the vector queue keeps only their occupancy (log 19). -/

namespace Sys2Proof.Machine

/-! The vector queue (R428). -/

/-- The entry of a row operation in the vector queue: its clocks, its residue check, the rows that it reads and writes (R249, R285). -/
def rowEntry (i : Instr) (clocks : Nat) (pc : BitVec 56) : VqEntry := { clocks := clocks, check := some pc, reads := readRows i, writes := resultRows i }

/-- A place in the vector queue for a row operation, or a stall while it is full. -/
def State.inQueue (s : State) (i : Instr) (clocks : Nat) (go : State → Out) : Out :=
  if 8 ≤ s.cur.vq.length then .next (s.waiting .stall)
  else go { s with cur := { s.cur with vq := s.cur.vq ++ [rowEntry i clocks s.cur.pc] } }

/-- Some bytes of a row are written, and MEMERR UNCORR is due for a word that they cannot be merged into (R472). -/
def State.putSome (s : State) (transient : Bool) (r : RowId) (x : Row) (wrote : Nat → Bool) : State :=
  match s.lostAt transient r wrote with
  | some ad => (s.putRow transient r x wrote).asyncHere 0x0D 0x01 ad
  | none => s.putRow transient r x wrote

/-- A row operation that writes a row: new elements of width w, merged under the mask C (R88, R427). -/
def State.rowOp (s : State) (i : Instr) (clocks : Nat) (x : Bool) (c : Reg) (w : Nat) (rd : RowId) (f : State → List Nat) : Out :=
  if 8 ≤ s.cur.vq.length then .next (s.waiting .stall)
  else s.withSlot fun t => t.inQueue i clocks fun u => .next (u.setRow x rd (mergeRow c (s.reg c) w (u.row rd) (f u))).advance

/-! Element arithmetic (R429, R433). -/

def elemInt (f : Fmt) (bits : Nat) : Int := if f.isSigned then sextInt f.bits bits else (bits % 2 ^ f.bits : Nat)

def divInt (a b : Int) : Int := if b = 0 then -1 else a.tdiv b

/-- The arithmetic of R433. -/
inductive RowArith where
  | add | sub | mul | fma | div | min | max | abs | sgn
  deriving DecidableEq, Repr

def RowArith.clocks : RowArith → Nat
  | .div => 16
  | _ => 4

def FVal.abs : FVal → FVal
  | .nan => .nan | .inf _ => .inf false | .num _ m e => .num false m e

/-- One element: a, b and the old d, in the bits of the format. -/
def arithElem (op : RowArith) (f : Fmt) (a b d : Nat) : Nat :=
  match fmtLayout f with
  | some p =>
    let x := p.val a
    let y := p.val b
    match op with
    | .add => p.rne (x.add y)
    | .sub => p.rne (x.add y.neg)
    | .mul => p.rne (x.mul y)
    | .fma => p.rne ((x.mul y).add (p.val d))
    | .div => p.rne (x.div y)
    | .min => p.rne (x.fmin y)
    | .max => p.rne (x.fmax y)
    | .abs => p.rne x.abs
    | .sgn => if x = .nan then p.nan else a % 2 ^ (p.eb + p.mb) + b / 2 ^ (p.eb + p.mb) % 2 * 2 ^ (p.eb + p.mb)
  | none =>
    let x := elemInt f a
    let y := elemInt f b
    intBits f.bits (match op with
      | .add => x + y
      | .sub => x - y
      | .mul => x * y
      | .fma => x * y + elemInt f d
      | .div => divInt x y
      | .min => min x y
      | .max => max x y
      | .abs => if x < 0 then -x else x
      | .sgn => let m := if x < 0 then -x else x; if y < 0 then -m else m)

/-- Elements of three rows, one by one. -/
def zip3 (g : Nat → Nat → Nat → Nat) (a b d : List Nat) : List Nat := List.zipWith (fun p z => g p.1 p.2 z) (List.zip a b) d

def State.rowArith (s : State) (i : Instr) (op : RowArith) (x : Bool) (f : Fmt) (c : Reg) (rd ra rb : RowId) : Out :=
  s.rowOp i op.clocks x c f.bits rd fun t =>
    zip3 (arithElem op f) (rowElems (t.row ra) f.bits) (rowElems (t.row rb) f.bits) (rowElems (t.row rd) f.bits)

def execVadd (x : Bool) (f : Fmt) (c : Reg) (rd ra rb : RowId) (s : State) : Out := s.rowArith (.vadd x f c rd ra rb) .add x f c rd ra rb
def execVsub (x : Bool) (f : Fmt) (c : Reg) (rd ra rb : RowId) (s : State) : Out := s.rowArith (.vsub x f c rd ra rb) .sub x f c rd ra rb
def execVmul (x : Bool) (f : Fmt) (c : Reg) (rd ra rb : RowId) (s : State) : Out := s.rowArith (.vmul x f c rd ra rb) .mul x f c rd ra rb
def execVfma (x : Bool) (f : Fmt) (c : Reg) (rd ra rb : RowId) (s : State) : Out := s.rowArith (.vfma x f c rd ra rb) .fma x f c rd ra rb
def execVdiv (x : Bool) (f : Fmt) (c : Reg) (rd ra rb : RowId) (s : State) : Out := s.rowArith (.vdiv x f c rd ra rb) .div x f c rd ra rb
def execVmin (x : Bool) (f : Fmt) (c : Reg) (rd ra rb : RowId) (s : State) : Out := s.rowArith (.vmin x f c rd ra rb) .min x f c rd ra rb
def execVmax (x : Bool) (f : Fmt) (c : Reg) (rd ra rb : RowId) (s : State) : Out := s.rowArith (.vmax x f c rd ra rb) .max x f c rd ra rb
def execVabs (x : Bool) (f : Fmt) (c : Reg) (rd ra : RowId) (s : State) : Out := s.rowArith (.vabs x f c rd ra) .abs x f c rd ra ra
def execVsgn (x : Bool) (f : Fmt) (c : Reg) (rd ra rb : RowId) (s : State) : Out := s.rowArith (.vsgn x f c rd ra rb) .sgn x f c rd ra rb

/-! Bits and shifts (R435, R454). -/

def State.rowBits (s : State) (i : Instr) (g : Nat → Nat → Nat) (x : Bool) (f : Fmt) (c : Reg) (rd ra rb : RowId) : Out :=
  s.rowOp i 4 x c f.bits rd fun t => List.zipWith g (rowElems (t.row ra) f.bits) (rowElems (t.row rb) f.bits)

def execVand (x : Bool) (f : Fmt) (c : Reg) (rd ra rb : RowId) (s : State) : Out := s.rowBits (.vand x f c rd ra rb) (· &&& ·) x f c rd ra rb
def execVor (x : Bool) (f : Fmt) (c : Reg) (rd ra rb : RowId) (s : State) : Out := s.rowBits (.vor x f c rd ra rb) (· ||| ·) x f c rd ra rb
def execVxor (x : Bool) (f : Fmt) (c : Reg) (rd ra rb : RowId) (s : State) : Out := s.rowBits (.vxor x f c rd ra rb) (· ^^^ ·) x f c rd ra rb

inductive RowShift where
  | shl | shr | sha
  deriving DecidableEq, Repr

def shiftElem (k : RowShift) (w a c : Nat) : Nat :=
  match k with
  | .shl => if c < w then a * 2 ^ c % 2 ^ w else 0
  | .shr => if c < w then a / 2 ^ c else 0
  | .sha => intBits w (sextInt w a / (2 ^ min c w : Nat))

/-- The count is an element of RB, or the whole of sA (R454). -/
def State.rowShift (s : State) (i : Instr) (k : RowShift) (x : Bool) (f : Fmt) (a c : Reg) (rd ra rb : RowId) : Out :=
  s.rowOp i 4 x c f.bits rd fun t =>
    if a = 0 then List.zipWith (shiftElem k f.bits) (rowElems (t.row ra) f.bits) (rowElems (t.row rb) f.bits)
    else (rowElems (t.row ra) f.bits).map fun e => shiftElem k f.bits e (min (s.reg a).toNat 64)

def execVshl (x : Bool) (f : Fmt) (a c : Reg) (rd ra rb : RowId) (s : State) : Out := s.rowShift (.vshl x f a c rd ra rb) .shl x f a c rd ra rb
def execVshr (x : Bool) (f : Fmt) (a c : Reg) (rd ra rb : RowId) (s : State) : Out := s.rowShift (.vshr x f a c rd ra rb) .shr x f a c rd ra rb
def execVsha (x : Bool) (f : Fmt) (a c : Reg) (rd ra rb : RowId) (s : State) : Out := s.rowShift (.vsha x f a c rd ra rb) .sha x f a c rd ra rb

/-! Compare and select (R439, R453). -/

def execVcmp (x : Bool) (f : Fmt) (a c : Reg) (rd ra rb : RowId) (s : State) : Out :=
  let w := f.bits
  let e := perRow w
  if 8 ≤ s.cur.vq.length then .next (s.waiting .stall)
  else s.withSlot fun t => t.inQueue (.vcmp x f a c rd ra rb) 4 fun u =>
    let set := s.reg a
    let hit := List.zipWith (fun p q => (elemRel f p q).inSet set) (rowElems (u.row ra) w) (rowElems (u.row rb) w)
    let new := hit.map fun h => if h then 2 ^ w - 1 else 0
    let truths := hit.mapIdx fun i h => h && active c (s.reg c) e i
    .next ((u.setRow x rd (mergeRow c (s.reg c) w (u.row rd) new)).answer a (laneMask e truths))

/-- Here C is the selector (R453). -/
def execVsel (x : Bool) (f : Fmt) (c : Reg) (rd ra rb : RowId) (s : State) : Out :=
  let w := f.bits
  s.rowOp (.vsel x f c rd ra rb) 4 x 0 w rd fun t =>
    List.zipWith (fun (p : Nat × Nat) b => if active c (s.reg c) (perRow w) p.2 then p.1 else b) (rowElems (t.row ra) w).zipIdx (rowElems (t.row rb) w)

/-! Conversions and quantisation (R437, R438, R440, R441). -/

def elemsIn (f : Fmt) : Nat := 48 * blocksOf f.bits

/-- Put the first n slots of a row, keeping the others or writing them zero. -/
def putSlots (w : Nat) (old : Row) (new : List Nat) (zeroRest : Bool) : Row :=
  rowOf w ((rowElems old w).mapIdx fun i o => if i < new.length then new.getD i 0 else if zeroRest then 0 else o)

/-- Element i of VCVT: its value, then its bits in the destination. -/
def cvtElem (df sf : Fmt) (r : Rcw) (scales : Word) (i bits : Nat) : Nat :=
  let x := scaleByte scales (i / 48)
  let v := elemVal sf x bits
  if df.hasScale then quantElem df r i x v else convElem df r i v

def execVcvt (x : Bool) (df sf : Fmt) (a c : Reg) (rd ra : RowId) (s : State) : Out :=
  match rcwOf (s.reg a) with
  | none => .next (s.raise 0x01 0x0A)
  | some r =>
    if 8 ≤ s.cur.vq.length then .next (s.waiting .stall)
    else s.withSlot fun t => t.inQueue (.vcvt x df sf a c rd ra) 4 fun u =>
      let scaled := df.hasScale || sf.hasScale
      let wide := max df.bits sf.bits
      let n := if scaled then 48 * blocksOf wide else perRow wide
      let new := (List.range n).map fun i => cvtElem df sf r (s.reg c) i (rowElem (u.row ra) sf.bits i)
      let old := u.row rd
      let kept := if scaled then new else new.mapIdx fun i e => if active c (s.reg c) (perRow df.bits) i then e else rowElem old df.bits i
      .next (u.putSome x rd (putSlots df.bits old kept df.hasScale) (fun i => df.hasScale || decide (8 * i < n * df.bits))).advance

def execVbfpd (x : Bool) (df sf : Fmt) (a c : Reg) (rd ra : RowId) (s : State) : Out :=
  if 8 ≤ s.cur.vq.length then .next (s.waiting .stall)
  else s.withSlot fun t => t.inQueue (.vbfpd x df sf a c rd ra) 8 fun u =>
    let n := 48 * blocksOf (max df.bits sf.bits)
    let k := ((s.reg a).extractLsb' 0 16).toInt
    let new := (List.range n).map fun i => convElem df (rcwRne true) i ((elemVal sf (scaleByte (s.reg c) (i / 48)) (rowElem (u.row ra) sf.bits i)).scale k)
    .next (u.putSome x rd (putSlots df.bits (u.row rd) new false) (fun i => decide (8 * i < n * df.bits))).advance

def execVbfpq (x : Bool) (df sf : Fmt) (a c : Reg) (rd ra : RowId) (s : State) : Out :=
  match rcwOf (s.reg a) with
  | none => .next (s.raise 0x01 0x0A)
  | some r =>
    if 8 ≤ s.cur.vq.length then .next (s.waiting .stall)
    else s.withSlot fun t => t.inQueue (.vbfpq x df sf a c rd ra) 8 fun u =>
      let blocks := (List.range (blocksOf sf.bits)).map fun b =>
        requantise df r (48 * b) ((List.range 48).map fun j => elemVal sf 0 (rowElem (u.row ra) sf.bits (48 * b + j)))
      let scales := elemsNat 8 (blocks.map fun b => b.1)
      .next ((u.setRow x rd (putSlots df.bits (u.row rd) (blocks.flatMap fun b => b.2) true)).answer c (BitVec.ofNat 64 scales))

/-! Functions (R442). -/

def State.rowFun (s : State) (i : Instr) (g : FVal → FVal) (x : Bool) (f : Fmt) (c : Reg) (rd ra : RowId) : Out :=
  s.rowOp i 16 x c f.bits rd fun t => (rowElems (t.row ra) f.bits).map fun e => convElem f (rcwRne true) 0 (g (elemVal f 0 e))

def execVrcp (x : Bool) (f : Fmt) (c : Reg) (rd ra : RowId) (s : State) : Out := s.rowFun (.vrcp x f c rd ra) FVal.rcp x f c rd ra
def execVrsq (x : Bool) (f : Fmt) (c : Reg) (rd ra : RowId) (s : State) : Out := s.rowFun (.vrsq x f c rd ra) FVal.rsqrt x f c rd ra
def execVexp2 (x : Bool) (f : Fmt) (c : Reg) (rd ra : RowId) (s : State) : Out := s.rowFun (.vexp2 x f c rd ra) FVal.exp2 x f c rd ra
def execVlog2 (x : Bool) (f : Fmt) (c : Reg) (rd ra : RowId) (s : State) : Out := s.rowFun (.vlog2 x f c rd ra) FVal.log2 x f c rd ra

/-! Reductions and scan (R451, R452). -/

/-- The active elements of a row. -/
def activeElems (f : Fmt) (c : Reg) (mask : Word) (r : Row) : List Nat :=
  ((rowElems r f.bits).zipIdx.filter fun p => active c mask (perRow f.bits) p.2).map fun p => p.1

/-- An integer element or sum in a register. -/
def wordOfInt (i : Int) : Word := BitVec.ofInt 64 i

inductive RowRed where
  | sum | max | min
  deriving DecidableEq, Repr

/-- The scalar of R451. -/
def reduce (op : RowRed) (f : Fmt) (es : List Nat) : Word :=
  match fmtLayout f with
  | some p =>
    let vs := es.map p.val
    BitVec.ofNat 64 (p.rne (match op with
      | .sum => FVal.sum vs
      | .max => match vs with | [] => .inf true | v :: t => t.foldl FVal.fmax v
      | .min => match vs with | [] => .inf false | v :: t => t.foldl FVal.fmin v))
  | none =>
    let vs := es.map (elemInt f)
    wordOfInt (match op with
      | .sum => vs.foldl (· + ·) 0
      | .max => vs.foldl max (intLo f.isSigned f.bits)
      | .min => vs.foldl min (intHi f.isSigned f.bits))

def State.rowReduce (s : State) (i : Instr) (op : RowRed) (f : Fmt) (a c : Reg) (ra : RowId) : Out :=
  s.inQueue i 8 fun t => .next (t.answer a (reduce op f (activeElems f c (s.reg c) (t.row ra))))

def execVrsum (f : Fmt) (a c : Reg) (ra : RowId) (s : State) : Out := s.rowReduce (.vrsum f a c ra) .sum f a c ra
def execVrmax (f : Fmt) (a c : Reg) (ra : RowId) (s : State) : Out := s.rowReduce (.vrmax f a c ra) .max f a c ra
def execVrmin (f : Fmt) (a c : Reg) (ra : RowId) (s : State) : Out := s.rowReduce (.vrmin f a c ra) .min f a c ra

/-- Prefixes of a float row, each the exact prefix rounded once (R452). carry: the sum so far, none where nothing has been added: without a carry-in a prefix is what VRSUM gives for its slots, a zero with its sign (log 11). -/
def scanFloat (p : FpLayout) (carry : Option FVal) : List (Nat × Bool) → List Nat
  | [] => []
  | (e, on) :: t =>
    let v := if on then some (match carry with | some c => c.add (p.val e) | none => p.val e) else carry
    p.rne (v.getD (FVal.sum [])) :: scanFloat p v t
def scanInt (w : Nat) (carry : Nat) : List (Nat × Bool) → List Nat
  | [] => []
  | (e, on) :: t =>
    let v := if on then (carry + e) % 2 ^ w else carry
    v :: scanInt w v t

def execVscan (x : Bool) (f : Fmt) (a c : Reg) (rd ra : RowId) (s : State) : Out :=
  let w := f.bits
  let low := (s.reg a).toNat % 2 ^ w
  s.rowOp (.vscan x f a c rd ra) 8 x c w rd fun t =>
    let es := (rowElems (t.row ra) w).zipIdx.map fun p => (p.1, active c (s.reg c) (perRow w) p.2)
    match fmtLayout f with
    | some p => scanFloat p (if a = 0 then none else some (p.val low)) es
    | none => scanInt w low es

/-! Moving elements (R436, R443, R446, R450). -/

def execVperm (x : Bool) (f : Fmt) (c : Reg) (rd ra rb : RowId) (s : State) : Out :=
  let w := f.bits
  s.rowOp (.vperm x f c rd ra rb) 8 x c w rd fun t => (rowElems (t.row rb) w).map fun i => if i < perRow w then rowElem (t.row ra) w i else 0
def execVbcast (x : Bool) (f : Fmt) (a c : Reg) (rd : RowId) (s : State) : Out :=
  let w := f.bits
  s.rowOp (.vbcast x f a c rd) 4 x c w rd fun _ => List.replicate (perRow w) ((s.reg a).toNat % 2 ^ w)
def execVext (x : Bool) (f : Fmt) (a c : Reg) (rd ra rb : RowId) (s : State) : Out :=
  let w := f.bits
  let e := perRow w
  let k := (s.reg a).toNat
  s.rowOp (.vext x f a c rd ra rb) 8 x c w rd fun t => (List.range e).map fun i =>
    if i + k < e then rowElem (t.row ra) w (i + k) else if i + k < 2 * e then rowElem (t.row rb) w (i + k - e) else 0
def execViota (x : Bool) (f : Fmt) (a c : Reg) (rd : RowId) (s : State) : Out :=
  let w := f.bits
  s.rowOp (.viota x f a c rd) 4 x c w rd fun _ => (List.range (perRow w)).map fun i => ((s.reg a).toNat + i) % 2 ^ w

end Sys2Proof.Machine
end

