-- ==== Sys2Proof/Machine/Engine.lean ====
section
/-! DEFINITION. Engines: GET, PUT, TCPY, TCPYA, ARMW, their plans and claims, and the events that move, arrive and complete (R93, R173 to R176, R196 to R199, R211, R212, R294, R341 to R344, R362 to R366, R385 to R388, R409 to R412). -/

namespace Sys2Proof.Machine

/-! Places and checks. -/

/-- What a side of a copy may name (R169, R364, R386, R410). -/
inductive EngSide where
  | scratch | outside | panel
  deriving DecidableEq, Repr

def EngSide.admits : EngSide → Loc → Bool
  | .scratch, .core .. | .scratch, .cluster .. | .scratch, .chiplet .. => true
  | .outside, .hbm .. | .outside, .host _ | .outside, .peer .. => true
  | .panel, .core .. | .panel, .cluster .. | .panel, .chiplet .. | .panel, .hbm .. => true
  | _, _ => false

/-- What a place refuses to an engine: ACCESS or MEMERR (R93, R169, R170, R305). -/
def State.engRefuses (s : State) (l : Loc) : Option (Nat × Nat) :=
  match l with
  | .core v .. => if (s.entryAt s.pcn v).valid then none else some (0x03, 0x07)
  | .cluster v _ => if (s.entryAt s.pcn v).valid then none else some (0x03, 0x07)
  | .chiplet c _ => if s.chipAbsent c then some (0x03, 0x09) else none
  | .hbm .. => if (s.homeKey l).isSome then none else some (0x03, 0x08)
  | .peer i _ => if (s.peers.get? i).isNone then some (0x03, 0x02) else if (s.peerPort i).isNone then some (0x0D, 0x01) else none
  | _ => none

/-- A range of an engine that meets the slot area or the window is refused at the instruction's PC (R93, R101). -/
def refusedAtPc (l : Loc) (n : Nat) : Option Nat :=
  match l with
  | .window _ => some 0x02
  | m => if m.inSlots n then some 0x04 else none

/-- Checks 1 to 5 of R332 for n bytes that lie in one page: an address outside the space, then its alignment (R175). -/
def State.engPlace (s : State) (side : EngSide) (need : Need) (a : Int) (n al : Nat) : Except Fail Loc :=
  let ad := BitVec.ofInt 64 a
  if a < 0 ∨ (2 ^ 56 : Nat) ≤ a then .error { cause := 0x03, sub := 0x05, addr := ad }
  else if a.toNat % al ≠ 0 then .error { cause := 0x03, sub := 0x01, addr := ad }
  else if 2 ^ 56 < n + a.toNat then .error { cause := 0x03, sub := 0x05, addr := ad }
  else
    match s.xlate (.chiplet s.chipHere) s.asid s.vcn s.pos need a.toNat with
    | .error f => .error f
    | .ok l =>
      match refusedAtPc l n with
      | some k => .error { cause := 0x03, sub := k, addr := ad, precise := true }
      | none =>
      if !side.admits l then .error { cause := 0x03, sub := 0x02, addr := ad }
      else match s.engRefuses l with
        | some (c, k) => .error { cause := c, sub := k, addr := ad }
        | none => .ok l

def subFaultOf (vcn : Nat) (f : Fail) : SubFault :=
  { cause := f.cause, sub := f.sub, level := 0, resumable := false, addr := f.addr, vcn := vcn }

/-! Plans. -/

/-- A stretch that a copy is asked to move: source, none where FILL is read; destination, none where nothing is written. -/
structure Want where
  src : Option Int
  dst : Option Int
  n : Nat
  al : Nat := 1
  deriving DecidableEq, Repr

/-- What an engine will do: moves, the places that it claims, and the faults it has met, each under a key that keeps one fault of a page. hbm, far: the destination includes HBM, or host memory or a peer window, whether its check has passed or not (R225, R227). -/
structure Plan where
  moves : List EMove := []
  claims : List (Bool × Loc × Nat) := []
  fails : List (Nat × Fail) := []
  hbm : Bool := false
  far : Bool := false
  deriving DecidableEq, Repr

def Plan.fail (p : Plan) (key : Nat) (f : Fail) : Plan :=
  if p.fails.any fun e => e.1 == key then p else { p with fails := p.fails ++ [(key, f)] }

/-- The page of an address, whatever its rights. -/
def State.pageOf (s : State) (a : Int) : Option Page :=
  if a < 0 ∨ (2 ^ 56 : Nat) ≤ a then none
  else (s.ctx? s.asid).bind fun c => match s.page (.chiplet s.chipHere) s.asid c a.toNat with
    | .ok p => some p
    | .error _ => none

/-- The peer that the page of an address names (R386). -/
def State.peerNamed (s : State) (a : Int) : Option Nat :=
  (s.pageOf a).bind fun p => match placeOf p a.toNat s.vcn s.pos with | .peer i _ => some i | _ => none

/-- The key of a fault: per page and side, 64 KiB where no page is found, or none shared (R365, R412). -/
def State.faultKey (s : State) (p : Plan) (perPage : Bool) (side : Nat) (a : Int) : Nat :=
  if perPage then 2 * (((s.pageOf a).map fun g => g.base).getD (a.toNat / 2 ^ 16 * 2 ^ 16)) + side else 2 ^ 60 + p.fails.length

/-- Add a stretch to a plan. peer: the only peer that a destination may name (R386). -/
def State.plan (s : State) (ss ds : EngSide) (perPage : Bool) (fill : List Byte) (peer : Option Nat) (p : Plan) (w : Want) : Plan :=
  let (src, p1) : Option (Option Loc) × Plan :=
    match w.src with
    | none => (some none, p)
    | some a =>
      match s.engPlace ss .rd a w.n w.al with
      | .ok l => (some (some l), { p with claims := p.claims ++ [(false, l, w.n)] })
      | .error f => (none, p.fail (s.faultKey p perPage 0 a) f)
  match w.dst with
  | none => p1
  | some a =>
    let t := (s.pageOf a).map fun p => bitsOf p.leaf 11 8
    let p1 := { p1 with hbm := p1.hbm || t == some 0x8, far := p1.far || t == some 0x9 || t == some 0xA }
    match s.engPlace ds .wr a w.n w.al with
    | .error f => p1.fail (s.faultKey p1 perPage 1 a) f
    | .ok l =>
      if (match l, peer with | .peer i _, some j => i != j | _, _ => false) then
        p1.fail (s.faultKey p1 perPage 1 a) { cause := 0x03, sub := 0x02, addr := BitVec.ofInt 64 a }
      else
        let p2 := { p1 with claims := p1.claims ++ [(true, l, w.n)] }
        match src with
        | none => p2
        | some o =>
          { p2 with moves := p2.moves ++
              [{ sva := (w.src.getD 0).toNat, src := o, fill := fill, dst := { va := BitVec.ofInt 56 a, loc := l, n := w.n } }] }

/-- Cut a range at the pages of both sides. fuel: at least the pieces. -/
def copyPieces : Nat → Nat → Nat → Nat → List Want
  | 0, _, _, _ => []
  | fuel + 1, a, d, n =>
    if n = 0 then []
    else
      let k := min n (min (2 ^ 16 - a % 2 ^ 16) (2 ^ 16 - d % 2 ^ 16))
      { src := some a, dst := some d, n := k } :: copyPieces fuel (a + k) (d + k) (n - k)

/-! Logged parts, claims, issue. -/

/-- The logged parts of an engine's write (R217, R222): in the own core's scratchpad, blocks of 256 bytes (log 21). -/
def State.engineParts (s : State) (mode : Nat) (g : Seg) : List Part :=
  if loggedAt mode g.loc then
    let a := s.flatOf g.loc
    let ps := match g.loc with
      | .core _ _ _ true => cutParts 256 g.n a g.n
      | _ => logParts false a g.n
    ps.map fun p => partAt g a p.1 p.2
  else []

/-- The claims of a stretch: bank, lowest and highest byte. Host memory and peers hold none. -/
def State.claimStretches (s : State) (l : Loc) (n : Nat) : List (Nat × Nat × Nat) :=
  match l with
  | .core .. | .cluster .. | .chiplet .. | .hbm .. => stretches n (s.homeFlat l) n
  | _ => []

/-- One entry of a hold table per operation, bank and kind (R197). -/
def addClaim (owner : Nat) (tile write : Bool) (cs : List Claim) (x : Nat × Nat × Nat) : List Claim :=
  if cs.any fun c => c.bank == x.1 && c.write == write then
    cs.map fun c => if c.bank = x.1 ∧ c.write = write then { c with lo := min c.lo x.2.1, hi := max c.hi x.2.2 } else c
  else cs ++ [{ owner := owner, tile := tile, write := write, bank := x.1, lo := x.2.1, hi := x.2.2 }]

def State.claimsFor (s : State) (owner : Nat) (tile : Bool) (ps : List (Bool × Loc × Nat)) : List Claim :=
  ps.foldl (fun cs p => (s.claimStretches p.2.1 p.2.2).foldl (addClaim owner tile p.1) cs) []

/-- Claim requests that name a VCN wait (R274, R281): the router's stamp is stale, so that the request is sent again, or an older message of the core under another stamp is not acknowledged. -/
def State.claimsStale (s : State) (ps : List (Bool × Loc × Nat)) : Bool :=
  ps.any fun p => match p.2.1.vcn? with
    | some v =>
      let g := (s.entryAt s.pcn v).gen
      s.arriveAt v g == .stale || s.arriveAt v g == .retry || s.genWaits s.focus s.nextId [(v, g)]
    | none => false

/-- Some bank has no room for its claims (R198), a cluster drains (R279), or a shadow has still to apply what it holds (R280), or a page is being copied to another home (R180), or the stamps are stale. -/
def State.claimsWait (s : State) (cs : List Claim) (ps : List (Bool × Loc × Nat)) : Bool :=
  cs.any (fun c => decide (32 < (s.claims.filter fun d => d.bank == c.bank).length + (cs.filter fun d => d.bank == c.bank).length)) ||
    ps.any (fun p => match p.2.1.vcn? with | some v => let r := (s.cluster (s.host v)).rot; r == .draining || r == .copying || s.behindForwarded none [(v, 0)] | none => false) ||
    (ps.any fun p => s.migrations.any fun m =>
      !m.forward && decide (s.flatOf m.old < s.flatOf p.2.1 + p.2.2) && decide (s.flatOf p.2.1 < s.flatOf m.old + m.size)) ||
    s.claimsStale ps

/-- The smallest scope that a class lies in (R186). -/
def Class.level : Class → Nat
  | .loc => 1 | .cl => 2 | .ch => 3 | .pn => 4

/-- The smallest scope that a place lies in: host memory and peer windows lie in L5 alone (R186). -/
def State.scopeOf (s : State) (l : Loc) : Nat :=
  match l with
  | .host _ | .peer .. => 5
  | m => (s.classOf s.pcn s.vcn m).level

/-- The smallest scope that some of the places lie in. -/
def State.nearest (s : State) (ls : List Loc) : Nat := (ls.map s.scopeOf).foldl min 5

def isHbmLoc : Loc → Bool
  | .hbm .. => true
  | _ => false
def isFarLoc : Loc → Bool
  | .host _ | .peer .. => true
  | _ => false

/-- The virtual clusters that an arrival names. -/
def vcnsOfArrival (arr : Option (Word × Seg)) : List Nat := (arr.bind fun a => a.2.loc.vcn?).toList

/-- An engine instruction issues (R196): the ring takes its entries; a copy out of the panel seals, and moves nothing where the ring does not accept its SEAL entry (R227, R473); releases and unlogged writes of HBM fix; the claims stand, COPIES rises. -/
def State.issueEngine (s : State) (op0 : EngOp) (claims : List (Bool × Loc × Nat)) (fixes seals : Bool) : Out :=
  let op := { op0 with asGen := s.asGenNow s.asid (.chiplet s.chipHere) }
  let cs := s.claimsFor op.id false claims
  if 63 ≤ s.counts.copies ∨ s.claimsWait cs claims then .next (s.waiting .stall)
  else
    match s.reserve s.asid (s.segsReq (op.moves.map (fun m => m.dst) ++ (op.arr.map fun a => a.2).toList)) with
    | none => .next (s.raise 0x09 0x03)
    | some s1 =>
      let go : State → EngOp → List Claim → Out := fun t o cs =>
        .next ({ (t.setCounts fun c => { c with copies := c.copies + 1 }) with
          engines := t.engines ++ [o], claims := t.claims ++ cs, nextId := t.nextId + 1 }).advance
      if seals then
        match s1.sealWindow (some (false, op.id)) with
        | .full => .next (s.raise 0x09 0x03)
        | .done s2 => go s2 op cs
        | .refused s2 t =>
          go (s2.modLog s.asid fun l => l.subRsv (s.segsReq (op.moves.map (fun m => m.dst) ++ (op.arr.map fun a => a.2).toList)))
            { op with moves := [], arr := none, arrived := true, subs := [subFaultOf s.vcn { cause := t.cause, sub := t.sub, addr := t.addr }] } []
      else go (if fixes then s1.fixWindow else s1) op cs

/-- What an arrival names (R363): its piece, or the fault; far: the peer that a PUT writes to. -/
def State.arrivalPlace (s : State) (c : Word) (far : Option Nat) : Except Fail Seg :=
  let a := bitsOf c 55 0
  let n := if bitsOf c 56 56 = 1 then 8 else 16
  match s.engPlace (if far.isSome then .outside else .panel) .wr a n n with
  | .error f => .error f
  | .ok l =>
    if (match far, l with | some j, .peer i _ => i != j | some _, _ => true | none, _ => false) then
      .error { cause := 0x03, sub := 0x02, addr := BitVec.ofNat 64 a }
    else .ok { va := BitVec.ofNat 56 a, loc := l, n := n }

def State.withEngParts (s : State) (g : Seg) : Seg := { g with parts := s.engineParts (s.log s.asid).mode g }

/-- Issue a planned copy. -/
def State.issueCopy (s : State) (kind : EngKind) (p : Plan) (bytes : Nat) (c : Word) (far : Option Nat) (add : Option Fmt) : Out :=
  match p.fails.find? fun e => e.2.precise with
  | some e => .next (s.raiseFail e.2)
  | none =>
    let moves := p.moves.map fun m => { m with dst := s.withEngParts m.dst }
    let (arr, p1) : Option (Word × Seg) × Plan :=
      if c = 0 then (none, p)
      else match s.arrivalPlace c far with
        | .ok g => (some (c, s.withEngParts g), p)
        | .error f => (none, p.fail (2 ^ 61) f)
    let wFar := moves.any fun m => isFarLoc m.dst.loc || (m.src.map isFarLoc).getD false
    let op : EngOp :=
      { id := s.nextId, sid := s.cur.run.getD 0, core := s.focus, pc := s.cur.pc, asid := s.asid, vcn := s.vcn, kind := kind, bytes := bytes
        moves := moves, add := add, arr := arr, arrived := arr.isNone, subs := p1.fails.map fun e => subFaultOf s.vcn e.2
        near := s.nearest ((moves.map fun m => m.dst.loc) ++ (arr.map fun a => a.2.loc).toList)
        far := wFar, mark := s.cur.mark, win := s.cur.str.window.num, winStamp := s.cur.str.window.stamp }
    let unlogged := p.hbm && (s.log s.asid).mode == 1 && (match kind with | .get => false | _ => true)
    s.issueEngine op p1.claims (c != 0 || unlogged) ((match kind with | .put => true | _ => false) && p.far)

/-! GET and PUT. -/

/-- Both ranges, the count and the arrival operand (R364). -/
def rangeFault (a d n c : Word) : Option Word :=
  if bitsOf a 63 56 ≠ 0 ∨ 2 ^ 56 < a.toNat + n.toNat then some a
  else if bitsOf d 63 56 ≠ 0 ∨ 2 ^ 56 < d.toNat + n.toNat then some d
  else if bitsOf n 63 32 ≠ 0 then some d
  else if bitsOf c 63 57 ≠ 0 then some c
  else none

/-- GET and PUT (R364, R386). -/
def State.copyRange (s : State) (put : Bool) (w : BitVec 2) (d a b c : Reg) : Out :=
  if s.classBusy w ∨ s.counts.stores ≠ 0 then .next (s.waiting .stall)
  else
    match rangeFault (s.reg a) (s.reg d) (s.reg b) (s.reg c) with
    | some x => .next (s.raise 0x03 0x05 x)
    | none =>
      if s.reg b = 0 then .next (if s.reg c = 0 then s else s.fixWindow).advance
      else
        let mine := s.engines.filter fun e => e.core == s.focus && (match e.kind with | .get | .put => true | _ => false)
        if 16 ≤ mine.length then .next (s.waiting .stall)
        else
          let n := (s.reg b).toNat
          let pieces := copyPieces (2 * (n / 2 ^ 16) + 4) (s.reg a).toNat (s.reg d).toNat n
          let peer := if put then pieces.findSome? (fun x => x.dst.bind s.peerNamed) else none
          let ss : EngSide := if put then .scratch else .outside
          let ds : EngSide := if put then .outside else .scratch
          s.issueCopy (if put then .put else .get) (pieces.foldl (s.plan ss ds true [] peer) {}) n (s.reg c) peer none

def execGet (w : BitVec 2) (d a b c : Reg) (s : State) : Out := s.copyRange false w d a b c
def execPut (w : BitVec 2) (d a b c : Reg) (s : State) : Out := s.copyRange true w d a b c

/-! Tensor copies. -/

/-- A shape record (R174). -/
structure Shape where
  base : Nat
  esize : Nat
  clip : List (Option (Int × Int))
  fill : List Byte
  ext : List Nat
  stride : List Int
  deriving DecidableEq, Repr

/-- Read a shape record; none where it breaks R174. -/
def shapeOf (bs : List Byte) : Option Shape :=
  let nd := field bs 8 1
  let en := field bs 10 1
  let ext := (List.range 16).map fun d => field bs (0x40 + 12 * d) 4
  let str := (List.range 16).map fun d => sextInt 64 (field bs (0x44 + 12 * d) 8)
  let clipWords := (List.range 4).map fun d => (field bs (0x10 + 8 * d) 4, field bs (0x14 + 8 * d) 4)
  if field bs 7 1 ≠ 0 ∨ nd = 0 ∨ 16 < nd ∨ 4 < field bs 9 1 ∨ 2 ^ min 4 nd ≤ en ∨ field bs 11 1 ≠ 0
      ∨ (bs.drop 0x30).take 16 ≠ List.replicate 16 0 ∨ (ext.take nd).contains 0
      ∨ (ext.drop nd).any (· != 0) ∨ (str.drop nd).any (· != 0) ∨ (clipWords.drop nd).any (· != (0, 0)) then none
  else
    let es := 2 ^ field bs 9 1
    some { base := field bs 0 7, esize := es, ext := ext.take nd, stride := str.take nd
           clip := clipWords.mapIdx fun d c => if en / 2 ^ d % 2 = 1 then some (sextInt 32 c.1, sextInt 32 c.2) else none
           fill := (List.replicate 4 ((bs.drop 12).take 4)).flatten.take es }

def Shape.elems (r : Shape) : Nat := r.ext.foldl (· * ·) 1

/-- Every index of the extents. -/
def allIdx : List Nat → List (List Nat)
  | [] => [[]]
  | e :: t => (allIdx t).flatMap fun r => (List.range e).map fun i => i :: r

/-- The address of an element, formed exactly (R175). -/
def Shape.addr (r : Shape) (idx : List Nat) : Int := r.base + (List.zipWith (fun (i : Nat) (st : Int) => i * st) idx r.stride).sum

/-- Out of bounds in a clipped dimension (R175). -/
def Shape.outside (r : Shape) (idx : List Nat) : Bool :=
  (List.zipWith (fun (i : Nat) c => match c with | some (lo, hi) => decide ((i : Int) < lo) || decide (hi ≤ (i : Int)) | none => false) idx r.clip).any id

/-- Read a shape record, aligned to 256: the bytes, or the fault of the read (R410), which may be found where the read arrives (R170, R283). -/
def State.readShape (s : State) (a : Nat) : Except Fail (List Byte) :=
  match s.engPlace .panel .rd a 256 256 with
  | .error f => .error f
  | .ok l =>
    match s.homeFault l with
    | some (c, k) => .error { cause := c, sub := k, addr := BitVec.ofNat 64 a }
    | none => s.readSegs [{ va := BitVec.ofNat 56 a, loc := l, n := 256 }]

/-- The records of a copy (R176): both, or the address of the record that failed and its underlying fault. DESIGN CHOICE (log 163): R176 does not say which record's address stands for a check of both; it is the destination's, and the source's where TCPYA's format does not fit. -/
def State.twoShapes (s : State) (sa da : Nat) (f : Option Fmt) : Except (Nat × Option Fail) (Shape × Shape) :=
  match s.readShape sa with
  | .error e => .error (sa, some e)
  | .ok sb =>
    match shapeOf sb with
    | none => .error (sa, none)
    | some x =>
      match s.readShape da with
      | .error e => .error (da, some e)
      | .ok db =>
        match shapeOf db with
        | none => .error (da, none)
        | some y =>
          if x.ext ≠ y.ext ∨ x.esize ≠ y.esize ∨ 2 ^ 40 < x.elems * x.esize then .error (da, none)
          else match f with
            | some g => if g.bits = 8 * x.esize then .ok (x, y) else .error (sa, none)
            | none => .ok (x, y)

/-- The nine formats of TCPYA (R411). -/
def addFmtOk (f : Fmt) : Bool := f == .f32 || f == .bf16 || f == .f16 || f.isInt

/-- TCPY and TCPYA (R410, R411). add: the register value of TCPYA, whose format is judged with the records. -/
def State.copyTensor (s : State) (w : BitVec 2) (a b c : Reg) (kind : EngKind) (add : Option Word) : Out :=
  if (add.map fun x => bitsOf x 63 5 != 0).getD false then .next (s.raise 0x01 0x0A)
  else if s.classBusy w ∨ s.counts.stores ≠ 0 then .next (s.waiting .stall)
  else if bitsOf (s.reg a) 63 56 ≠ 0 then .next (s.raise 0x03 0x05 (s.reg a))
  else if bitsOf (s.reg b) 63 56 ≠ 0 then .next (s.raise 0x03 0x05 (s.reg b))
  else if bitsOf (s.reg c) 63 57 ≠ 0 then .next (s.raise 0x03 0x05 (s.reg c))
  else
    let f := add.map fun x => (fmtOf (BitVec.ofNat 5 (bitsOf x 4 0))).getD .raw
    let bad : Except (Nat × Option Fail) (Shape × Shape) := .error ((s.reg a).toNat, none)
    match (if (f.map addFmtOk).getD true then s.twoShapes (s.reg a).toNat (s.reg b).toNat f else bad) with
    | .error (at_, f) =>
      s.issueEngine
        { id := s.nextId, sid := s.cur.run.getD 0, core := s.focus, pc := s.cur.pc, asid := s.asid, vcn := s.vcn, kind := kind, moved := true, arrived := true
          subs := (f.map (subFaultOf s.vcn)).toList, shapeErr := some (BitVec.ofNat 64 at_), mark := s.cur.mark } [] (s.reg c != 0) false
    | .ok (x, y) =>
      let wants : List Want := (allIdx x.ext).map fun i =>
        { src := if x.outside i then none else some (x.addr i), dst := if y.outside i then none else some (y.addr i), n := x.esize, al := x.esize }
      s.issueCopy kind (wants.foldl (s.plan .panel .panel false x.fill none) {}) (x.elems * x.esize) (s.reg c) none f

def execTcpy (w : BitVec 2) (a b c : Reg) (s : State) : Out := s.copyTensor w a b c .tcpy none
def execTcpya (w : BitVec 2) (d a b c : Reg) (s : State) : Out := s.copyTensor w a b c .tcpya (some (s.reg d))

/-! ARMW. -/

/-- The width of an ARMW: 64 bits, but for fadd32 (R341). -/
def armwWidth : AtomOp → AWidth
  | .fadd32 => .w32
  | _ => .w64

/-- ARMW (R342, R343). -/
def execArmw (w : BitVec 2) (op : AtomOp) (d a b : Reg) (s : State) : Out :=
  let ad := (s.reg a).toNat
  if 2 ^ 56 ≤ ad then .next (s.raise 0x03 0x05 (s.reg a))
  else
    if s.classBusy w ∨ s.counts.stores ≠ 0 then .next (s.waiting .stall)
    else
      let n := aBytes (armwWidth op)
      let kind : EngKind := .armw op (s.reg b) (s.reg d)
      let e : EngOp :=
        { id := s.nextId, sid := s.cur.run.getD 0, core := s.focus, pc := s.cur.pc, asid := s.asid, vcn := s.vcn, kind := kind, arrived := true
          mark := s.cur.mark, win := s.cur.str.window.num, winStamp := s.cur.str.window.stamp, dest := some d }
      let bad : Fail → Out := fun f => s.issueEngine { e with moved := true, subs := [subFaultOf s.vcn f] } [] true false
      let ad64 := BitVec.ofNat 64 ad
      if ad % n ≠ 0 then bad { cause := 0x03, sub := 0x01, addr := ad64 }
      else
        match s.xlate (.chiplet s.chipHere) s.asid s.vcn s.pos .at ad with
        | .error f => bad f
        | .ok l =>
          if !isHbmLoc l then bad { cause := 0x03, sub := 0x03, addr := ad64 }
          else if (s.homeKey l).isNone then bad { cause := 0x03, sub := 0x08, addr := ad64 }
          else
            let g : Seg := { va := BitVec.ofNat 56 ad, loc := l, n := n }
            let p := s.flatOf l
            let parts := if 1 ≤ (s.log s.asid).mode then [partAt g p (p / 64 * 64) 64] else []
            s.issueEngine { e with near := s.scopeOf l, moves := [{ sva := ad, src := some l, dst := { g with parts := parts } }] } [(false, l, n), (true, l, n)] true false

/-! Moving the bytes. -/

def State.engine? (s : State) (id : Nat) : Option EngOp := s.engines.find? fun e => e.id == id
def State.modEngine (s : State) (id : Nat) (f : EngOp → EngOp) : State :=
  { s with engines := s.engines.map fun e => if e.id = id then f e else e }

/-- An engine meets a fault at a move; its reservation goes back. -/
def State.engineFail (s : State) (e : EngOp) (f : Fail) (rsv : List (Nat × Nat)) : State :=
  (s.modLog e.asid fun l => l.subRsv rsv).modEngine e.id fun x => { x with subs := x.subs ++ [subFaultOf e.vcn f] }

def errFail (e : MemErr) (va : Nat) (a : Nat) : Fail := { cause := e.cause, sub := e.sub, addr := BitVec.ofNat 64 (va + e.at_ - a) }

/-- Write bytes to the destination of a move, logged first (R218); the answer is the state, or the fault. -/
def State.engineWrite (s : State) (e : EngOp) (k : EntryKind) (g : Seg) (bs : List Byte) : State :=
  let a := s.homeFlat g.loc
  let d := bs.map some
  let rsv := s.segsReq [g]
  match s.homeFault g.loc with
  | some (c, k) => s.engineFail e { cause := c, sub := k, addr := g.va.zeroExtend 64 } rsv
  | none =>
    match writeErr s.mem s.lostDies (s.homeKey g.loc) g.n a d with
    | some x => s.engineFail e (errFail x g.va.toNat a) rsv
    | none =>
      match s.appendParts e.asid e.win e.winStamp k g.parts with
      | .error (s1, t) => s1.engineFail e { cause := t.cause, sub := t.sub, addr := t.addr } []
      | .ok s1 => (s1.loggedBytes e.vcn g.parts).putHome g.loc d

/-- The packets of a write to a peer: 2,048 bytes at most (R301). fuel: at least the packets. -/
def writePackets (tag : Nat) : Nat → Nat → List Byte → List (List Byte)
  | 0, _, _ => []
  | fuel + 1, off, bs =>
    if bs.isEmpty then []
    else
      let d := bs.take 2048
      packetBytes 1 0 d.length off 0 tag d :: writePackets tag fuel (off + d.length) (bs.drop 2048)

/-- The requests of a read from a peer. -/
def readPackets (tag : Nat) : Nat → Nat → Nat → List (List Byte)
  | 0, _, _ => []
  | fuel + 1, off, n =>
    if n = 0 then []
    else packetBytes 2 0 (min n 2048) off 0 tag [] :: readPackets tag fuel (off + min n 2048) (n - min n 2048)

/-- The peer that a packet's operation goes to. -/
def EngOp.peer (e : EngOp) : Option Nat :=
  e.moves.findSome? fun m => match m.dst.loc, m.src with
    | .peer i _, _ => some i
    | _, some (.peer i _) => some i
    | _, _ => none

/-- The window address of a packet's offset. -/
def EngOp.windowVa (e : EngOp) (off : Nat) : Nat :=
  (e.moves.findSome? fun m => match m.dst.loc, m.src with
    | .peer _ o, _ => if o ≤ off ∧ off < o + m.dst.n then some (m.dst.va.toNat + (off - o)) else none
    | _, some (.peer _ o) => if o ≤ off ∧ off < o + m.dst.n then some (m.sva + (off - o)) else none
    | _, _ => none).getD 0

/-- Send the packets of an operation; with no port up each is a fault at its window address (R305). -/
def State.sendPackets (s : State) (e : EngOp) (ps : List (List Byte)) : State :=
  ps.foldl (fun s p =>
    match e.peer.bind fun i => s.sendPeer i p with
    | some s1 => s1.modEngine e.id fun x => { x with out := x.out ++ [p] }
    | none => s.engineFail e { cause := 0x0D, sub := 0x01, addr := BitVec.ofNat 64 (e.windowVa (packetOff p)) } []) s

/-- The element of TCPYA (R411). -/
def addElem (f : Fmt) (dst src : List Byte) : List Byte := toLe dst.length (arithElem .add f (leNat dst) (leNat src) 0)

/-- One move. -/
def State.engineMove (s : State) (e : EngOp) (m : EMove) : State :=
  let rsv := s.segsReq [m.dst]
  let got : Except Fail (Option (List Byte)) :=
    match m.src with
    | none => .ok (some m.fill)
    | some (.peer ..) => .ok none
    | some l =>
      match s.homeFault l with
      | some (c, k) => .error { cause := c, sub := k, addr := BitVec.ofNat 64 m.sva }
      | none =>
        match readErr s.mem s.lostDies (s.homeKey l) m.dst.n (s.homeFlat l) m.dst.n with
        | some x => .error (errFail x m.sva (s.homeFlat l))
        | none => .ok (some (s.mem.read (s.homeFlat l) m.dst.n))
  match got with
  | .error f => s.engineFail e f rsv
  | .ok none =>
    match m.src with
    | some (.peer _ o) => s.sendPackets e (readPackets e.id m.dst.n o m.dst.n)
    | _ => s
  | .ok (some bs) =>
    match e.kind, m.dst.loc with
    | .armw op b c, _ =>
      let n := armwWidth op
      let old := leNat bs
      let s1 := match atomApply op n old b.toNat c.toNat with
        | some v => s.engineWrite e .atomic m.dst (toLe (aBytes n) v)
        | none => s.modLog e.asid fun l => l.subRsv rsv
      s1.modEngine e.id fun x => { x with result := if x.subs.isEmpty then atomReturned op n old else 0 }
    | _, .peer _ o =>
      let ps := writePackets e.id m.dst.n o bs
      s.modEngine e.id fun x => { x with out := x.out ++ ps }
    | _, l =>
      match e.add with
      | some f =>
        (match readErr s.mem s.lostDies (s.homeKey l) m.dst.n (s.homeFlat l) m.dst.n with
         | some x => s.engineFail e (errFail x m.dst.va.toNat (s.homeFlat l)) rsv
         | none => s.engineWrite e .engine m.dst (addElem f (s.mem.read (s.homeFlat l) m.dst.n) bs))
      | none => s.engineWrite e .engine m.dst bs

/-- The last WRITE packet of a PUT to a peer carries its arrival and waits until every other has been accepted (R199, R306, log 20). -/
def splitLast (arr : Nat) (ps : List (List Byte)) : List (List Byte) × List (List Byte) :=
  match ps.getLast? with
  | none => ([], [])
  | some p => if arr = 0 then (ps, []) else (ps.dropLast, [packetBytes 1 0 (packetLen p) (packetOff p) arr (packetTag p) (packetData p)])

/-- The offset of the far arrival word. -/
def EngOp.farArrival (e : EngOp) : Nat :=
  match e.arr with
  | some (_, g) => (match g.loc with | .peer _ o => o | _ => 0)
  | none => 0

/-- The packets of an operation that waited go, once every other has been answered: those without the arrival first (R199, R306). -/
def State.flushHold (s : State) (id : Nat) : State :=
  match s.engine? id with
  | none => s
  | some e =>
    if e.out.isEmpty && e.again.isEmpty && !e.hold.isEmpty then
      let plain := e.hold.filter fun q => packetArr q == 0
      let (now, later) := if plain.isEmpty then (e.hold, []) else (plain, e.hold.filter fun q => packetArr q != 0)
      let s1 := (s.modEngine id fun x => { x with hold := later }).sendPackets { e with hold := later } now
      match s1.engine? id with
      | some x =>
        if x.out.isEmpty && x.again.isEmpty && !x.hold.isEmpty then (s1.modEngine id fun y => { y with hold := [] }).sendPackets { x with hold := [] } x.hold else s1
      | none => s1
    else s

/-- Every move; then the packets of a PUT leave. -/
def State.engineRun (s : State) (e : EngOp) : State :=
  let s1 := e.moves.foldl (fun s m => s.engineMove e m) s
  let s2 := match e.kind, s1.engine? e.id with
    | .put, some x =>
      if e.peer.isSome then
        let (now, last) := splitLast e.farArrival x.out
        let (first, held) := if now.isEmpty then (last, []) else (now, last)
        ((s1.modEngine e.id fun y => { y with out := [], hold := held, arrived := true }).sendPackets e first).flushHold e.id
      else s1
    | _, _ => s1
  s2.modEngine e.id fun x => { x with moved := true }

/-- No packet of the operation waits for its answer. -/
def EngOp.settled (e : EngOp) : Bool := e.moved && e.out.isEmpty && e.again.isEmpty && e.hold.isEmpty

/-- Release the claims of an operation that is done with its ranges. -/
def State.releaseClaims (s : State) (id : Nat) : State :=
  match s.engine? id with
  | none => s
  | some e =>
    if e.settled || (match e.kind with | .put => e.moved | _ => false) then
      { s with claims := s.claims.filter fun c => c.tile || c.owner != id }
    else s

/-- An ARMW meets a parked cause, or a parked request to its word: it waits in the fault queue of its home (R203, R342). -/
def State.armwParks (s : State) (e : EngOp) : Bool :=
  let segs := e.moves.map fun m => m.dst
  (match e.kind with | .armw .. => true | _ => false) && !e.moved && (s.parks segs || s.parkedBefore none segs)

/-- CLAIM_RELEASE: the engine reads and writes under its claims, then releases them (R198). An ARMW that is parked waits for its replay. -/
def execClaimRelease (id : Nat) (s : State) : Out :=
  match s.engine? id with
  | none => .next s
  | some e =>
    if e.parked.isSome ∧ !e.moved then .next s
    else if s.armwParks e then
      (if s.queueFull (e.moves.map fun m => m.dst) then .next s
       else .next { (s.modEngine id fun x => { x with parked := some s.nextId }) with nextId := s.nextId + 1 })
    else .next ((if e.moved then s else s.engineRun e).releaseClaims id)

/-- A PUT to host memory is performed at the far end (R294). -/
def State.farDone (s : State) (id : Nat) : State :=
  match s.engine? id with
  | some e => if e.settled then s.modEngine id fun x => { x with farDone := true } else s
  | none => s

/-- Every byte has been performed at its end. -/
def EngOp.performedAll (e : EngOp) : Bool :=
  e.settled && (e.farDone || !(e.moves.any fun m => match m.dst.loc with | .host _ => true | _ => false))

/-! Arrivals. -/

/-- R212, on the 16 bytes of an arrival word. -/
def arrivalUpdate (w : List Byte) (n : Nat) (err : Bool) : List Byte :=
  let target := field w 0 4
  let c := field w 4 4 + n
  let gen := field w 8 4
  let hi := field w 12 4
  let done := decide (target ≠ 0) && decide (target ≤ c)
  let count := if done then c % target else min c 0xFFFFFFFF
  let gen' := if done then (gen + c / target) % 2 ^ 32 else gen
  let sat := !done && decide (0xFFFFFFFF < c)
  let e := if hi % 2 = 1 ∨ err then 1 else 0
  let t := if hi / 2 % 2 = 1 ∨ sat then 2 else 0
  toLe 4 target ++ toLe 4 count ++ toLe 4 gen' ++ toLe 4 (hi / 4 * 4 + e + t)

/-- The new bytes of an arrival word or a completion counter (R212, R363). -/
def arrivalBytes (counter : Bool) (w : List Byte) (n : Nat) (err : Bool) : List Byte :=
  if counter then toLe 8 (leNat w + n) else arrivalUpdate w n err

/-- What the map makes of an arrival with these stamps (R274). -/
def State.arriveGens (s : State) (gens : List (Nat × BitVec 8)) : Arrive :=
  (gens.map fun p => s.arriveAt p.1 p.2).foldl (fun w x => if w = .here then x else w) .here

/-- An arrival waits at a claim, in its order of arrival (R197). -/
def State.arrivalHeld (s : State) (place : Option Nat) (g : Seg) : Bool := s.claimed true [g] || s.behindWaiters place [g]

/-- Perform an arrival at its place: the state, none while it waits at a claim or behind a parked request to its word, or the fault that it meets there (R170, R197, R203, R212). -/
def State.arriveWord (s : State) (place : Option Nat) (asid win stamp : Nat) (g : Seg) (counter : Bool) (n : Nat) (err : Bool) : Except (State × Fail) (Option State) :=
  if s.arrivalHeld place g || s.parkedBefore none [g] then .ok none
  else
    match s.homeFault g.loc with
    | some (c, k) => .error (s, { cause := c, sub := k, addr := g.va.zeroExtend 64 })
    | none =>
    match s.readSegs [g] with
    | .error f => .error (s, f)
    | .ok w =>
      match s.appendParts asid win stamp .engine g.parts with
      | .error (s1, t) => .error (s1, { cause := t.cause, sub := t.sub, addr := t.addr })
      | .ok s1 => .ok (some (s1.putHome g.loc ((arrivalBytes counter w n err).map some)))

/-- An arrival's way to its place (R274, R279 to R281): it is there, in its turn; it goes to the shadow, which holds it; its stamp is stale; or it waits. -/
inductive Way where
  | there | held | stale | waits
  deriving DecidableEq, Repr

def State.wayOf (s : State) (gens : List (Nat × BitVec 8)) (fwd : Option Nat) : Way :=
  match s.arriveGens gens with
  | .here | .dead => if s.behindForwarded fwd gens then .waits else .there
  | .forward => if fwd.isSome then .waits else if (s.heldFor gens).length < 2048 then .held else .stale
  | .stale => if fwd.isSome then .there else .stale
  | .retry => .waits

/-- The stamps of an arrival: those under which it was sent, or those of its sending now (R274). -/
def State.arrStamps (s : State) (e : EngOp) : List (Nat × BitVec 8) :=
  if e.arrGens.isEmpty then s.gensNow (e.core / 8) (vcnsOfArrival e.arr) else e.arrGens

/-- The arrival of an engine operation, once every byte has been performed (R199). -/
def State.engineArrive (s : State) (e : EngOp) : State :=
  let gens := s.arrStamps e
  if !e.performedAll || e.arrived || (e.arrGens.isEmpty && s.genWaits e.core e.id gens) then s
  else
    match e.arr, s.wayOf gens e.arrFwd with
    | none, _ => s.modEngine e.id fun x => { x with arrived := true }
    | some _, .waits => s
    | some _, .held => { (s.modEngine e.id fun x => { x with arrGens := gens, arrFwd := some s.nextId }) with nextId := s.nextId + 1 }
    | some _, .stale =>
      let t := s.modEngine e.id fun x => { x with arrGens := gens, staleAt := some (x.staleAt.getD s.ptime) }
      if e.staleAt.isNone then t.happen e.vcn 0x06 1 else t
    | some (c, g), .there =>
      match s.arriveWord e.arrSeq e.asid e.win e.winStamp g (bitsOf c 56 56 == 1) e.bytes (!e.subs.isEmpty) with
      | .ok none =>
        if s.arrivalHeld e.arrSeq g && e.arrSeq.isNone then { (s.modEngine e.id fun x => { x with arrGens := gens, arrSeq := some s.nextId }) with nextId := s.nextId + 1 }
        else s.modEngine e.id fun x => { x with arrGens := gens }
      | .ok (some s1) => (s1.loggedBytes e.vcn g.parts).modEngine e.id fun x => { x with arrived := true }
      | .error (s1, f) => (s1.engineFail e f []).modEngine e.id fun x => { x with arrived := true }

def State.modArrival (s : State) (id : Nat) (f : FarArrival → FarArrival) : State :=
  { s with arrivals := s.arrivals.map fun y => if y.id = id then f y else y }

/-- An arrival that came from a peer; one that meets a STALE response waits to be sent again. -/
def State.farArrive (s : State) (x : FarArrival) : State :=
  match s.wayOf x.gens x.fwd with
  | .waits => s
  | .held => { (s.modArrival x.id fun y => { y with fwd := some s.nextId }) with nextId := s.nextId + 1 }
  | .stale => s.modArrival x.id fun y => { y with staleAt := some (y.staleAt.getD s.ptime) }
  | .there =>
    match s.arriveWord x.seqNo x.asid 0 0 x.seg x.counter x.n x.err with
    | .ok none =>
      if s.arrivalHeld x.seqNo x.seg && x.seqNo.isNone then { (s.modArrival x.id fun y => { y with seqNo := some s.nextId }) with nextId := s.nextId + 1 } else s
    | .ok (some s1) => { s1 with arrivals := s1.arrivals.filter fun y => y.id != x.id }
    | .error (s1, _) => { s1 with arrivals := s1.arrivals.filter fun y => y.id != x.id }

/-- A message that met a STALE response is sent again after 64 network cycles, about 46 ns (R3, R281). -/
def resendAt (t : Nat) : Nat := t + 46

/-- The arrival of an engine operation is stamped and sent again, or its VCN has gone (R170, R281). -/
def State.resendArrival (s : State) (e : EngOp) (g : Seg) : State :=
  let router := e.core / 8
  if (vcnsOfArrival e.arr).any fun v => !(s.entryAt router v).valid then
    (s.engineFail e { cause := 0x03, sub := 0x07, addr := g.va.zeroExtend 64 } (s.segsReq [g])).modEngine e.id fun x => { x with arrived := true, staleAt := none }
  else s.modEngine e.id fun x => { x with arrGens := s.gensNow router (vcnsOfArrival e.arr), staleAt := none }

/-- An arrival from a peer is stamped and sent again after its wait; one whose VCN has gone is dropped (R170, R281, log 164). -/
def State.resendFar (s : State) (id : Nat) : State :=
  match s.arrivals.find? fun x => x.id == id with
  | none => s
  | some x =>
    match x.staleAt with
    | none => s
    | some t =>
      if s.ptime < resendAt t then s
      else if x.gens.any fun p => !(s.mapNow p.1).valid then { s with arrivals := s.arrivals.filter fun y => y.id != id }
      else s.modArrival id fun y => { y with gens := y.gens.map (fun p => (p.1, (s.mapNow p.1).gen)), staleAt := none }

/-- ARRIVAL (R212). -/
def execArrival (id : Nat) (s : State) : Out :=
  match s.engine? id, s.arrivals.find? fun x => x.id == id with
  | some e, _ => .next (s.engineArrive e)
  | none, some x => .next (s.farArrive x)
  | none, none => .next s

/-! Completion. -/

/-- The trap of an operation that met faults (R176, R365, R410). -/
def EngOp.trap (e : EngOp) : Option Trap :=
  match e.shapeErr with
  | some a => some { cause := 0x06, sub := 0x01, fpc := e.pc, addr := a, subs := e.subs }
  | none =>
    if e.subs.isEmpty then none
    else some { cause := 0x06, sub := 0x02, fpc := e.pc, roll := true, subOvf := decide (32 < e.subs.length), subs := e.subs.take 32 }

/-- ENGINE_COMPLETION: the arrival, if it is still to be made; then COPIES falls, ARMW's result reaches its register, and faults roll up, at the strand's first boundary after it (R199, R343, R365). -/
def execEngineCompletion (id : Nat) (s : State) : Out :=
  let s0 := match s.engine? id with
    | some e => s.engineArrive e
    | none => s
  match s0.engine? id with
  | none => .next s0
  | some e =>
    if !e.performedAll || !e.arrived || s0.claims.any fun c => !c.tile && c.owner == id then .next s0
    else
      let s1 : State := { s0 with engines := s0.engines.filter fun x => x.id != id }
      let s2 := (s1.modCounts e.sid fun c => { c with copies := c.copies - 1 }).unseal e.sid (false, e.id)
      let s3 := match e.dest with
        | some d => if e.subs.isEmpty then s2.onCore e.core fun t => t.setReg d e.result else s2
        | none => s2
      match e.trap with
      | some t => .next (s3.latchTrap e.sid t)
      | none => .next s3

end Sys2Proof.Machine
end

