-- ==== Sys2Proof/Machine/Home.lean ====
section
/-! DEFINITION. Events of translation, routers and home banks: walks, ASGEN, accesses arriving, merging, parked, resent, logged, answered (R177 to R181, R186 to R191, R200 to R203, R213, R218, R274, R281). -/

namespace Sys2Proof.Machine

/-! Translation. -/

/-- The entries that a cache keeps (R177). -/
def tlbSize : Agent → Nat
  | .core _ => 32
  | .cluster _ => 1024
  | _ => 4096

/-- Put an entry into a cache of its own size; the oldest entries make room. -/
def fillTlb (tlb : List TlbEntry) (e : TlbEntry) : List TlbEntry :=
  let mine := tlb.filter fun x => x.at_ == e.at_ && !(x.asid == e.asid && x.gen == e.gen && x.base == e.base)
  (tlb.filter fun x => x.at_ != e.at_) ++ mine.drop (mine.length + 1 - tlbSize e.at_) ++ [e]

/-- The tables that a walk passes below the root: level and address. -/
def State.pathFrom (s : State) (va : Nat) : Nat → Nat → List (Nat × Nat)
  | 0, _ => []
  | k + 1, t =>
    match s.tableWord (t + 8 * (if k = 3 then va / 2 ^ 48 % 256 else va / 2 ^ (12 + 9 * (k + 1)) % 512)) with
    | some w => if bitsOf w 0 0 = 1 ∧ bitsOf w 1 1 = 0 then (k, bitsOf w 40 8 * 2 ^ 8) :: s.pathFrom va k (bitsOf w 40 8 * 2 ^ 8) else []
    | none => []

/-- Put a non-leaf entry into a chiplet's walk cache. -/
def fillWalk (ws : List WalkEntry) (e : WalkEntry) : List WalkEntry :=
  let mine := ws.filter fun x => x.chip == e.chip && !(x.asid == e.asid && x.gen == e.gen && x.level == e.level && x.idx == e.idx)
  (ws.filter fun x => x.chip != e.chip) ++ mine.drop (mine.length + 1 - 4096) ++ [e]

/-- PAGE_WALK_DONE: a page that the walk finds fills the chiplet's walk cache and the caches of the agents whose misses joined the walk, under the generation that each of them goes by; an invalid one fills none (R177, log 25). -/
def execPageWalkDone (w : Walk) (asid va : Nat) (s : State) : Out :=
  match s.ctx? asid with
  | none => .next s
  | some c =>
    match s.walkFrom c va 4 c.ptroot with
    | .error _ => .next s
    | .ok p =>
      let mine := w.misses.filter fun a => agentChip a == some w.chip
      let fills := mine.flatMap fun a => (agentCaches a).map fun k =>
        ({ at_ := k, asid := asid, gen := c.genFor s.ptime a, base := p.base, size := p.size, leaf := p.leaf } : TlbEntry)
      let tables := (s.pathFrom va 4 c.ptroot).map fun x =>
        ({ chip := w.chip, asid := asid, gen := c.genFor s.ptime (.chiplet w.chip), level := x.1, idx := walkIdx va x.1, next := x.2 } : WalkEntry)
      .next { s with tlb := fills.foldl fillTlb s.tlb, walks := tables.foldl fillWalk s.walks }

/-- Every access, engine operation and arrival translated under an older generation has been performed (R178). -/
def State.oldGenOver (s : State) (asid : Nat) (gen : BitVec 20) : Bool :=
  s.flight.all (fun a => a.asid != asid || a.asGen == gen || a.stage.past) &&
    s.engines.all (fun e => e.asid != asid || e.asGen == gen || (e.performedAll && e.arrived)) &&
    s.arrivals.all fun x => x.asid != asid || x.asGen == gen

/-- A command of the command processor releases the strand that stands at it: its result, and the next head. -/
def State.releaseUnit (s : State) (sid : Nat) (f : State → State) : State :=
  match s.coreOf sid with
  | some core => s.onCore core fun t => if t.cur.gate = .unit then (f { t with cur := { t.cur with gate := .none } }).advance else t
  | none => s

/-- ASGEN_DONE: the oldest ASGEN of the context completes and the next one begins (R178, R345); where the generation has wrapped, no cache keeps an entry that a walk has filled since; migrations whose leaf has been rewritten end (R180). -/
def execAsgenDone (asid : Nat) (s : State) : Out :=
  match s.ctx? asid with
  | none => .next s
  | some c =>
    match c.asgens with
    | [] => .next s
    | b :: rest =>
      if !s.oldGenOver asid c.gen then .next s
      else
        let s1 := (if c.gen = 0 then s.dropXlate asid else s).modCtx asid fun c => { c with asgens := rest }
        let s2 := match b with
          | .strand sid d => s1.releaseUnit sid fun t => t.setReg d (c.gen.zeroExtend 64)
          | .migration mid => s1.endMigration mid 2 0
        .next (if rest.isEmpty then s2 else s2.raiseGen asid)

/-- CSRW_COMPLETION: every log writer holds the new value (R353). -/
def execCsrwCompletion (asid : Nat) (s : State) : Out :=
  match s.ctx? asid with
  | none => .next s
  | some c =>
    match c.csrws with
    | [] => .next s
    | sid :: rest => .next ((s.modCtx asid fun c => { c with csrws := rest }).releaseUnit sid id)

/-! Home banks. -/

/-- FAULT_QUEUE_REPLAY: once its cause has cleared, or has turned into an error (R203). -/
def execFaultQueueReplay (id : Nat) (s : State) : Out :=
  match s.access? id with
  | none =>
    (match s.engine? id with
     | some e =>
       match e.parked with
       | some k => if e.moved ∨ s.rewriting e.parkedSegs ∨ s.parkedBefore (some k) e.parkedSegs then .next s else .next ((s.engineRun e).releaseClaims id)
       | none => .next s
     | none => .next s)
  | some a =>
    if a.stage = .parked ∧ s.mayArrive a then .next ((s.modAccess id fun x => { x with replayed := true }).arriveThen { a with replayed := true } State.serve)
    else .next s

/-- FAULT_QUEUE_RESEND: the router sends a refused request again (R203). -/
def execFaultQueueResend (id : Nat) (s : State) : Out :=
  match s.access? id with
  | none => .next s
  | some a => if a.stage = .refused ∧ resendAt a.staleAt ≤ s.ptime then .next (s.setStage id .issued) else .next s

/-- FORWARDED_MESSAGE: a message reaches D after the drain point (R281). -/
def execForwardedMessage (id : Nat) (s : State) : Out :=
  match s.access? id with
  | none => .next s
  | some a => if a.stage = .issued ∧ s.arrive a = .forward ∧ !s.behindOlder a then .next (s.arriveThen a State.serve) else .next s

/-- STALE_RESEND: retranslated and sent again, or VCNGONE (R281). -/
def execStaleResend (id : Nat) (s : State) : Out :=
  match s.access? id with
  | none =>
    match s.engine? id with
    | none => .next (s.resendFar id)
    | some e =>
      match e.staleAt, e.arr with
      | some t, some (_, g) => if resendAt t ≤ s.ptime then .next (s.resendArrival e g) else .next s
      | _, _ => .next s
  | some a =>
    if a.stage ≠ .stale ∨ s.ptime < resendAt a.staleAt then .next s
    else
      let router := a.core / 8
      if a.gens.any fun p => !(s.entryAt router p.1).valid then
        .next (s.failAccess id { cause := 0x03, sub := 0x07, addr := match a.segs with | g :: _ => g.va.zeroExtend 64 | [] => 0 })
      else .next (s.modAccess id fun x => { x with stage := .issued, gens := x.gens.map fun p => (p.1, (s.entryAt router p.1).gen) })

/-- ACCESS_RESPONSE (R191). -/
def execAccessResponse (id : Nat) (s : State) : Out :=
  match s.access? id with
  | none => .next s
  | some a => if a.stage.past then .next (s.respond a) else .next s

/-- WATCH_TIMEOUT: a WAITA that its bank could not watch takes its pass latch (R213). -/
def execWatchTimeout (id : Nat) (s : State) : Out :=
  match s.watches.find? fun w => w.access == id && w.bank == noBank with
  | none => .next s
  | some w => .next ({ s with watches := s.watches.filter fun v => v != w }.passWake w.sid)

/-! Merging (R201). -/

def mergeable : AtomOp → Bool
  | .swp | .cas => false
  | _ => true

/-- Two requests agree in operation, width, ASID and word. -/
def State.mergeWith (s : State) (a b : Access) : Bool :=
  match a.op, b.op, a.segs, b.segs with
  | .atomic o n .., .atomic p m .., [g], [h] => o == p && n == m && a.asid == b.asid && s.flatOf g.loc == s.flatOf h.loc && mergeable o
  | _, _, _, _ => false

/-- A request that a router may merge: on its way, alone, behind nothing of its own strand. -/
def State.loose (s : State) (a : Access) : Bool := a.stage == .issued && a.merged.isEmpty && !s.behindOlder a

/-- ATOMIC_MERGE: the first request carries the group, which is logged as one unit. -/
def execAtomicMerge (ids : List Nat) (s : State) : Out :=
  match ids.filterMap s.access? with
  | a :: t =>
    if t.isEmpty ∨ 16 < (a :: t).length ∨ (a :: t).length ≠ ids.length ∨ !ids.Nodup ∨ !((a :: t).all s.loose) ∨ !(t.all (s.mergeWith a)) then .next s
    else
      let s1 := t.foldl (fun s b => (s.modAccess b.id fun x => { x with stage := .merged, rsv := [] }).modLog b.asid fun l => l.subRsv b.rsv) s
      .next (s1.modAccess a.id fun x => { x with merged := t.map fun b => b.id })
  | [] => .next s

/-! Logged writes (R218). -/

/-- Give back what pieces had reserved. -/
def State.unreserve (s : State) (asid : Nat) (segs : List Seg) : State := s.modLog asid fun l => l.subRsv (s.segsReq segs)

/-- Piece by piece: its entries, then its bytes. -/
def State.loggedStore (s : State) (a : Access) : List Seg → State
  | [] => (s.spoil a).performed a.id [] 0
  | g :: t =>
    let p := s.homeFlat g.loc
    match s.pieceErr g with
    | some e => (s.unreserve a.asid (g :: t)).failAccess a.id (errFail e g.va.toNat p)
    | none =>
      match s.appendParts a.asid a.win a.winStamp .store g.parts with
      | .error (s1, x) => (s1.unreserve a.asid t).failAccess a.id { cause := x.cause, sub := x.sub, addr := x.addr }
      | .ok s1 => ((s1.loggedBytes a.vcn g.parts).putHome g.loc g.data).loggedStore a t

/-- A logged atomic; an ACAS that writes nothing logs nothing. -/
def State.loggedAtomic (s : State) (a : Access) (op : AtomOp) (n : AWidth) (b c : Word) : State :=
  match s.readSegs a.segs with
  | .error _ => (s.unreserve a.asid a.segs).performAtomic a op n b c
  | .ok bs =>
    if (atomApply op n (leNat bs) b.toNat c.toNat).isNone then (s.unreserve a.asid a.segs).performAtomic a op n b c
    else
      match s.appendParts a.asid a.win a.winStamp (if a.merged.isEmpty then .atomic else .merge) (a.segs.flatMap fun g => g.parts) with
      | .error (s1, x) => s1.failAccess a.id { cause := x.cause, sub := x.sub, addr := x.addr }
      | .ok s1 => ((s1.loggedBytes a.vcn (a.segs.flatMap fun g => g.parts)).spoil a).performAtomic a op n b c

/-- LOG_ENTRY_ACCEPT. -/
def execLogEntryAccept (id : Nat) (s : State) : Out :=
  match s.access? id with
  | none => .next s
  | some a =>
    if a.stage ≠ .logWait then .next s
    else if s.arrive a ≠ .here then .next (s.setStage id .issued)
    else if s.claimed true a.segs then .next (s.holdAccess a)
    else if (s.noPlace a).isSome then .next (s.failAccess id ((s.noPlace a).getD { cause := 0, sub := 0 }))
    else
      let s1 := s.modAccess id fun x => { x with rsv := [] }
      match a.op with
      | .atomic op n b c => .next (s1.loggedAtomic a op n b c)
      | _ => .next (s1.loggedStore a a.segs)

end Sys2Proof.Machine
end

