-- ==== Sys2Proof/Machine/Scalar.lean ====
section
/-! DEFINITION. Scalar memory, atomics and WAITA (R204, R209, R213, R334 to R337, R372 to R374, R396 to R398, R455, R456). -/

namespace Sys2Proof.Machine

/-! Event-unit registers (R204). -/

inductive EvReg where
  | line (e : Nat) | barcfg (b : Nat) | bararr (b : Nat) | barval (b : Nat) | mutex (m : Nat) | other
  deriving DecidableEq, Repr

/-- The register at an 8-byte-aligned offset of the page. -/
def evReg (off : Nat) : EvReg :=
  if off < 0x100 then .line (off / 8)
  else if 0x200 ≤ off ∧ off < 0x300 then
    (if off % 32 = 0 then .barcfg ((off - 0x200) / 32)
     else if off % 32 = 8 then .bararr ((off - 0x200) / 32)
     else if off % 32 = 16 then .barval ((off - 0x200) / 32)
     else .other)
  else if 0x400 ≤ off ∧ off < 0x440 then .mutex ((off - 0x400) / 8)
  else .other

/-- Loads that hold the core until their result (R204). -/
def EvReg.gates : EvReg → Bool
  | .line _ | .bararr _ | .mutex _ => true
  | _ => false

/-- The unit keeps a queue place or an arrival of the strand at a register (R209). -/
def State.queuedAt (s : State) (v sid : Nat) (r : EvReg) : Bool :=
  let x := s.vc v
  let has : List Waiter → Bool := fun l => l.any fun w => w.sid == sid
  let came : List BarArrival → Bool := fun l => l.any fun w => (w.waiter.map fun x => x.sid) == some sid
  match r with
  | .line e => has (x.lineWaiters.getD e [])
  | .bararr b => came (x.bars.getD b {}).arrivals || came (x.bars.getD b {}).held
  | .mutex m => has (x.mutexes.getD m {}).waiters
  | _ => false

/-- The strand stands at the access that it has just sent until that completes. -/
def State.gateLast (s : State) (susp : Bool) : State :=
  { s with cur := { s.cur with gate := .access (s.nextId - 1), wait := .block susp } }

/-- A load of a gating register: a grant that was latched, a place that was kept, or a new request (R205, R207 to R209). -/
def State.gatedLoad (s : State) (susp : Bool) (d : Reg) (g : Seg) (v off : Nat) : Out :=
  let sid := s.cur.run.getD 0
  match s.cur.str.grant with
  | some (.value x) => .next ((s.setStr fun y => { y with grant := none }).answer d x)
  | some (.error sub) => .next ((s.setStr fun y => { y with grant := none }).raise 0x03 sub (g.va.zeroExtend 64))
  | none =>
    let k := s.classes [g]
    if s.full true k then .next (s.waiting .stall)
    else if s.queuedAt v sid (evReg off) then
      let s1 := (s.setStr fun y => { y with passLatch := false }).issue (.eventLoad off) [g] k (.scalar d .d64)
      .next ((s1.setStage s.nextId .watching).gateLast susp)
    else
      let s1 := if (match evReg off with | .bararr _ => true | _ => false) then s.fixWindow else s
      .next ((s1.issue (.eventLoad off) [g] k (.scalar d .d64)).gateLast susp)

/-- The own tile slot (R92, R191): the bytes as the strand's row instructions left them, once a row that is on its way there has come. -/
def State.slotLoad (s : State) (g : Seg) (dest : Dest) : Out :=
  if s.slotBusy [g] ∨ s.full true [] then .next (s.waiting .stall)
  else
  match s.readSegs [g] with
  | .ok bs => .next ((s.deliver dest .load bs 0).advance)
  | .error f => .next (s.asyncHere f.cause f.sub f.addr).advance

/-- A load of n aligned bytes (R373). One of the own slot or of a mapped register ends where it issues, so that LOADS rises and falls with it; it stalls while LOADS stands at 63 (R191, log 165). -/
def State.loadMem (s : State) (w : BitVec 2) (susp : Bool) (d a : Reg) (imm : BitVec 16) (n : Nat) (dest : Dest) : Out :=
  s.withAccess w .load .rd (s.reg a) (disp16 imm) n fun segs =>
    match segs with
    | [g] =>
      match g.loc with
      | .window off => if s.full true [] then .next (s.waiting .stall) else .next (s.answer d (s.windowWord off))
      | .event v off =>
        if (evReg off).gates then s.gatedLoad susp d g v off
        else if s.full true [] then .next (s.waiting .stall)
        else .next (s.issue (.eventLoad off) segs [] dest).advance
      | l =>
        if l.inSlots n then s.slotLoad g dest
        else if s.full true [] then .next (s.waiting .stall)
        else .next (s.issue .load segs [] dest).advance
    | _ => .next s

def execLd (w : BitVec 2) (n : MemWidth) (d a : Reg) (imm : BitVec 16) (s : State) : Out :=
  s.loadMem w (suspendable (.ld w n d a imm)) d a imm (memBytes n) (.scalar d n)
def execLdp (w : BitVec 2) (d a b : Reg) (imm : BitVec 16) (s : State) : Out :=
  s.loadMem w false d a imm 16 (.pair d b)

/-- The bytes to be written, piece by piece. -/
def withData (segs : List Seg) (bs : List (Option Byte)) : List Seg :=
  match segs with
  | [] => []
  | g :: t => { g with data := bs.take g.n } :: withData t (bs.drop g.n)

/-- Cut a piece in two aligned halves (R397). -/
def halves (g : Seg) : List Seg :=
  [{ g with n := g.n / 2 }, { g with va := g.va + BitVec.ofNat 56 (g.n / 2), loc := g.loc.plus (g.n / 2), n := g.n / 2 }]

/-- Send a write once no count stands at 63 and the ring can take its entries (R191, R229); with_: what the instruction does at its own core as it issues. -/
def State.sendWrite (s : State) (op : AccOp) (segs : List Seg) (dest : Dest) (fixes : Bool) (with_ : State → State := id) : Out :=
  let k := s.classes segs
  if s.full false k then .next (s.waiting .stall)
  else
    let logged := s.withParts segs
    let req := s.segsReq logged
    match s.reserve s.asid req with
    | none => .next (s.raise 0x09 0x03)
    | some s1 =>
      let s2 := if fixes then s1.fixWindow else s1
      .next ((with_ s2).issue op logged k dest req).advance

/-- A store to the own slot, in order with the strand's rows; never logged (R92, R94). -/
def State.slotStore (s : State) (segs : List Seg) : State :=
  segs.foldl (fun s g =>
    match s.writeSegs [g] g.data with
    | .ok s1 => match g.loc with
      | .core _ _ off _ => s1.dropBypass ((off - 0xC000) % 0x2000) g.data
      | _ => s1
    | .error f => s.asyncHere f.cause f.sub f.addr) s

/-- A store of n aligned bytes; pair: its halves are parts of their own (R396, R397). -/
def State.storeMem (s : State) (w : BitVec 2) (a : Reg) (imm : BitVec 16) (bs : List Byte) (pair : Bool) : Out :=
  s.withAccess w .store .wr (s.reg a) (disp16 imm) bs.length fun segs =>
    match segs with
    | [g] =>
      match g.loc with
      | .window _ => .next s.advance
      | .event _ off =>
        let fixes := match evReg off with | .line _ | .mutex _ => true | _ => false
        s.sendWrite (.eventStore off (BitVec.ofNat 64 (leNat bs))) segs .none fixes
      | l =>
        let ps := withData (if pair then halves g else [g]) (bs.map some)
        if l.inSlots bs.length then .next (if s.slotBusy ps then s.waiting .stall else (s.slotStore ps).advance)
        else s.sendWrite .store ps .none false
    | _ => .next s

def execSt (w : BitVec 2) (n : MemWidth) (d a : Reg) (imm : BitVec 16) (s : State) : Out :=
  s.storeMem w a imm (toLe (memBytes n) (s.reg d).toNat) false
def execStp (w : BitVec 2) (d a b : Reg) (imm : BitVec 16) (s : State) : Out :=
  s.storeMem w a imm (wordLe (s.reg d) ++ wordLe (s.reg b)) true

/-- An atomic (R335); ACAS compares with sD. -/
def State.atomicAt (s : State) (op : AtomOp) (w : BitVec 2) (n : AWidth) (d a b : Reg) (imm : BitVec 16) : Out :=
  s.withAccess w .atomic .at (s.reg a) (disp16 imm) (aBytes n) fun segs =>
    s.sendWrite (.atomic op n (s.reg b) (s.reg d)) (withData segs (List.replicate (aBytes n) (some 0)))
      (if d = 0 then .none else .atomic d n) true

def execAadd (w : BitVec 2) (n : AWidth) (d a b : Reg) (imm : BitVec 16) (s : State) : Out := s.atomicAt .add w n d a b imm
def execAmin (w : BitVec 2) (n : AWidth) (d a b : Reg) (imm : BitVec 16) (s : State) : Out := s.atomicAt .min w n d a b imm
def execAmax (w : BitVec 2) (n : AWidth) (d a b : Reg) (imm : BitVec 16) (s : State) : Out := s.atomicAt .max w n d a b imm
def execAminu (w : BitVec 2) (n : AWidth) (d a b : Reg) (imm : BitVec 16) (s : State) : Out := s.atomicAt .minu w n d a b imm
def execAmaxu (w : BitVec 2) (n : AWidth) (d a b : Reg) (imm : BitVec 16) (s : State) : Out := s.atomicAt .maxu w n d a b imm
def execAand (w : BitVec 2) (n : AWidth) (d a b : Reg) (imm : BitVec 16) (s : State) : Out := s.atomicAt .and w n d a b imm
def execAor (w : BitVec 2) (n : AWidth) (d a b : Reg) (imm : BitVec 16) (s : State) : Out := s.atomicAt .or w n d a b imm
def execAxor (w : BitVec 2) (n : AWidth) (d a b : Reg) (imm : BitVec 16) (s : State) : Out := s.atomicAt .xor w n d a b imm
def execAswp (w : BitVec 2) (n : AWidth) (d a b : Reg) (imm : BitVec 16) (s : State) : Out := s.atomicAt .swp w n d a b imm
def execAcas (w : BitVec 2) (n : AWidth) (d a b : Reg) (imm : BitVec 16) (s : State) : Out := s.atomicAt .cas w n d a b imm
def execAfaddF32 (w : BitVec 2) (d a b : Reg) (imm : BitVec 16) (s : State) : Out := s.atomicAt .fadd32 w .w32 d a b imm
def execAfaddF64 (w : BitVec 2) (d a b : Reg) (imm : BitVec 16) (s : State) : Out := s.atomicAt .fadd64 w .w64 d a b imm

/-- What WAITA refuses beyond a load (R455). -/
def waitaRefuses : Loc → Option Nat
  | .event .. | .window _ => some 0x02
  | l => if l.inSlots 8 then some 0x04 else none

/-- WAITA: an acquire at which the strand stands until the word differs or a latch passes it (R213, R455). -/
def execWaita (w : BitVec 2) (d a b : Reg) (imm : BitVec 16) (s : State) : Out :=
  match effAddr (s.reg a) (disp16 imm) with
  | none => .next (s.raise 0x03 0x05 (rawAddr (s.reg a) (disp16 imm)))
  | some ad =>
    if s.classBusy w then .next (s.waiting .stall)
    else if ad % 8 ≠ 0 then .next (s.raise 0x03 0x01 (BitVec.ofNat 64 ad))
    else
      match s.xlateAll s.agent s.asid s.vcn s.pos .rd [(ad, 8)] with
      | .error f => .next (s.raiseFail f)
      | .ok segs =>
        match (segs.findSome? fun g => waitaRefuses g.loc), s.firstRefusal s.pcn s.holdsSlot .load 8 segs with
        | some k, _ => .next (s.raise 0x03 k (BitVec.ofNat 64 ad))
        | none, some f => .next (s.raiseFail f)
        | none, none =>
          let k := s.classes segs
          if s.full true k then .next (s.waiting .stall)
          else
            let s1 := s.fixWindow
            let susp := suspendable (.waita w d a b imm)
            if s.cur.str.passLatch then
              .next ((((s1.setStr fun x => { x with passLatch := false }).issue .load segs k (.scalar d .d64)).gateLast susp).happen s.vcn 0x0C 1)
            else .next ((s1.issue (.waita (s.reg b)) segs k (.scalar d .d64)).gateLast susp)

end Sys2Proof.Machine
end

