-- ==== Sys2Proof/Machine/TileOps.lean ====
section
/-! DEFINITION. What tile instructions at L1 and above read and write: descriptors and their byte ranges, leaf units, the results of leaves, and their writes through the homes (R63, R67 to R74, R83, R144, R161, R162, R404 to R425). -/

namespace Sys2Proof.Machine

/-! Descriptors (R63, R64, R144). -/

/-- BASE is aligned for the format (R144). -/
def baseAligned (f : Fmt) (base : Nat) : Bool :=
  match f.bits with
  | 32 => base % 4 == 0
  | 16 => base % 2 == 0
  | _ => true

/-- Read a descriptor; none where check DESC of R64 fails. -/
def descOf (bs : List Byte) : Option Desc :=
  match fmtOf (BitVec.ofNat 5 (field bs 8 1)) with
  | none => none
  | some f =>
    if field bs 7 1 ≠ 0 ∨ 32 ≤ field bs 8 1 ∨ field bs 9 3 ≠ 0 ∨ field bs 0x1D 3 ≠ 0 ∨ field bs 0x25 3 ≠ 0 ∨ field bs 0x2F 1 ≠ 0
        ∨ field bs 0x35 3 ≠ 0 ∨ field bs 0x3D 3 ≠ 0 ∨ field bs 0x0C 4 = 0 ∨ field bs 0x10 4 = 0 ∨ f = .raw
        ∨ !baseAligned f (field bs 0 7) then none
    else some { base := field bs 0 7, fmt := f, rows := field bs 0x0C 4, cols := field bs 0x10 4, gscalestride := field bs 0x14 4
                rowstride := field bs 0x18 5, gstride := field bs 0x20 5, scalebase := field bs 0x28 7, scalestride := field bs 0x30 5
                kbstride := field bs 0x38 5 }

/-- A run of elements in consecutive bytes: address, bytes, half-bytes to skip before the first (4-bit containers), elements. -/
structure Run where
  va : Nat
  n : Nat
  skip : Nat
  cnt : Nat
  deriving DecidableEq, Repr

def runAt (bits base c0 cnt : Nat) : Run :=
  let lo := c0 * bits / 8
  { va := base + lo, n := ((c0 + cnt) * bits + 7) / 8 - lo, skip := if bits = 4 then c0 % 2 else 0, cnt := cnt }

def Desc.blockBytes (d : Desc) : Nat := 48 * d.fmt.bits / 8
def Desc.rowBase (d : Desc) (g n : Nat) : Nat := d.base + g * d.gstride + n * d.rowstride

/-- The runs of columns c0 to c0 + cnt − 1 of a row (R63). -/
def Desc.runs (d : Desc) (g n c0 cnt : Nat) : List Run :=
  if cnt = 0 then []
  else if d.kbstride = 0 ∨ d.kbstride = d.blockBytes then [runAt d.fmt.bits (d.rowBase g n) c0 cnt]
  else
    (List.range ((c0 + cnt - 1) / 48 + 1 - c0 / 48)).map fun i =>
      let b := c0 / 48 + i
      let j0 := max c0 (48 * b) - 48 * b
      let j1 := min (c0 + cnt) (48 * b + 48) - 48 * b
      runAt d.fmt.bits (d.rowBase g n + b * d.kbstride) j0 (j1 - j0)

/-- The scale bytes of the blocks that hold those columns: address and bytes. -/
def Desc.scales (d : Desc) (g n c0 cnt : Nat) : List (Nat × Nat) :=
  if d.fmt.hasScale ∧ cnt ≠ 0 then
    [(d.scalebase + g * d.gscalestride + n * d.scalestride + c0 / 48, (c0 + cnt - 1) / 48 + 1 - c0 / 48)]
  else []

/-- The element and scale bytes of columns of a row. -/
def Desc.pieces (d : Desc) (g n c0 cnt : Nat) : List (Nat × Nat) := ((d.runs g n c0 cnt).map fun r => (r.va, r.n)) ++ d.scales g n c0 cnt

/-- The element and scale bytes of an operand, groups g0 to g0 + ng − 1 (R74, R404). -/
def Desc.allPieces (d : Desc) (g0 ng : Nat) : List (Nat × Nat) :=
  (List.range ng).flatMap fun g => (List.range d.rows).flatMap fun n => d.pieces (g0 + g) n 0 d.cols

/-- The span of an operand, from its lowest to one past its highest element or scale byte (R77): the one lies in its first block, the other in the last two of its last row, of which the last may be partial. -/
def Desc.span (d : Desc) (g0 ng : Nat) : Nat × Nat :=
  let c := 48 * ((d.cols - 1) / 48 - 1)
  let first := d.pieces g0 0 0 (min 48 d.cols)
  let last := d.pieces (g0 + ng - 1) (d.rows - 1) c (d.cols - c)
  ((first.map fun p => p.1).foldl min (d.rowBase g0 0), (last.map fun p => p.1 + p.2).foldl max 0)

/-- The element and scale bytes of rows n0 to n0 + nn − 1 and columns c0 to c0 + cnt − 1. -/
def Desc.block (d : Desc) (g n0 nn c0 cnt : Nat) : List (Nat × Nat) := (List.range nn).flatMap fun i => d.pieces g (n0 + i) c0 cnt

def Desc.count (d : Desc) : Nat := d.rows * d.cols

/-! Elements and bytes. -/

/-- The elements of a run's bytes. -/
def runElems (bits skip cnt : Nat) (bs : List Byte) : List Nat :=
  if bits = 4 then ((bs.flatMap fun b => [b.toNat % 16, b.toNat / 16]).drop skip).take cnt
  else (List.range cnt).map fun i => field bs (i * (bits / 8)) (bits / 8)

def nibblesBytes : List Nat → List Byte
  | [] => []
  | [a] => [BitVec.ofNat 8 (a % 16)]
  | a :: b :: t => BitVec.ofNat 8 (a % 16 + 16 * (b % 16)) :: nibblesBytes t

/-- The bytes of elements in a run; old: the bytes there, for the half-bytes that are not written. -/
def runBytes (bits : Nat) (r : Run) (es : List Nat) (old : List Byte) : List Byte :=
  if bits = 4 then
    let ns := old.flatMap fun b => [b.toNat % 16, b.toNat / 16]
    nibblesBytes (ns.take r.skip ++ es ++ ns.drop (r.skip + es.length))
  else es.flatMap fun e => toLe (bits / 8) e

/-! Access at the homes under the root's context (R74, R167, R170). -/

/-- What a place refuses to a tile piece: the position of the issuing core too, where the cluster that hosts it now has none there (R12, R170). -/
def State.tileRefuses (s : State) (l : Loc) (n : Nat) : Option (Nat × Nat) :=
  match l with
  | .core v p o _ => if l.inSlots n then some (0x03, 0x04) else if !(s.mapNow v).valid then some (0x03, 0x07) else s.homeFault (.core v p o false)
  | .cluster v _ => if (s.mapNow v).valid then s.homeFault l else some (0x03, 0x07)
  | .chiplet .. => s.homeFault l
  | .hbm .. => if (s.homeKey l).isSome then none else some (0x03, 0x08)
  | _ => some (0x03, 0x02)

/-- The core that holds the pieces of a tile instruction at L1 (R61). DEDUCED (log 166): where a step has left its position without a live core, the lowest live one takes them, as it takes the strand (R12, R384). -/
def State.pieceCore (s : State) (r : TileRoot) : Nat :=
  let pcn := s.host r.vcn
  pcn * 8 + if s.live pcn (r.core % 8) then r.core % 8 else ((List.range 8).filter (s.live pcn)).headD (r.core % 8)

/-- A root seen from one of its leaves: where that leaf runs, and what has been copied for it. -/
def TileRoot.via (r : TileRoot) (l : Leaf) : TileRoot := { r with worker := l.vcn, copy := l.copy }

/-- Who translates for a tile piece: the core at L1, the cluster's staging port and task scheduler at L2, the copy engines of its chiplet above (R61, R177). -/
def State.tileAgent (s : State) (r : TileRoot) : Agent :=
  match r.level with
  | 0 | 1 => .core (s.pieceCore r)
  | 2 => .cluster (s.host r.worker)
  | _ => .chiplet (chipOf (s.host r.worker))

/-- The located pieces of n bytes. -/
def State.tilePieces (s : State) (r : TileRoot) (need : Need) (va n : Nat) : Except Fail (List Seg) :=
  if 2 ^ 56 < n + va then .error { cause := 0x03, sub := 0x05, addr := BitVec.ofNat 64 va }
  else
    match s.xlateAll (s.tileAgent r) r.asid r.vcn (r.core % 8) need (pagePieces (n / 2 ^ 16 + 2) va n) with
    | .error f => .error f
    | .ok segs =>
      match segs.findSome? fun g => (s.tileRefuses g.loc g.n).map fun k => ({ cause := k.1, sub := k.2, addr := g.va.zeroExtend 64 } : Fail) with
      | some f => .error f
      | none => .ok segs

/-- The bytes of a range that lies in a copied stretch. -/
def TileRoot.copied (r : TileRoot) (va n : Nat) : Option (List Byte) :=
  (r.copy.find? fun c => decide (c.1 ≤ va) && decide (va + n ≤ c.1 + c.2.length)).map fun c => (c.2.drop (va - c.1)).take n

/-- Read n bytes: as they were copied, or where they lie (R74). -/
def State.tileRead (s : State) (r : TileRoot) (va n : Nat) : Except Fail (List Byte) :=
  match r.copied va n with
  | some bs => .ok bs
  | none =>
    match s.tilePieces r .rd va n with
    | .error f => .error f
    | .ok segs => s.readSegs segs

/-- Read several ranges. -/
def State.tileReads (s : State) (r : TileRoot) : List (Nat × Nat) → Except Fail (List (List Byte))
  | [] => .ok []
  | (va, n) :: t =>
    match s.tileRead r va n with
    | .error f => .error f
    | .ok b =>
      match s.tileReads r t with
      | .error f => .error f
      | .ok bs => .ok (b :: bs)

/-- The bits of columns of a row. -/
def State.tileBits (s : State) (r : TileRoot) (d : Desc) (g n c0 cnt : Nat) : Except Fail (List Nat) :=
  let rs := d.runs g n c0 cnt
  match s.tileReads r (rs.map fun x => (x.va, x.n)) with
  | .error f => .error f
  | .ok bs => .ok (List.zipWith (fun x b => runElems d.fmt.bits x.skip x.cnt b) rs bs).flatten

/-- The scale bytes of the blocks of those columns. -/
def State.tileScales (s : State) (r : TileRoot) (d : Desc) (g n c0 cnt : Nat) : Except Fail (List Nat) :=
  match s.tileReads r (d.scales g n c0 cnt) with
  | .error f => .error f
  | .ok bs => .ok (bs.flatten.map fun b => b.toNat)

/-- The exact values of columns of a row (R146, R150, R151). -/
def State.tileVals (s : State) (r : TileRoot) (d : Desc) (g n c0 cnt : Nat) : Except Fail (List FVal) :=
  match s.tileBits r d g n c0 cnt, s.tileScales r d g n c0 cnt with
  | .error f, _ => .error f
  | _, .error f => .error f
  | .ok es, .ok xs => .ok (es.mapIdx fun i e => elemVal d.fmt (xs.getD ((c0 + i) / 48 - c0 / 48) 0) e)

/-- Collect a list of answers. -/
def collect {α : Type} : List (Except Fail α) → Except Fail (List α)
  | [] => .ok []
  | .error f :: _ => .error f
  | .ok a :: t =>
    match collect t with
    | .error f => .error f
    | .ok as => .ok (a :: as)

/-- The writes of columns of a row: address and bytes. -/
def State.tileRow (s : State) (r : TileRoot) (d : Desc) (n c0 : Nat) (es scales : List Nat) : Except Fail (List (Nat × List Byte)) :=
  let rs := d.runs 0 n c0 es.length
  let parts := (List.range rs.length).map fun i =>
    let x := rs.getD i { va := 0, n := 0, skip := 0, cnt := 0 }
    let mine := (es.drop (((rs.take i).map fun y => y.cnt).sum)).take x.cnt
    if d.fmt.bits = 4 ∧ (x.skip ≠ 0 ∨ (x.skip + x.cnt) % 2 ≠ 0) then
      match s.tileRead { r with copy := [] } x.va x.n with
      | .error f => .error f
      | .ok old => .ok (x.va, runBytes 4 x mine old)
    else .ok (x.va, runBytes d.fmt.bits x mine [])
  match collect parts with
  | .error f => .error f
  | .ok ws => .ok (ws ++ (d.scales 0 n c0 es.length).map fun p => (p.1, scales.map fun x => BitVec.ofNat 8 x))

/-! Writing. -/

def State.root? (s : State) (seq : Nat) : Option TileRoot := s.tiles.find? fun r => r.seq == seq
def State.modRoot (s : State) (seq : Nat) (f : TileRoot → TileRoot) : State :=
  { s with tiles := s.tiles.map fun r => if r.seq = seq then f r else r }
def State.modLeaf (s : State) (seq idx : Nat) (f : Leaf → Leaf) : State :=
  s.modRoot seq fun r => { r with leaves := r.leaves.map fun l => if l.idx = idx then f l else l }

/-- The pieces of a write with their logged parts, under the logging mode at issue (R83, R221, R404). -/
def State.tileSegs (s : State) (r : TileRoot) (va n : Nat) : Except Fail (List Seg) :=
  match s.tilePieces r .wr va n with
  | .error f => .error f
  | .ok segs => .ok (segs.map fun g => { g with parts := s.engineParts r.mode g })

/-- Take out of a reservation what has been written. -/
def takeRsv (rsv req : List (Nat × Nat)) : List (Nat × Nat) := req.foldl List.erase rsv

/-- Write the pieces, logged, or stop at the first fault. -/
def State.tilePut (s : State) (r : TileRoot) : List Seg → List Byte → Except (State × Fail) State
  | [], _ => .ok s
  | g :: t, bs =>
    let d := (bs.take g.n).map some
    let a := s.homeFlat g.loc
    match writeErr s.mem s.lostDies (s.homeKey g.loc) g.n a d with
    | some x => .error (s, errFail x g.va.toNat a)
    | none =>
      let s0 := s.modRoot r.seq fun x => { x with rsv := takeRsv x.rsv (s.segsReq [g]) }
      match s0.appendParts r.asid r.win r.winStamp .engine g.parts with
      | .error (s1, e) => .error (s1, { cause := e.cause, sub := e.sub, addr := e.addr })
      | .ok s1 => ((s1.loggedBytes r.vcn g.parts).putHome g.loc d).tilePut r t (bs.drop g.n)

def State.tileWrites (s : State) (r : TileRoot) : List (Nat × List Byte) → Except (State × Fail) State
  | [] => .ok s
  | (va, bs) :: t =>
    match s.tileSegs r va bs.length with
    | .error f => .error (s, f)
    | .ok segs =>
      match s.tilePut r segs bs with
      | .error e => .error e
      | .ok s1 => s1.tileWrites r t

/-! Leaf units (R67, R68). -/

def leafTiles (g rows cols : Nat) : List (Nat × Nat × Nat × Nat × Nat) :=
  (List.range ((rows + 127) / 128)).flatMap fun i => (List.range ((cols + 127) / 128)).map fun j =>
    (g, 128 * i, min 128 (rows - 128 * i), 128 * j, min 128 (cols - 128 * j))

/-- Cut n in pieces of k: start and size. -/
def cutBy (n k : Nat) : List (Nat × Nat) := (List.range ((n + k - 1) / k)).map fun i => (k * i, min k (n - k * i))

/-- Elements of the longest cut of a long row: whole 48-element blocks within 16 KiB, and whole stretches of 256 bytes where the class demands them. DESIGN CHOICE (log 146): R67 does not say whether scale bytes count toward the 16 KiB; here element bytes alone do. -/
def rowCut (conv : Bool) (f : Fmt) : Nat :=
  let unit := if conv || f.hasScale then 48 else 48 * (256 / Nat.gcd (48 * f.bits / 8) 256)
  let fit := 16384 * 8 / f.bits / unit
  unit * max 1 fit

def itemsPerLeaf : Nat := 3072

/-- Insert by a key, after those with the same key. -/
def insertKey {α : Type} (key : α → Nat) (x : α) : List α → List α
  | [] => [x]
  | y :: t => if key x < key y then x :: y :: t else y :: insertKey key x t

/-- Sorted by a key, those with the same key in their order. -/
def sortKey {α : Type} (key : α → Nat) (l : List α) : List α := l.foldl (fun acc x => insertKey key x acc) []

/-- Where a column of a row begins. -/
def Desc.elemAt (d : Desc) (n c : Nat) : Nat := ((d.runs 0 n c 1).map fun x => x.va).headD 0

/-- The leaves of an instruction, in order (R68): group, first row and rows, first column and columns. -/
def TileRoot.leafUnits (r : TileRoot) : List (Nat × Nat × Nat × Nat × Nat) :=
  let d := r.d
  match r.kind with
  | .mma .. => leafTiles 0 d.rows d.cols
  | .mmag .. => (r.groups.zipIdx.flatMap fun g => leafTiles g.2 g.1.2 d.cols)
  | .trans => leafTiles 0 d.rows d.cols
  | .sortc | .compact => (cutBy ((r.a.getD {}).count) itemsPerLeaf).map fun p => (0, 0, 0, p.1, p.2)
  | .red =>
    let per := max 1 (16384 * 8 / d.fmt.bits)
    if d.cols = 1 then (cutBy d.rows per).map fun p => (0, p.1, p.2, 0, 1) else (cutBy d.cols per).map fun p => (0, 0, 1, p.1, p.2)
  | k =>
    if k = .baq ∧ r.level = 5 then
      sortKey (fun u => d.elemAt u.2.1 u.2.2.2.1) ((List.range d.rows).flatMap fun n => (cutBy d.cols 48).map fun p => (0, n, 1, p.1, p.2))
    else
      let conv := k == .cvt || k == .baq
      let rb := (d.cols * d.fmt.bits + 7) / 8
      if rb ≤ 16384 then (cutBy d.rows (16384 / rb)).map fun p => (0, p.1, p.2, 0, d.cols)
      else sortKey (fun u => d.elemAt u.2.1 u.2.2.2.1) ((List.range d.rows).flatMap fun n => (cutBy d.cols (rowCut conv d.fmt)).map fun p => (0, n, 1, p.1, p.2))

/-- The first row of D that a leaf's rows are counted from. -/
def TileRoot.leafRow (r : TileRoot) (l : Leaf) : Nat := ((r.groups.getD l.group (0, 0)).1) + l.rowOrg

/-- The row and column of an item of D, in row-major order. -/
def Desc.itemAt (d : Desc) (i : Nat) : List (Nat × Nat) := d.pieces 0 (i / d.cols) (i % d.cols) 1

/-- TBAQ at L5, whose residual is written too (R309, R407). -/
def TileRoot.gateway (r : TileRoot) : Bool := r.kind == .baq && r.level == 5

/-- The byte ranges that an instruction writes, write by write (R404). -/
def TileRoot.destPieces (r : TileRoot) : List (Nat × Nat) :=
  match r.kind with
  | .sortc => ((List.range (r.a.getD {}).count).flatMap r.d.itemAt) ++ [(r.recVa + 16, 4 * r.keys)]
  | .compact => ((List.range (r.a.getD {}).count).flatMap r.d.itemAt) ++ [(r.recVa, 8)]
  | _ => r.leafUnits.flatMap fun u =>
    (List.range u.2.2.1).flatMap fun i =>
      r.d.pieces 0 ((r.groups.getD u.1 (0, 0)).1 + u.2.1 + i) u.2.2.2.1 u.2.2.2.2 ++
        (match r.b with | some b => if r.gateway then b.pieces 0 (u.2.1 + i) u.2.2.2.1 u.2.2.2.2 else [] | none => [])

/-- The groups of the B operand: the first, and how many. -/
def TileRoot.groupsOf (r : TileRoot) : Nat × Nat := match r.kind with | .mmag .. => (r.gbase, r.groups.length) | _ => (0, 1)

/-- The record, the count record or the count word: its bytes, and whether it is written. -/
def TileRoot.recOperand (r : TileRoot) : Bool × List (Nat × Nat) :=
  match r.kind with
  | .mmag .. => (false, [(r.recVa, 256)])
  | .sortc => (true, [(r.recVa, 256)])
  | .compact => (true, [(r.recVa, 8)])
  | _ => (false, [])

/-- The operands: D, A, B, C and the record; whether each is written, and its bytes (R74, R404). -/
def TileRoot.operands (r : TileRoot) : List (Bool × List (Nat × Nat)) :=
  let bytes : Option Desc → Nat × Nat → List (Nat × Nat) := fun o g => (o.map fun d => d.allPieces g.1 g.2).getD []
  [(true, r.d.allPieces 0 1), (false, bytes r.a (0, 1)), (r.gateway, bytes r.b r.groupsOf), (false, bytes r.c (0, 1)), r.recOperand]

/-- The span of each operand, and whether it is written (R77). -/
def TileRoot.spansOf (r : TileRoot) : List (Nat × Nat × Bool) :=
  let one : Bool → Option Desc → Nat × Nat → List (Nat × Nat × Bool) := fun w o g =>
    (o.map fun d => ((d.span g.1 g.2).1, (d.span g.1 g.2).2, w)).toList
  one true (some r.d) (0, 1) ++ one false r.a (0, 1) ++ one r.gateway r.b r.groupsOf ++ one false r.c (0, 1) ++
    r.recOperand.2.map fun p => (p.1, p.1 + p.2, r.recOperand.1)

/-- A leaf number at or above this names the share of another panel (R62, log 43). -/
def farVcn : Nat := 4096
def Leaf.far (l : Leaf) : Bool := decide (farVcn ≤ l.vcn)

/-- What a leaf uses of each operand, in the order of the operands; the record stays in use until the last leaf has ended. The share of another panel uses that panel's. -/
def TileRoot.leafOperands (r : TileRoot) (l : Leaf) : List (List (Nat × Nat)) :=
  let use : Option Desc → (Desc → List (Nat × Nat)) → List (Nat × Nat) := fun o f => (o.map f).getD []
  let row := r.leafRow l
  if l.far then []
  else match r.kind with
  | .mma .. | .mmag .. =>
    [r.d.block 0 row l.rowCnt l.colOrg l.colCnt, use r.a fun x => x.block 0 row l.rowCnt 0 x.cols,
     use r.b fun x => x.block (r.groupsOf.1 + l.group) l.colOrg l.colCnt 0 x.cols, use r.c fun x => x.block 0 row l.rowCnt l.colOrg l.colCnt,
     r.recOperand.2]
  | .trans => [r.d.block 0 row l.rowCnt l.colOrg l.colCnt, use r.a fun x => x.block 0 l.colOrg l.colCnt l.rowOrg l.rowCnt, [], [], []]
  | .red => [r.d.block 0 row l.rowCnt l.colOrg l.colCnt,
             use r.a fun x => if bitsOf r.word 26 26 = 1 then x.block 0 0 x.rows l.colOrg l.colCnt else x.block 0 l.rowOrg l.rowCnt 0 x.cols, [], [], []]
  | .sortc | .compact =>
    let items : Desc → List (Nat × Nat) := fun x => (List.range l.colCnt).flatMap fun i => x.itemAt (l.colOrg + i)
    [r.d.allPieces 0 1, use r.a items, use r.b items, [], r.recOperand.2]
  | _ =>
    let block : Desc → List (Nat × Nat) := fun x => x.block 0 row l.rowCnt l.colOrg l.colCnt
    [block r.d, use r.a block, use r.b block, [], []]

/-! Results. -/

/-- Consecutive groups of k. fuel: at least the groups. -/
def chunksOf {α : Type} (k : Nat) : Nat → List α → List (List α)
  | 0, _ => []
  | fuel + 1, l => if l.isEmpty then [] else l.take k :: chunksOf k fuel (l.drop k)

/-- Values converted to a format: bits and scale bytes; i0 is the STOCH index of the first (R155 to R158). -/
def convRow (f : Fmt) (c : Rcw) (i0 : Nat) (vs : List FVal) : List Nat × List Nat :=
  if f.hasScale then
    let qs := (chunksOf 48 (vs.length + 1) vs).mapIdx fun k b => requantise f c (i0 + 48 * k) b
    (qs.flatMap fun q => q.2, qs.map fun q => q.1)
  else (vs.mapIdx fun k v => convElem f c (i0 + k) v, [])

/-- A reduced line (R422): the sum exactly, or max and min by R153. -/
def reduceLine (op : Nat) (vs : List FVal) : FVal :=
  match op, vs with
  | 0, _ => FVal.sum vs
  | 1, v :: t => t.foldl FVal.fmax v
  | _, v :: t => t.foldl FVal.fmin v
  | _, [] => FVal.sum []

/-- The value of TFILL (R414). -/
def fillVal (f : Fmt) (w : Word) : FVal := if f.isInt then FVal.ofInt w.toInt else fp64.val w.toNat

/-- Op and axis of TRED (R422). -/
def redOp (w : Word) : Nat := bitsOf w 25 24
def redAxis (w : Word) : Bool := bitsOf w 26 26 == 1

def TileRoot.rcw (r : TileRoot) : Rcw := (rcwOf r.word).getD (rcwRne true)

/-- One row of a leaf of an element-wise or conversion instruction: bits and scales. -/
def State.leafRowResult (s : State) (r : TileRoot) (n c0 cnt : Nat) : Except Fail (List Nat × List Nat) :=
  let i0 := n * r.d.cols + c0
  let a := r.a.getD {}
  match r.kind with
  | .mov =>
    match s.tileBits r a 0 n c0 cnt, s.tileScales r a 0 n c0 cnt with
    | .ok e, .ok x => .ok (e, x)
    | .error f, _ => .error f
    | _, .error f => .error f
  | .fill => .ok (convRow r.d.fmt (rcwRne false) i0 (List.replicate cnt (fillVal r.d.fmt r.word)))
  | k =>
    match s.tileVals r a 0 n c0 cnt with
    | .error f => .error f
    | .ok av =>
      let c := if k = .cvt ∨ k = .baq then r.rcw else rcwRne true
      match r.b with
      | none => .ok (convRow r.d.fmt c i0 av)
      | some b =>
        match s.tileVals r b 0 n c0 cnt with
        | .error f => .error f
        | .ok bv => .ok (convRow r.d.fmt c i0 (List.zipWith (if k = .mul then FVal.mul else FVal.add) av bv))

/-- The writes of a leaf that is no product and no sort. -/
def State.leafWrites (s : State) (r : TileRoot) (l : Leaf) : Except Fail (List (Nat × List Byte)) :=
  let a := r.a.getD {}
  let r := r.via l
  let ws : List (Except Fail (List (Nat × List Byte))) :=
    match r.kind with
    | .red =>
      if redAxis r.word then
        let line : Nat → Except Fail FVal := fun j =>
          match collect ((List.range a.rows).map fun n => s.tileVals r a 0 n j 1) with
          | .error f => .error f
          | .ok vs => .ok (reduceLine (redOp r.word) vs.flatten)
        [match collect ((List.range l.colCnt).map fun j => line (l.colOrg + j)) with
         | .error f => .error f
         | .ok vs => s.tileRow r r.d 0 l.colOrg (vs.map fun v => convElem r.d.fmt (rcwRne true) 0 v) []]
      else
        (List.range l.rowCnt).map fun i =>
          match s.tileVals r a 0 (l.rowOrg + i) 0 a.cols with
          | .error f => .error f
          | .ok vs => s.tileRow r r.d (l.rowOrg + i) 0 [convElem r.d.fmt (rcwRne true) 0 (reduceLine (redOp r.word) vs)] []
    | .trans =>
      (List.range l.rowCnt).map fun i =>
        match collect ((List.range l.colCnt).map fun j => s.tileBits r a 0 (l.colOrg + j) (l.rowOrg + i) 1) with
        | .error f => .error f
        | .ok es => s.tileRow r r.d (l.rowOrg + i) l.colOrg es.flatten []
    | _ =>
      (List.range l.rowCnt).map fun i =>
        match s.leafRowResult r (l.rowOrg + i) l.colOrg l.colCnt with
        | .error f => .error f
        | .ok (es, xs) => s.tileRow r r.d (l.rowOrg + i) l.colOrg es xs
  match collect ws with
  | .error f => .error f
  | .ok x => .ok x.flatten

/-- The operand blocks that the stager copies for a leaf, in ascending K (R74): C with the first block of a product. -/
def TileRoot.stagedPieces (r : TileRoot) (l : Leaf) : List (Nat × Nat) :=
  match r.kind with
  | .mma .. | .mmag .. =>
    let a := r.a.getD {}
    let b := r.b.getD {}
    (if l.kblk = 0 then (r.leafOperands l).getD 3 [] else []) ++
      (List.range (a.cols / 48 - l.kblk)).flatMap fun i =>
        let k := 48 * (l.kblk + i)
        a.block 0 (r.leafRow l) l.rowCnt k 48 ++ b.block (r.groupsOf.1 + l.group) l.colOrg l.colCnt k 48
  | _ => (((r.leafOperands l).drop 1).take 3).flatten

/-- What the stager copies for a leaf: the pieces that meet no fault (R74). -/
def State.stagedCopy (s : State) (r : TileRoot) (l : Leaf) : List (Nat × List Byte) :=
  (r.stagedPieces l).filterMap fun p =>
    match s.tileRead (r.via { l with copy := [] }) p.1 p.2 with
    | .ok bs => some (p.1, bs)
    | .error _ => none

/-! Products (R69, R161, R162, R416). -/

/-- The starting accumulators of a leaf: C, or zero. -/
def State.startAcc (s : State) (r : TileRoot) (l : Leaf) : Except Fail (List Nat) :=
  match r.c with
  | none => .ok (List.replicate (l.rowCnt * l.colCnt) 0)
  | some c =>
    match collect ((List.range l.rowCnt).map fun i => s.tileVals (r.via l) c 0 (r.leafRow l + i) l.colOrg l.colCnt) with
    | .error f => .error f
    | .ok rows => .ok (rows.flatten.map fun v => fp32.rne v)

/-- The operands of K-block b of a leaf: the rows of A, the rows of B. -/
def State.blockOps (s : State) (r : TileRoot) (l : Leaf) (b : Nat) : Except Fail (List (List FVal) × List (List FVal)) :=
  let g := match r.kind with | .mmag .. => r.gbase + l.group | _ => 0
  match collect ((List.range l.rowCnt).map fun i => s.tileVals (r.via l) (r.a.getD {}) 0 (r.leafRow l + i) (48 * b) 48),
        collect ((List.range l.colCnt).map fun j => s.tileVals (r.via l) (r.b.getD {}) g (l.colOrg + j) (48 * b) 48) with
  | .error f, _ => .error f
  | _, .error f => .error f
  | .ok x, .ok y => .ok (x, y)

/-- Add a K-block to the accumulators, one rounding each (R161). -/
def addBlocks (acc : List Nat) (as bs : List (List FVal)) : List Nat :=
  let w := bs.length
  acc.mapIdx fun i c => addBlock c (as.getD (i / w) []) (bs.getD (i % w) [])

/-- K-blocks of a product. -/
def TileRoot.kblocks (r : TileRoot) : Nat :=
  match r.kind with
  | .mma .. | .mmag .. => (r.a.getD {}).cols / 48
  | _ => 0

/-- The writes of a product leaf (R162). -/
def State.productWrites (s : State) (r : TileRoot) (l : Leaf) : Except Fail (List (Nat × List Byte)) :=
  let conv : Nat → Nat := fun c => if r.d.fmt = .f32 then c else convElem r.d.fmt (rcwRne true) 0 (fp32.val c)
  match collect ((List.range l.rowCnt).map fun i =>
      s.tileRow (r.via l) r.d (r.leafRow l + i) l.colOrg (((l.acc.drop (i * l.colCnt)).take l.colCnt).map conv) []) with
  | .error f => .error f
  | .ok x => .ok x.flatten

/-! Sort and compaction (R73, R408, R424). -/

/-- Items lo to lo + n − 1 of an operand, as bits. -/
def State.itemBits (s : State) (r : TileRoot) (d : Desc) (lo n : Nat) : Except Fail (List Nat) :=
  match collect ((List.range n).map fun i => s.tileBits r d 0 ((lo + i) / d.cols) ((lo + i) % d.cols) 1) with
  | .error f => .error f
  | .ok x => .ok x.flatten

def FVal.nonzero : FVal → Bool
  | .num _ m _ => m != 0
  | _ => true

/-- The mask of items lo to lo + n − 1: kept where non-zero; as it was read once, or read now (R71, R408). -/
def State.itemMask (s : State) (r : TileRoot) (lo n : Nat) : Except Fail (List Bool) :=
  match r.mask with
  | some m => .ok ((m.drop lo).take n)
  | none =>
    let b := r.b.getD {}
    match collect ((List.range n).map fun i => s.tileVals r b 0 ((lo + i) / b.cols) ((lo + i) % b.cols) 1) with
    | .error f => .error f
    | .ok x => .ok (x.flatten.map FVal.nonzero)

/-- The class of each item of a leaf: its key, the dropped as one further key; kept 0, not kept 1. -/
def State.itemKeys (s : State) (r : TileRoot) (l : Leaf) : Except Fail (List Nat) :=
  match r.kind with
  | .sortc =>
    match s.itemBits (r.via l) (r.a.getD {}) l.colOrg l.colCnt with
    | .error f => .error f
    | .ok ks => .ok (ks.map fun k => min k r.keys)
  | _ =>
    match s.itemMask r l.colOrg l.colCnt with
    | .error f => .error f
    | .ok ms => .ok (ms.map fun m => if m then 0 else 1)

def TileRoot.classes (r : TileRoot) : Nat := match r.kind with | .sortc => r.keys + 1 | _ => 2

/-- How many items of each class. -/
def tally (n : Nat) (ks : List Nat) : List Nat := (List.range n).map fun k => (ks.filter (· == k)).length

/-- The place in D of each item: the first place of its class in this leaf, and the items before it of the class. -/
def placesOf (first : List Nat) : List Nat → List Nat
  | [] => []
  | k :: t => first.getD k 0 :: placesOf (first.set k (first.getD k 0 + 1)) t

/-- The first place of each class in a leaf: the totals of lower classes, and the counts of earlier leaves. -/
def TileRoot.offsets (r : TileRoot) (l : Leaf) : List Nat :=
  let total : Nat → Nat := fun k => (r.leaves.map fun x => x.acc.getD k 0).sum
  (List.range r.classes).map fun k =>
    ((List.range k).map total).sum + ((r.leaves.filter fun x => decide (x.idx < l.idx)).map fun x => x.acc.getD k 0).sum

/-- An item of this class is written: TCOMPACT writes the kept ones alone. -/
def TileRoot.keeps (r : TileRoot) (k : Nat) : Bool := match r.kind with | .sortc => true | _ => k == 0

/-- The places of D that the second phase of a leaf writes. -/
def State.spotsOf (s : State) (r : TileRoot) (l : Leaf) : List Nat :=
  match s.itemKeys r l with
  | .ok ks => ((List.zip ks (placesOf (r.offsets l) ks)).filter fun x => r.keeps x.1).map fun x => x.2
  | .error _ => []

/-- The writes of the second phase of a leaf. -/
def State.placeWrites (s : State) (r : TileRoot) (l : Leaf) : Except Fail (List (Nat × List Byte)) :=
  let a := r.a.getD {}
  match s.itemKeys r l with
  | .error f => .error f
  | .ok ks =>
    let ps := placesOf (r.offsets l) ks
    let vals : Except Fail (List Nat) := match r.kind with
      | .sortc => .ok ((List.range ks.length).map fun i => l.colOrg + i)
      | _ => s.itemBits (r.via l) a l.colOrg l.colCnt
    match vals with
    | .error f => .error f
    | .ok vs =>
      match collect (((List.zip ks (List.zip ps vs)).filter fun x => r.keeps x.1).map fun x =>
          s.tileRow (r.via l) r.d (x.2.1 / r.d.cols) (x.2.1 % r.d.cols) [x.2.2] []) with
      | .error f => .error f
      | .ok x => .ok x.flatten

/-- The counts that are written after every item (R408, R424). -/
def TileRoot.countWrites (r : TileRoot) : List (Nat × List Byte) :=
  let total : Nat → Nat := fun k => (r.leaves.map fun x => x.acc.getD k 0).sum
  match r.kind with
  | .sortc => [(r.recVa + 16, (List.range r.keys).flatMap fun k => toLe 4 (total k))]
  | _ => [(r.recVa, toLe 8 (total 0))]

/-! Abandoned pieces. -/

/-- The bytes of D, and the counts, that the faulted pieces of a sort leave without a result: every item's place but those that a finished piece has written (R82). -/
def TileRoot.unplaced (r : TileRoot) : List (Nat × Nat) :=
  let n := match r.kind with
    | .compact => if !r.leaves.isEmpty && r.leaves.all fun l => l.begun then (r.leaves.map fun x => x.acc.getD 0 0).sum else (r.a.getD {}).count
    | _ => (r.a.getD {}).count
  ((List.range n).filter fun i => !(r.leaves.any fun l => l.st == .done && l.spots.contains i)).flatMap r.d.itemAt ++
    (match r.kind with | .sortc => [(r.recVa + 16, 4 * r.keys)] | _ => [(r.recVa, 8)])

/-- The bytes that the faulted pieces leave without a result; a reduction of members that differ writes none (R407). -/
def TileRoot.lostPieces (r : TileRoot) : List (Nat × Nat) :=
  let bad := r.leaves.filter fun l => l.st == .faulted
  match r.kind with
  | .sortc | .compact => if bad.isEmpty && r.own.isNone then [] else r.unplaced
  | _ => bad.flatMap fun l => (r.leafOperands l).headD [] ++ (if r.gateway then (r.leafOperands l).getD 2 [] else [])

/-- The destination of a faulted piece takes free values (R82, log 17). -/
def State.freeDest (s : State) (r : TileRoot) (ps : List (Nat × Nat)) : State :=
  ps.foldl (fun s p =>
    let (bs, s1) := s.freeBytes p.2
    match s1.tileWrites r [(p.1, bs)] with
    | .ok s2 => s2
    | .error e => e.1) s

end Sys2Proof.Machine
end

