-- ==== Sys2Proof/Machine/Undo.lean ====
section
/-! DEFINITION. Undo windows: UWOPEN, UWNUM, UWSEAL, the walk of the ring, rollback and replay (R223 to R232, R430 to R432, R475). -/

namespace Sys2Proof.Machine

def WinState.code : WinState → Nat
  | .none => 0 | .opened => 1 | .fixed => 2 | .sealed => 3 | .truncated => 4

/-! The continuation record (R34, R35). -/

/-- Word 0 of a record. -/
def recWord0 (pc : BitVec 56) (retry : Bool) (slot : Option Nat) (saved pinned : Bool) (pos : Nat) : Word :=
  BitVec.ofNat 64 (pc.toNat / 2 * 2 + bit retry 0 + bit slot.isSome 56 + (slot.getD 0) * 2 ^ 57
    + (if slot.isSome || pinned then pos % 8 else 0) * 2 ^ 58 + bit saved 61 + bit pinned 62)

/-- The record of the running strand. -/
def State.recordImage (s : State) (pc : BitVec 56) (retry : Bool) : List Word :=
  recWord0 pc retry s.cur.str.slot false s.cur.str.pinned s.pos :: (List.range 7).map fun i => s.reg (BitVec.ofNat 4 (i + 1))
def State.highRegs (s : State) : List Word := (List.range 8).map fun i => s.reg (BitVec.ofNat 4 (i + 8))

def wordsBytes (ws : List Word) : List Byte := ws.flatMap wordLe
def bytesWords (n : Nat) (bs : List Byte) : List Word := (List.range n).map (dwordOf bs)

/-- The frames of the device's own tables: where the record of a strand lies in its pool (R31, R258). -/
def State.recordAt (s : State) (x : Strand) : Nat :=
  let off := match x.kernel.bind s.kernel?, x.serves.bind fun f => (s.ctx? x.asid).bind fun c => c.chain[f.chain]? with
    | some k, _ => k.hdr.pooloff
    | none, some e => e.hpool
    | none, none => 0
  clusterBase (s.host x.vcn) + off + 64 * x.recIdx

/-- Write a record in its pool, untorn; not logged (R36, R217). -/
def State.putRecord (s : State) (x : Strand) (ws : List Word) : State :=
  s.putBytes none (s.recordAt x) ((wordsBytes ws).map some)

/-- Registers from a record: s1 to s7, and s8 to s15 where they were kept. -/
def regsOf (ws high : List Word) : Vector Word 16 :=
  Vector.ofFn fun i : Fin 16 => if i.val = 0 then 0 else if i.val < 8 then ws.getD i.val 0 else high.getD (i.val - 8) 0

/-- The PC of a record's word 0. -/
def recPc (w : Word) : BitVec 56 := BitVec.ofNat 56 (w.toNat % 2 ^ 56 / 2 * 2)

/-- The strand gives its slot back unsaved (R41). -/
def State.releaseSlot (s : State) : State :=
  match s.cur.str.slot with
  | some k => { s with cur := { (s.cur.setSlot k none) with str := { s.cur.str with slot := none }, bypass := [] } }
  | none => s

/-! Windows. -/

/-- UWOPEN (R226). -/
def execUwopen (d : Reg) (s : State) : Out :=
  if !s.counts.zero then .next (s.waiting .stall)
  else if s.cur.str.slot.isSome then .next (s.raise 0x09 0x01)
  else if 8 ≤ d.toNat then .next (s.raise 0x09 0x02)
  else
    let l := s.log s.asid
    let n := l.next
    let named : State → State := fun t =>
      { (t.modLog t.asid fun l => { l with next := if n = 0xFFFFFFFF then 1 else n + 1 }) with
        cur := { t.cur with regs := regsOf (List.replicate 8 0 |>.mapIdx fun i _ => t.reg (BitVec.ofNat 4 i)) [] } }.setReg d (n.zeroExtend 64)
    if l.mode = 0 then
      .next (((named s.closeWindow).setStr fun x => { x with window := { num := n.toNat, st := .fixed, stamp := s.timeHere } }).advance)
    else
      match s.reserve s.asid [(s.chipHere, 128)] with
      | none => .next (s.raise 0x09 0x03)
      | some s1 =>
        let w := s1.cur.str.window
        let img := wordsBytes ((named s).recordImage s.nextPc false) ++ toLe 8 s.timeHere ++ toLe 4 w.num ++ toLe 1 w.st.code ++ [0, 0, 0]
        match s1.append s.asid s.chipHere .mark (s.vcn % 2 ^ 12 + s.cur.str.recIdx * 2 ^ 12) n.toNat s.timeHere img with
        | .error e => .next ((e.1.modLog s.asid fun l => l.subRsv [(s.chipHere, 32)]).raise 0x09 0x04 e.2.addr)
        | .ok (s2, off) =>
          .next (((named s2.closeWindow).setStr fun x =>
            { x with window := { num := n.toNat, st := .opened, stamp := s.timeHere, mark := some off, rsv := some s.chipHere } }).advance.happen s.vcn 0x07 96)

/-- UWNUM (R228). -/
def execUwnum (d : Reg) (s : State) : Out :=
  let w := s.cur.str.window
  .next (s.answer d (if w.st = .none then 0 else BitVec.ofNat 64 (w.num % 2 ^ 32 + w.st.code * 2 ^ 32)))

/-- UWSEAL (R432). -/
def execUwseal (s : State) : Out :=
  if !s.counts.zero then .next (s.waiting .stall)
  else
    match s.sealWindow none with
    | .full => .next (s.raise 0x09 0x03)
    | .refused s1 t => .next (s1.pend t).advance
    | .done s1 => .next s1.advance

/-! Walking the ring (R219, R231). -/

/-- An entry as the ring holds it. -/
structure Entry where
  off : Nat
  kind : Nat
  void : Bool
  win : Nat
  loc : Nat
  dstamp : Nat
  data : List Byte
  deriving DecidableEq, Repr

/-- The entries of a chunk's bytes, oldest first; a PAD ends it. fuel: at least the entries. -/
def entriesIn : Nat → Nat → List Byte → List Entry
  | 0, _, _ => []
  | fuel + 1, off, bs =>
    if bs.length < 32 then []
    else
      let w0 := BitVec.ofNat 64 (field bs 0 8)
      let n := 8 * (bitsOf w0 57 53 + 1)
      let k := bitsOf w0 60 58
      if k = 7 then []
      else
        { off := off, kind := k, void := bitsOf w0 61 61 == 1, win := field bs 8 4, loc := bitsOf w0 52 0, dstamp := field bs 12 4
          data := (bs.drop 16).take n } :: entriesIn fuel (off + entryBytes n) (bs.drop (entryBytes n))

/-- The chunks in use, oldest first. -/
def UndoLog.chunks (l : UndoLog) : List Nat := (List.range (l.used / chunkSize)).map fun i => (l.head + i * chunkSize) % l.size

/-- Every entry of the ring, oldest first in ring order. -/
def State.ringEntries (s : State) (asid : Nat) : List Entry :=
  let l := s.log asid
  l.chunks.flatMap fun c =>
    match s.devRead asid (l.base.toNat + c) (l.fills.getD c 0) with
    | .ok bs => entriesIn 256 c bs
    | .error _ => []

/-- Set VOID on an entry (R222). -/
def State.voidEntry (s : State) (asid : Nat) (e : Entry) : State :=
  match s.devRead asid ((s.log asid).base.toNat + e.off + 7) 1 with
  | .ok [b] => match s.ringWrite asid (e.off + 7) [b ||| 0x20] with
    | .ok t => t
    | .error _ => s
  | _ => s

def Entry.isWrite (e : Entry) : Bool := decide (1 ≤ e.kind) && decide (e.kind ≤ 4) && !e.void

/-- The pieces that an entry's old data goes back to: its virtual address under the context's page tables and rights, wherever a migration has taken it; none where they refuse it. A virtual address of a core's own scratchpad names no core: an entry that stands as the log writer left it goes to the scratchpad that the write was made in (log 16). -/
def State.entrySegs (s : State) (asid : Nat) (e : Entry) : List Seg :=
  let va := 8 * e.loc
  match s.xlateAll .device asid 0 0 .wr (pagePieces 3 va e.data.length) with
  | .error _ => []
  | .ok segs =>
    match (s.log asid).places.get? e.off, segs.any (fun g => match g.loc with | .core _ _ _ own => own | _ => false) with
    | some p, true => (match p.loc with
      | .core _ _ _ true => if p.va = va ∧ p.n = e.data.length then [{ va := BitVec.ofNat 56 va, loc := p.loc, n := p.n }] else []
      | _ => [])
    | _, _ => if (s.devFault false segs).isSome then [] else segs

/-- Write an entry's old data back piece by piece, but for bytes that these stretches cover; a piece whose home meets an error stays as it is. -/
def State.restoreSegs (s : State) (skip : List (Nat × Nat)) : List Seg → List Byte → State
  | [], _ => s
  | g :: t, bs =>
    let a := s.homeFlat g.loc
    let ds := (bs.take g.n).mapIdx fun j b => if skip.any fun k => decide (k.1 ≤ a + j) && decide (a + j < k.1 + k.2) then none else some b
    let s1 := if (s.homeFault g.loc).isSome || (writeErr s.mem s.lostDies (s.homeKey g.loc) g.n a ds).isSome then s else s.putHome g.loc ds
    s1.restoreSegs skip t (bs.drop g.n)

def State.restoreEntry (s : State) (asid : Nat) (e : Entry) (skip : List (Nat × Nat)) : State := s.restoreSegs skip (s.entrySegs asid e) e.data

/-- Restore the entries of a window, newest first; later: the stretches that entries of other windows wrote later in the ring. -/
def State.restoreWindow (s : State) (asid win : Nat) (later : List (Nat × Nat)) : List Entry → State
  | [] => s
  | e :: t =>
    if !e.isWrite then s.restoreWindow asid win later t
    else if e.win = win then ((s.restoreEntry asid e later).voidEntry asid e).restoreWindow asid win later t
    else s.restoreWindow asid win (((s.entrySegs asid e).map fun g => (s.homeFlat g.loc, g.n)) ++ later) t

/-- Steps 2 and 3 of rollback (R231); the ROLLBACK entry goes to the log writer that holds the window's standing reservation (R475). The answer holds the MARK's record image; DESIGN CHOICE (log 173): of a MARK whose chunk cannot be read, an image of free words. -/
def State.rollbackWindow (s : State) (asid chip v : Nat) (w : Window) : State × List Word :=
  let es := s.ringEntries asid
  let s1 := s.restoreWindow asid w.num [] es.reverse
  let (img, s1) := match es.find? fun e => some e.off = w.mark && e.kind == 0 with
    | some e => (bytesWords 8 e.data, s1)
    | none => s1.freeWords 8
  let s2 := match s1.append asid (w.rsv.getD chip) .rollback 0 w.num w.stamp (toLe 8 (w.mark.getD 0)) with
    | .ok (t, _) => t.happen v 0x07 32
    | .error e => e.1
  (s2, img)

/-- A strand's tile unit is free again. -/
def State.dropUnit (s : State) (x : Strand) : State :=
  match x.saved with
  | some (.unit u) => s.modCtx x.asid fun c => { c with units := c.units.filter (· != u) }
  | _ => s

/-- RunRollback for a strand: the record comes from the MARK, PINNED with it, s8 to s15 are zero, a tile slot is released without being saved, and a tile context that has been saved is given up: the MARK's image holds none (R226, R231). Its window takes a new standing reservation before the strand executes (R475). -/
def State.runRollback (s : State) (sid : Nat) : State :=
  match s.strand? sid with
  | none => s
  | some x =>
    let (s1, img) := s.rollbackWindow x.asid (chipOf (s.host x.vcn)) x.vcn x.window
    let due : Strand → Strand := fun x =>
      { x with rollbackDue := false, pinned := bitsOf (img.getD 0 0) 62 62 == 1, saved := none, stop := none, window := { x.window with rsv := none } }
    let s1 := s1.dropUnit x
    match s1.coreOf sid with
    | some core =>
      s1.onCore core fun t =>
        let t1 := (t.setStr due).releaseSlot
        { t1 with cur := { t1.cur with
            regs := regsOf img [], pc := recPc (img.getD 0 0), wait := .none, gate := .none, susp := .none, stop := none, retry := false, past := false
            bypass := [] } }
    | none =>
      match s1.strands.get? sid with
      | none => s1
      | some y =>
        let core := s1.host y.vcn * 8 + y.pos
        let s2 := match y.slot with
          | some k => s1.setCoreAt core ((s1.coreAt core).setSlot k none)
          | none => s1
        let z := { due y with slot := none, high := none }
        ({ s2 with strands := s2.strands.set sid z }).putRecord z (recWord0 (recPc (img.getD 0 0)) false none false z.pinned z.pos :: img.drop 1)

end Sys2Proof.Machine
end

