-- ==== Sys2Proof/Machine/Trace.lean ====
section
/-! DEFINITION. Trace sessions: records, buffers, the ring and the status block (R322 to R325). -/

namespace Sys2Proof.Machine

/-- A trace record (R324). -/
def traceRecord (kind vcn recIdx stamp d0 d1 : Nat) : List Byte :=
  toLe 1 kind ++ [0] ++ toLe 2 (vcn % 4096) ++ toLe 2 (recIdx % 2 ^ 14) ++ [0, 0] ++ toLe 8 stamp ++ toLe 8 d0 ++ toLe 8 d1

/-- Room in the ring, in records. -/
def TraceSession.slots (t : TraceSession) : Nat := 2 ^ t.logsz / 32

/-- Write records to the ring in order; what finds no room is dropped (R322). -/
def State.traceWrite (s : State) (t : TraceSession) : List (List Byte) → State × TraceSession
  | [] => (s, t)
  | r :: rest =>
    if !t.wrap && decide (t.slots ≤ t.written) then s.traceWrite { t with dropped := t.dropped + 1 } rest
    else
      match s.devWrite t.asid (t.ring.toNat + 32 * (t.written % t.slots)) r with
      | .ok s1 => s1.traceWrite { t with written := t.written + 1 } rest
      | .error _ => s.traceWrite { t with dropped := t.dropped + 1 } rest

/-- The status block (R323). -/
def State.traceStatus (s : State) (t : TraceSession) (st close : Nat) : State :=
  let b := toLe 8 t.written ++ toLe 8 t.dropped ++ toLe 8 st ++ toLe 8 close ++ List.replicate 32 0
  match s.devWrite t.asid t.status.toNat b with
  | .ok s1 => s1
  | .error _ => s

/-- The stamp of a record. -/
def recordStamp (r : List Byte) : Nat := field r 8 8

/-- Insert a record in stamp order, after its equals. -/
def insertStamp (r : List Byte) : List (List Byte) → List (List Byte)
  | [] => [r]
  | x :: t => if recordStamp r < recordStamp x then r :: x :: t else x :: insertStamp r t

/-- Flush the buffer of a chiplet of a queue's session. -/
def State.traceFlushQ (s : State) (q chip : Nat) : State :=
  match (s.queue q).trace with
  | some t =>
    let (s1, t1) := s.traceWrite { t with buffers := t.buffers.drop chip } (t.buffers.getD chip [])
    (s1.setQueue q { s1.queue q with trace := some t1 }).traceStatus t1 1 0
  | none => s

/-- Hand a record to a chiplet's buffer; a full one is flushed first (R322). -/
def State.traceTo (s : State) (q chip : Nat) (r : List Byte) : State :=
  match (s.queue q).trace with
  | none => s
  | some t =>
    let s1 := if 64 ≤ (t.buffers.getD chip []).length then s.traceFlushQ q chip else s
    match (s1.queue q).trace with
    | none => s1
    | some t1 => s1.setQueue q { s1.queue q with trace := some { t1 with buffers := t1.buffers.set chip (insertStamp r (t1.buffers.getD chip [])) } }

/-- Close the open session of a queue: flush, CLOSE, status (R325). reason: 1 request, 2 reset. -/
def State.traceCloseQ (s : State) (q reason : Nat) : State :=
  match (s.queue q).trace with
  | some t =>
    let s1 := (t.buffers.map fun b => b.1).foldl (fun s c => s.traceFlushQ q c) s
    match (s1.queue q).trace with
    | some t1 =>
      let (s2, t2) := s1.traceWrite t1 [traceRecord 0x0F 0 0 s.ptime reason 0]
      (s2.traceStatus t2 (reason + 1) s.ptime).setQueue q { s2.queue q with trace := none }
    | none => s1
  | none => s

/-- The strand whose frame a handler serves (R262). -/
def State.servedBy (s : State) (asid : Nat) (f : FrameRef) : Option Nat :=
  (s.allStrands.find? fun e => e.2.asid == asid && e.2.frame == some f).map fun e => e.1

/-- The kernel of a strand; of a handler, the kernel of the strand that it serves. fuel: the chain. -/
def State.kernelOf (s : State) (x : Strand) : Nat → Option Nat
  | 0 => x.kernel
  | n + 1 =>
    match x.kernel, x.serves with
    | some k, _ => some k
    | none, some f => ((s.servedBy x.asid f).bind s.strand?).bind fun y => s.kernelOf y n
    | none, none => none

/-- The queue of a strand. -/
def State.queueOf (s : State) (x : Strand) : Option Nat := (s.kernelOf x 4).bind fun k => (s.kernel? k).map fun y => y.q

end Sys2Proof.Machine
end

