-- ==== Sys2Proof/Machine/Trap.lean ====
section
/-! DEFINITION. Taking a trap and returning from it: the precise stop, the handler chain, frames, double faults and halts, TACK and TRET (R254 to R264, R400, R423). -/

namespace Sys2Proof.Machine

/-! Ends. -/

/-- The core runs nothing: its strand has left it. The pieces of tile instructions at L1 stay in its vector queue (R83). -/
def State.leave (s : State) : State :=
  { s with cur := { s.cur with
      run := none, str := {}, regs := Vector.replicate 16 0, line := none, bypass := [], wait := .none, gate := .none, susp := .none, stop := none
      retry := false, past := false, recent := [], l5Marks := [], vq := s.cur.vq.filter fun e => e.tile.isSome } }

/-- The running strand's entry goes back to the table, and the core is idle. -/
def State.park (s : State) (f : Strand → Strand) : State :=
  match s.cur.run with
  | some sid => ({ s with strands := s.strands.set sid (f s.cur.str) }).leave
  | none => s

/-- Drop every place that an event unit keeps for a strand at a line or a mutex. -/
def State.dropPlaces (s : State) (sid : Nat) : State :=
  { s with vcs := s.vcs.map fun e => (e.1, { e.2 with
      lineWaiters := e.2.lineWaiters.map fun l => (l.1, l.2.filter fun w => w.sid != sid)
      mutexes := e.2.mutexes.map fun m => (m.1, { m.2 with waiters := m.2.waiters.filter fun w => w.sid != sid }) }) }

/-- The strand's context has its virtual clusters on physical ones. -/
def State.inPlaceOf (s : State) (x : Strand) : Bool := ((s.ctx? x.asid).map Ctx.inPlace).getD false

/-- Give back the slot, the tile unit and the standing reservation of a strand that is on no core. -/
def State.stripStrand (s : State) (sid : Nat) : State :=
  match s.strands.get? sid with
  | none => s
  | some x =>
    let s1 := s.setWin sid .none
    let s2 := match x.slot, s.inPlaceOf x with
      | some k, true => s1.setCoreAt (s.host x.vcn * 8 + x.pos) ((s1.coreAt (s.host x.vcn * 8 + x.pos)).setSlot k none)
      | _, _ => s1
    match x.saved with
    | some (.unit u) => s2.modCtx x.asid fun c => { c with units := c.units.filter (· != u) }
    | _ => s2

/-- The entry of a strand returns to FREE (R43, R51): its kernel has one strand less. -/
def State.freeEntry (s : State) (sid : Nat) : State :=
  match s.strand? sid with
  | none => s
  | some x =>
    let s0 := match s.coreOf sid with
      | some core => s.onCore core fun t => (t.releaseSlot).park id
      | none => s
    let s1 := (s0.stripStrand sid).unready sid
    let s2 : State := { s1.dropPlaces sid with
      strands := s1.strands.drop sid, watches := s1.watches.filter fun w => w.sid != sid }
    match x.kernel with
    | some k => s2.modKernel k fun y => { y with live := y.live - 1 }
    | none => s2

/-! Tile instructions of a trapped strand (R82). -/

/-- The rolled-up root of a strand with a completion number. -/
def State.isRoot (sid : Nat) (seq : BitVec 64) (r : TileRoot) : Bool := r.sid == sid && BitVec.ofNat 64 r.seq == seq && r.st == .faulted

/-- A FAULTED piece returns to READY and restarts at its KBLK; one that waits for no stager, a gateway core's block or the share of another panel, is at work again at once. -/
def TileRoot.resumed (r : TileRoot) (l : Leaf) : Leaf :=
  if l.st = .faulted then
    { l with st := if r.gateway || l.far then .running else .ready, sub := none, farSubs := [], fail := none, reported := false, retried := false }
  else l

/-- Every FAULTED piece restarts; a root without pieces is decomposed again (R82). -/
def State.resumePieces (s : State) (sid : Nat) (seq : BitVec 64) : State :=
  { s with tiles := s.tiles.map fun r =>
      if State.isRoot sid seq r then { r with st := if r.leaves.isEmpty then .waiting else .running, own := none, leaves := r.leaves.map r.resumed }
      else r }

/-- The count of a root falls, and a strand that was ending on it is FREE (R262). -/
def State.tileDone (s : State) (sid : Nat) : State :=
  let s1 := s.modCounts sid fun c => { c with tiles := c.tiles - 1 }
  match s1.strand? sid with
  | some x => if x.ending && x.counts.tiles == 0 then s1.freeEntry sid else s1
  | none => s1

/-- A root goes: its claims and its reservations with it, and the window that it seals (R224). -/
def State.dropRoot (s : State) (seq : Nat) : State :=
  match s.root? seq with
  | none => s
  | some r =>
    ((({ s with tiles := s.tiles.filter fun r => r.seq != seq, claims := s.claims.filter fun c => !(c.tile && c.owner == seq) } : State).modLog r.asid
      fun l => l.subRsv r.rsv)).unseal r.sid (true, seq)

/-- The completion of a tile instruction is a release at the scope of its level (R66, R186): the strand's older accesses, engine operations and tile instructions in that scope have been performed. -/
def State.rootReleased (s : State) (r : TileRoot) : Bool :=
  s.flight.all (fun b => b.sid != r.sid || decide (r.tick ≤ b.id) || b.stage.past || !(b.op.isLoad || b.cls.any fun c => decide (c.level ≤ r.level))) &&
    s.engines.all (fun e => e.sid != r.sid || decide (r.tick ≤ e.id) || decide (r.level < e.near) || (e.performedAll && e.arrived)) &&
    (s.tiles.takeWhile fun q => q.seq != r.seq).all fun q => q.sid != r.sid || decide (r.level < q.near)

/-- The tile instructions of a strand whose pieces are all done complete, as far as the release allows. fuel: at least the instructions. -/
def State.finishDone (s : State) (sid : Nat) : Nat → State
  | 0 => s
  | n + 1 =>
    match s.tiles.find? fun r => r.sid == sid && r.st == .done && s.rootReleased r with
    | some r => ((s.dropRoot r.seq).tileDone sid).finishDone sid n
    | none => s

/-- Every piece of a root is done: it completes (R66). -/
def State.finishRoot (s : State) (seq : Nat) : State :=
  match s.root? seq with
  | none => s
  | some r => (s.modRoot seq fun q => { q with st := .done }).finishDone r.sid s.tiles.length

/-- The root completes; the destination elements of its faulted pieces take free values (R82, log 17). -/
def State.abandonRoot (s : State) (sid : Nat) (seq : BitVec 64) : State :=
  match s.tiles.find? (State.isRoot sid seq) with
  | none => s
  | some r =>
    (s.freeDest r r.lostPieces).finishRoot r.seq

/-- The rolled-up tile instructions of a strand are abandoned. -/
def State.abandonRolled (s : State) (sid : Nat) : State :=
  (s.tiles.filter fun r => r.sid == sid && r.st == .faulted).foldl (fun s r => s.abandonRoot sid (BitVec.ofNat 64 r.seq)) s

/-- EndStrand: as EXIT, once no tile instruction of the strand is outstanding; one that has rolled up is abandoned at once (R262). -/
def State.endStrand (s : State) (sid : Nat) : State :=
  let s0 := s.abandonRolled sid
  match s0.strand? sid with
  | none => s0
  | some x =>
    if x.counts.tiles = 0 then s0.freeEntry sid
    else
      let s1 := s0.setWin sid .none
      s1.modStrand sid fun y => { y with ending := true, holding := false, triggered := true, window := {}, frame := none, stop := none, trapMark := true }

/-! Frames (R81, R260). -/

def subFaultBytes (f : SubFault) : List Byte :=
  toLe 1 f.cause ++ toLe 1 f.sub ++ toLe 1 (f.level % 8 + bit f.resumable 3) ++ [0] ++ toLe 4 f.leaf ++ toLe 8 f.seq.toNat ++ toLe 8 (f.addr.toNat % 2 ^ 56)
    ++ toLe 4 f.kblk ++ toLe 4 (f.vcn % 4096)

/-- A frame of 128 bytes. -/
def frameBytes (t : Trap) (double : Bool) (chain vcn recIdx core time tiles : Nat) : List Byte :=
  toLe 8 (t.cause % 256 + t.sub % 256 * 2 ^ 8 + bit double 16 + bit t.roll 18 + bit t.subOvf 19 + chain % 4 * 2 ^ 20)
    ++ toLe 8 t.fpc.toNat ++ toLe 8 t.addr.toNat ++ toLe 8 t.seq.toNat
    ++ toLe 8 (vcn % 4096 + recIdx % 2 ^ 14 * 2 ^ 14 + core % 8 * 2 ^ 28) ++ toLe 8 time ++ toLe 8 (tiles % 64) ++ List.replicate 72 0

def pad (n : Nat) (bs : List Byte) : List Byte := bs.take n ++ List.replicate (n - bs.length) 0

/-- The slot that serves a trapped strand. DESIGN CHOICE (log 149): R82 names the address of the sub-fault list and R260 gives the frame no field for it; the list stands at its fixed offset 0x200 of the slot, and ADDR of a ROLLUP is 0. -/
def slotBytes (x : Strand) (chain : Nat) (second : List Byte) : List Byte :=
  match x.stop with
  | none => List.replicate 2048 0
  | some i =>
    let t := i.trap.getD { cause := 0, sub := 0 }
    frameBytes t (!second.isEmpty) chain x.vcn x.recIdx i.core i.time i.tiles ++ pad 64 (wordsBytes i.words) ++ pad 64 (wordsBytes i.high)
      ++ pad 256 (pad 128 second) ++ pad 1024 ((t.subs.take 32).flatMap subFaultBytes) ++ List.replicate 512 0

/-! The handler chain (R258, R259, R263, R264). -/

def State.modChain (s : State) (asid j : Nat) (f : ChainEntry → ChainEntry) : State :=
  s.modCtx asid fun c => { c with chain := c.chain.mapIdx fun i e => if i = j then f e else e }

def Ctx.chainLen (c : Ctx) : Nat := c.chain.length

/-- Queues of a context (R264, R270). -/
def State.queuesOf (s : State) (asid : Nat) : List Nat := (s.queues.filter fun e => e.2.asid == some asid).map fun e => e.1
def State.outstanding (s : State) (q : Nat) : Bool := s.kernels.any fun e => e.2.q == q

/-- The physical cluster of a handler strand that cannot be served, or of a strand whose control state has failed, halts; its mooring is published as any is (R264, R284, R290). -/
def State.haltCluster (s : State) (asid vcn : Nat) (fpc : BitVec 56) : State :=
  let pcn := s.host vcn
  let s1 : State := { s.setCluster pcn { s.cluster pcn with halted := true, haltedFor := asid } with pubReqs := s.pubReqs ++ [.moor vcn true] }
  let s2 := (s.queuesOf asid).foldl (fun s q => if s.outstanding q then s.stopQueue q 0x04 else s) s1
  s2.errRecord 0x0002 asid vcn 0 fpc.toNat pcn s.ptime

/-- A trap message goes to entry j of the chain, or halts the cluster that hosts vcn where there is no entry j. -/
def State.sendMessage (s : State) (asid j sid vcn : Nat) (second : List Byte) (fpc : BitVec 56) : State :=
  match s.ctx? asid with
  | none => s
  | some c =>
    if j < c.chainLen then s.modChain asid j fun e => { e with queue := e.queue ++ [(sid, second)] }
    else s.haltCluster asid vcn fpc

def State.freeFrame (s : State) (asid : Nat) (f : FrameRef) : State :=
  s.modChain asid f.chain fun e => { e with busy := e.busy.filter (· != f.slot) }

/-- The stop image of the running strand (R256). -/
def State.stopImage (s : State) (p : PendingStop) : StopImage :=
  { words := s.recordImage p.resume p.retry, high := s.highRegs, trap := some p.trap, time := s.timeHere, core := s.pos, tiles := s.counts.tiles }

/-- The counts that a stop drains (R256, R261). -/
def Counts.drained (c : Counts) : Bool := c.loads == 0 && c.stores == 0 && c.copies == 0

/-- Taking a trap (R256): the counts have drained, the image is formed, the strand leaves its core BLOCKED with its trap mark, and its message goes to the chain; a handler that has not acknowledged its frame makes it a double fault (R261, R263). -/
def State.takeTrapWith (s : State) (p : PendingStop) (img : StopImage) : State :=
  let x := s.cur.str
  let sid := s.cur.run.getD 0
  let stopped : Strand → Strand := fun x => { x with st := .blocked, trapMark := true, stop := some img, suspendedAt := s.ptime }
  let s0 := match s.queueOf x with
    | some q => s.traceTo q s.chipHere (traceRecord 0x04 x.vcn x.recIdx s.timeHere (p.trap.cause + p.trap.sub * 2 ^ 8) p.trap.fpc.toNat)
    | none => s
  match x.serves with
  | none => (s0.park stopped).sendMessage x.asid 0 sid x.vcn [] p.trap.fpc
  | some f =>
    if x.acked then
      (s0.park stopped).sendMessage x.asid (f.chain + 1) sid x.vcn [] p.trap.fpc
    else
      match s.servedBy x.asid f, decide (f.chain + 1 < ((s.ctx? x.asid).map Ctx.chainLen).getD 0) with
      | some orig, true =>
        let second := frameBytes p.trap false (f.chain + 1) x.vcn x.recIdx s.pos s.timeHere s.counts.tiles
        (((s0.freeEntry sid).freeFrame x.asid f).modStrand orig fun y => { y with frame := none }).sendMessage x.asid (f.chain + 1) orig x.vcn second p.trap.fpc
      | _, _ => (s0.park stopped).haltCluster x.asid x.vcn p.trap.fpc

def State.takeTrap (s : State) (p : PendingStop) : State := s.takeTrapWith p (s.stopImage p)

/-- A bad record: a reserved bit, BOUND with SAVED, or BOUND to a position that is not live (R36). -/
def State.badRecord (s : State) (vcn : Nat) (w : Word) : Bool :=
  bitsOf w 63 63 == 1 || (bitsOf w 56 56 == 1 && (bitsOf w 61 61 == 1 || !s.live (s.host vcn) (bitsOf w 60 58)))

/-- The lowest frame slot that is free. -/
def ChainEntry.freeSlot (e : ChainEntry) : Option Nat := lowestFree e.busy e.nframes 0

/-- A handler's frame slots lie in TT 0x2 or 0x3 pages (R258). -/
def frameTarget : Loc → Bool
  | .cluster .. | .chiplet .. => true
  | _ => false

/-- Write a frame slot (R259 step 1). -/
def State.writeFrame (s : State) (asid va : Nat) (bs : List Byte) : Except Fail State :=
  match s.xlateAll .device asid 0 0 .wr (pagePieces 2 va bs.length) with
  | .error f => .error f
  | .ok segs =>
    match segs.find? fun g => !frameTarget g.loc, s.devFault false segs with
    | some g, _ => .error { cause := 0x03, sub := 0x02, addr := g.va.zeroExtend 64 }
    | none, some f => .error f
    | none, none => s.writeSegs segs (bs.map some)

/-- A frame slot in a cluster that copies to its shadow is written later (R279). -/
def State.frameLater (s : State) (asid va : Nat) : Bool :=
  match s.xlateAll .device asid 0 0 .wr (pagePieces 2 va 2048) with
  | .ok segs => s.depositsLater segs
  | .error _ => false

/-- The next message of an entry of a resident context gets a slot: the frame, the handler strand, the head of a ready list (R259). -/
def State.grantFrame (s : State) (asid j : Nat) : State :=
  match (s.ctx? asid).bind fun c => if c.inPlace then c.chain[j]? else none with
  | none => s
  | some e =>
    match e.queue, e.freeSlot with
    | (sid, second) :: rest, some k =>
      if s.frameLater asid (e.frames.toNat + 2048 * k) then s else
      let s0 := s.modChain asid j fun e => { e with queue := rest }
      match s0.strand? sid with
      | none => s0
      | some x =>
        let va := e.frames.toNat + 2048 * k
        match s0.writeFrame asid va (slotBytes x j second) with
        | .error f =>
          let second' := frameBytes { cause := f.cause, sub := f.sub, addr := f.addr } false (j + 1) 0 0 0 0 0
          s0.sendMessage asid (j + 1) sid e.hvcn second' 0
        | .ok s1 =>
          let s2 := (s1.modChain asid j fun e => { e with busy := k :: e.busy }).modStrand sid fun x => { x with frame := some { chain := j, slot := k } }
          let h : Strand := { asid := asid, vcn := e.hvcn, recIdx := k, serves := some { chain := j, slot := k } }
          let s3 : State := { s2 with strands := s2.strands.set s2.nextSid h, nextSid := s2.nextSid + 1 }
          (s3.putRecord h (recWord0 e.entry false none false false 0 :: [BitVec.ofNat 64 va, BitVec.ofNat 64 j, 0, 0, 0, 0, 0])).makeReady s2.nextSid true
    | _, _ => s

/-! TACK and TRET. -/

/-- The address of a frame slot of a context. -/
def State.frameVa (s : State) (asid : Nat) (f : FrameRef) : Option Nat :=
  ((s.ctx? asid).bind fun c => c.chain[f.chain]?).map fun e => e.frames.toNat + 2048 * f.slot

/-- The address of the frame slot that a handler serves. -/
def State.frameAddr (s : State) : Option Nat :=
  s.cur.str.serves.bind (s.frameVa s.asid)

/-- Set ACKED in the frame that the handler serves (R261). -/
def State.ackFrame (s : State) : State :=
  if s.cur.str.acked then s
  else
    let s1 := s.setStr fun x => { x with acked := true }
    match s.frameAddr with
    | none => s1
    | some va =>
      match s1.devRead s.asid (va + 2) 1 with
      | .ok [b] => match s1.devWrite s.asid (va + 2) [b ||| 2] with
        | .ok t => t
        | .error _ => s1
      | _ => s1

/-- Install an image: the record in its pool, s8 to s15 kept for the resumption; the strand becomes READY (R262). -/
def State.makeReadyImage (s : State) (sid : Nat) (ws high : List Word) : State :=
  match s.strands.get? sid with
  | none => s
  | some x =>
    let y := { x with trapMark := false, stop := none, frame := none, high := some high, pinned := bitsOf (ws.getD 0 0) 62 62 == 1 }
    (({ s with strands := s.strands.set sid y }).putRecord y ws).makeReady sid

/-- The handler ends: its slot of frames is free, its entry FREE (R262). -/
def State.endHandler (s : State) : State :=
  match s.cur.run, s.cur.str.serves with
  | some sid, some f => ((s.freeFrame s.asid f).happen s.vcn 0x02 1).freeEntry sid
  | some sid, none => (s.happen s.vcn 0x02 1).freeEntry sid
  | none, _ => s

/-- A tile roll-up. -/
def Trap.tileRoll (t : Trap) : Bool := t.roll && t.cause == 0x05

/-- Before the walk, what has rolled up is abandoned: the instruction of the frame, and any other, whose own ROLLUP is then withdrawn (R262). -/
def State.undoRolled (s : State) (sid : Nat) : State :=
  let s1 := (s.abandonRolled sid).modStrand sid fun x => { x with pending := x.pending.filter fun t => !t.tileRoll }
  { s1 with asyncFlight := s1.asyncFlight.filter fun e => !(e.1 == sid && e.2.tileRoll) }

/-- A rollback is due for the strand that the frame serves, and one of its tile instructions has neither completed nor rolled up: the walk waits for it (R231 step 1). -/
def State.walkWaits (s : State) : Bool :=
  match s.cur.str.serves.bind (s.servedBy s.asid) with
  | none => false
  | some sid => ((s.strand? sid).map fun x => x.rollbackDue).getD false && s.tiles.any fun r => r.sid == sid && r.st != .faulted

/-- The effect of TRET on the strand that its frame serves (R262), once the counts are zero. -/
def State.tretEffect (s : State) (abandon : Bool) : State :=
  match s.cur.str.serves.bind (s.servedBy s.asid), s.frameAddr with
  | some sid, some va =>
    match s.strand? sid with
    | none => s.endHandler
    | some x =>
      let t := (x.stop.bind fun i => i.trap).getD { cause := 0, sub := 0 }
      if x.rollbackDue then
        let s1 := s.undoRolled sid
        let s2 := (s1.runRollback sid).modStrand sid fun x => { x with trapMark := false, stop := none, frame := none }
        (if abandon && !t.roll then s2.endStrand sid else s2.makeReady sid).endHandler
      else if abandon && !t.roll then (s.endStrand sid).endHandler
      else
        match s.devRead s.asid (va + 0x80) 128 with
        | .error f => s.raiseFail f
        | .ok bs =>
          let ws := bytesWords 8 bs
          let high := bytesWords 8 (bs.drop 64)
          if abandon then ((s.abandonRoot sid t.seq).makeReadyImage sid ws high).endHandler
          else if s.badRecord x.vcn (ws.getD 0 0) then s.raise 0x07 0x01
          else ((if t.roll then s.resumePieces sid t.seq else s).makeReadyImage sid ws high).endHandler
  | _, _ => s.endHandler

/-- TRET first acts as TACK, then waits for every count of the handler, and for the tile instructions of a strand that is to be rolled back (R231, R262). -/
def State.tret (s : State) (abandon : Bool) : Out :=
  if !s.counts.drained then .next (s.waiting .stall)
  else
    let s1 := s.ackFrame
    if !s1.counts.zero || s1.walkWaits then .next (s1.waiting .stall)
    else .next (s1.tretEffect abandon)

def execTack (s : State) : Out :=
  if s.cur.str.acked then .next s.advance
  else if !s.counts.drained then .next (s.waiting .stall)
  else .next s.ackFrame.advance
def execTretResume (s : State) : Out := s.tret false
def execTretAbandon (s : State) : Out := s.tret true

end Sys2Proof.Machine
end

