-- ==== Sys2Proof/Machine/Sync.lean ====
section
/-! DEFINITION. Wakes, spawns, work lists, event signals, WAITC and the fences (R49, R53 to R57, R193 to R195, R214, R215, R354, R355, R360, R361, R377, R389 to R395, R457, R458). -/

namespace Sys2Proof.Machine

/-! WAITC and the fences. -/

/-- The fields of OUTCNT in the order of R193. -/
def outFields : List Nat := [0, 8, 16, 24, 32, 40, 48]

/-- Every selected count is at or below its limit. -/
def waitcMet (out limits mask : Word) : Bool :=
  (outFields.mapIdx fun k lo => bitsOf mask k k == 1 || decide (bitsOf out (lo + 5) lo ≤ bitsOf limits (lo + 5) lo)).all id

/-- Stand at a blocking instruction whose condition is not met (R37). -/
def State.blocked (s : State) (susp : Bool) (on : BlockOn) : Out := .next ((s.setStr fun x => { x with blockOn := on }).waiting (.block susp))

def execWaitc (d a b : Reg) (s : State) : Out :=
  if waitcMet s.counts.word (s.reg a) (s.reg b) then .next (s.answer d s.counts.word)
  else s.blocked (suspendable (.waitc d a b)) .counts

/-- The class lies within scope k (R186, R190). -/
def Class.within (c : Class) (k : Nat) : Bool :=
  match c with
  | .loc => true | .cl => decide (2 ≤ k) | .ch => decide (3 ≤ k) | .pn => decide (4 ≤ k)

/-- An older access keeps a fence at scope k waiting (R194). -/
def Access.fenced (a : Access) (k : Nat) : Bool := !a.stage.past && (a.op.isLoad || a.cls.any fun c => c.within k)

/-- An engine operation to host memory or a peer has not been performed at the far end (R194). -/
def EngOp.fenced (e : EngOp) : Bool := e.far && !e.farDone

def State.fenceMet (s : State) (k : Nat) : Bool :=
  let sid := s.cur.run.getD 0
  s.flight.all (fun a => a.sid != sid || !a.fenced k) && (decide (k < 5) || s.engines.all fun e => e.sid != sid || !e.fenced)

/-- FENCE holds the core until its condition is met; it fixes the window (R225, R361). -/
def State.fence (s : State) (k : Nat) : Out :=
  let s1 := s.fixWindow
  if s.fenceMet k then .next s1.advance else .next (s1.waiting .stall)

def execFenceL1 (s : State) : Out := s.fence 1
def execFenceL2 (s : State) : Out := s.fence 2
def execFenceL3 (s : State) : Out := s.fence 3
def execFenceL4 (s : State) : Out := s.fence 4
def execFenceL5 (s : State) : Out := s.fence 5

/-- FENCEI marks what is outstanding and gives the ticket (R195). -/
def State.ticket (s : State) : Word := BitVec.ofNat 64 (s.cur.mark.toNat + s.cur.runStamp.toNat * 2 ^ 32)

def execFencei (l5 : Bool) (d : Reg) (s : State) : Out :=
  let s1 : State := { s with cur := { s.cur with mark := s.cur.mark + 1, l5Marks := if l5 then s.cur.mark :: s.cur.l5Marks else s.cur.l5Marks } }
  .next (s1.answer d s.ticket)

/-- A mark is at or before a ticket's, along the counter. -/
def markedBy (m t : BitVec 32) : Bool := decide ((t - m).toNat < 2 ^ 31)

/-- Every access that the ticket's FENCEI marked has been performed (R195). -/
def State.ticketMet (s : State) (t : Word) : Bool :=
  let sid := s.cur.run.getD 0
  let m := t.extractLsb' 0 32
  t.extractLsb' 32 16 != s.cur.runStamp ||
    (s.flight.all (fun a => a.sid != sid || a.stage.past || !markedBy a.mark m) &&
      (!s.cur.l5Marks.contains m || s.engines.all fun e => e.sid != sid || !e.fenced || !markedBy e.mark m))

def execFencew (l5 : Bool) (a : Reg) (s : State) : Out :=
  let s1 := s.fixWindow
  if s.ticketMet (s.reg a) then .next s1.advance else s1.blocked (suspendable (.fencew l5 a)) .counts

/-- LTRIG waits for everything older, then marks the strand triggered (R377). -/
def execLtrig (s : State) : Out :=
  let s1 := s.fixWindow
  if s.counts.zero then .next (s1.setStr fun x => { x with triggered := true }).advance else .next (s1.waiting .stall)

/-! Messages to another cluster. -/

/-- The kernel of the running strand; of a handler, of the strand whose frame it serves (R458). -/
def State.actingKernel (s : State) : Option Kernel := (s.kernelOf s.cur.str 4).bind s.kernel?

/-- A VCN of the kernel; for a handler strand, of the context (R355, R458). -/
def State.reaches (s : State) (v : Nat) : Bool :=
  if s.handler then ((s.ctx? s.asid).map fun c => c.hasVcn v).getD false
  else match s.kernelHere with
    | some k => decide (k.hdr.vcbase ≤ v) && decide (v < k.hdr.vcbase + k.hdr.vccount)
    | none => false

/-- A message to a VCN in a current map, once nothing stalls it. -/
def State.sendTo (s : State) (v : Nat) (op : AccOp) (dest : Dest) (fixes : Bool) : Out :=
  if !(s.entryAt s.pcn v).valid then .next (s.raise 0x03 0x07)
  else if s.full false [s.classTo v] then .next (s.waiting .stall)
  else .next (((if fixes then s.fixWindow else s).issue op [] [s.classTo v] dest)).advance

def execWake (a : Reg) (s : State) : Out :=
  if s.counts.stores ≠ 0 then .next (s.waiting .stall)
  else
    let v := if a = 0 then s.vcn else bitsOf (s.reg a) 11 0
    let r := bitsOf (s.reg a) 29 16
    match s.actingKernel with
    | none => .next (s.raise 0x03 0x02)
    | some k =>
      if !s.reaches v ∨ k.hdr.poolcap ≤ r then .next (s.raise 0x03 0x02)
      else s.sendTo v (.wake v r) .none true

def execEvsig (a : Reg) (s : State) : Out :=
  if s.counts.stores ≠ 0 then .next (s.waiting .stall)
  else
    let v := if a = 0 then s.vcn else bitsOf (s.reg a) 11 0
    if !s.reaches v then .next (s.raise 0x03 0x02)
    else s.sendTo v (.evsig v (bitsOf (s.reg a) 20 16)) .none true

/-- The three conditions of quiescence hold together for a kernel (R56). -/
def State.quiescent (s : State) (k : Nat) (y : Kernel) : Bool :=
  y.messages.isEmpty && y.inflight == 0 && y.lists.all (fun l => l.2.count == 0) && s.allStrands.all fun e => !(e.2.kernel == some k && e.2.holding)

/-- Spawns and pushes on their way. Quiescence that holds when one issues has been reported: the detector reports at the first instant (R56). -/
def State.addInflight (s : State) (kernel : Option Nat) : State :=
  match kernel with
  | some k => s.modKernel k fun y => { y with inflight := y.inflight + 1, quiet := y.quiet || s.quiescent k y }
  | none => s

/-- SPAWN (R394): the image must lie in the own core's data area. -/
def execSpawn (d a b : Reg) (s : State) : Out :=
  if s.counts.stores ≠ 0 then .next (s.waiting .stall)
  else
    match effAddr (s.reg a) 0 with
    | none => .next (s.raise 0x03 0x05 (s.reg a))
    | some ad =>
      if ad % 64 ≠ 0 then .next (s.raise 0x03 0x01 (s.reg a))
      else
        match s.xlate s.agent s.asid s.vcn s.pos .rd ad with
        | .error f => .next (s.raiseFail f)
        | .ok (.core v p off true) =>
          if 0xC000 ≤ off then .next (s.raise 0x03 0x04 (s.reg a))
          else
            let seg : Seg := { va := BitVec.ofNat 56 ad, loc := .core v p off true, n := 64 }
            if s.claimed false [seg] then .next (s.waiting .stall)
            else
              match s.readSegs [seg] with
              | .error f => .next (s.asyncHere f.cause f.sub f.addr).advance
              | .ok bs =>
                let ws := bytesWords 8 bs
                let w0 := ws.getD 0 0
                let t := if b = 0 then s.vcn else bitsOf (s.reg b) 11 0
                match s.kernelHere with
                | none => .next (s.raise 0x07 0x03)
                | some k =>
                  if !(decide (k.hdr.vcbase ≤ t) && decide (t < k.hdr.vcbase + k.hdr.vccount)) ∨ bitsOf w0 0 0 = 1 ∨ bitsOf w0 56 56 = 1
                      ∨ bitsOf w0 61 61 = 1 ∨ bitsOf w0 63 63 = 1 then .next (s.raise 0x07 0x03)
                  else if !(s.entryAt s.pcn t).valid then .next (s.raise 0x03 0x07)
                  else if s.full false [s.classTo t] then .next (s.waiting .stall)
                  else (s.addInflight s.cur.str.kernel).sendTo t (.spawn t ws s.cur.str.triggered) (.status d) true
        | .ok (.core _ _ off false) => .next (s.raise 0x03 (if 0xC000 ≤ off then 0x04 else 0x02) (s.reg a))
        | .ok _ => .next (s.raise 0x03 0x02 (s.reg a))

/-- QPUSH (R391, R392). -/
def execQpush (d a b : Reg) (s : State) : Out :=
  if s.counts.stores ≠ 0 then .next (s.waiting .stall)
  else
    let v := if a = 0 then s.vcn else bitsOf (s.reg a) 11 0
    match s.kernelHere with
    | none => .next (s.raise 0x03 0x02)
    | some k =>
      if k.hdr.wlcap = 0 ∨ !(decide (k.hdr.vcbase ≤ v) && decide (v < k.hdr.vcbase + k.hdr.vccount)) then .next (s.raise 0x03 0x02)
      else if !(s.entryAt s.pcn v).valid then .next (s.raise 0x03 0x07)
      else if !s.cur.str.holding then .next (s.raise 0x08 0x01)
      else if s.full false [s.classTo v] then .next (s.waiting .stall)
      else (s.addInflight s.cur.str.kernel).sendTo v (.qpush v (bitsOf (s.reg a) 19 16) (s.reg b)) (.status d) true

/-! Work lists (R53 to R57). -/

/-- A list of a kernel in a virtual cluster. -/
def listKey (v d : Nat) : Nat := v * 16 + d
def Kernel.list (k : Kernel) (v d : Nat) : WorkList := k.lists.getD (listKey v d) {}
def Kernel.setList (k : Kernel) (v d : Nat) (w : WorkList) : Kernel := { k with lists := k.lists.set (listKey v d) w }

/-- The flat address of slot i of a list (log 18). -/
def State.itemAddr (s : State) (k : Kernel) (v d i : Nat) : Nat :=
  clusterBase (s.host v) + k.hdr.wloff + d * (64 + 8 * k.hdr.wlcap) + 64 + 8 * (i % k.hdr.wlcap)

/-- QPOP (R389): the compaction unit of the own cluster answers at once, or the strand blocks. -/
def execQpop (d a b : Reg) (s : State) : Out :=
  match s.cur.str.kernel, s.kernelHere with
  | some kid, some k =>
    if k.hdr.wlcap = 0 then .next (s.raise 0x03 0x02)
    else
      let l := bitsOf (s.reg a) 3 0
      let s0 := s.fixWindow
      let w := k.list s.vcn l
      if k.told.contains s.vcn then .next ((s0.setStr fun x => { x with holding := false }).answer d 2)
      else if w.count = 0 then (s0.setStr fun x => { x with holding := false }).blocked (suspendable (.qpop d a b)) (.list l)
      else
        let ad := s.itemAddr k s.vcn l w.head
        match readErr s.mem s.lostDies none 8 ad 8 with
        | some e => .next (s.raise e.cause e.sub)
        | none =>
          let item : Word := BitVec.ofNat 64 (leNat (s.mem.read ad 8))
          let s1 := (s0.modKernel kid fun y => y.setList s.vcn l { head := (w.head + 1) % k.hdr.wlcap, count := w.count - 1 })
          .next (((s1.setStr fun x => { x with holding := true }).setReg b item).answer d 0)
  | _, _ => .next (s.raise 0x03 0x02)

end Sys2Proof.Machine
end

