-- ==== Sys2Proof/Machine/EventUnit.lean ====
section
/-! DEFINITION. The event units: lines, barriers, mutexes, and the plain registers (R204 to R210, R321, R324). -/

namespace Sys2Proof.Machine

/-! Serving an access of a unit. -/

/-- An engine operation, a tile instruction and an older access of a strand keep a release at scope k waiting (R186). -/
def State.releaseMet (s : State) (a : Access) (k : Nat) : Bool :=
  s.flight.all (fun b => b.sid != a.sid || decide (a.id ≤ b.id) || b.stage.past || !(b.op.isLoad || b.cls.any fun c => c.within k)) &&
    s.engines.all (fun e => e.sid != a.sid || decide (a.id ≤ e.id) || decide (k < e.near) || (e.performedAll && e.arrived)) &&
    s.tiles.all fun r => r.sid != a.sid || decide (a.id < r.tick) || decide (k < r.near)

/-- The unit and the offset that an access names. -/
def Access.unitReg (a : Access) : Option (Nat × EvReg) :=
  match a.segs with
  | g :: _ => match g.loc with
    | .event v off => some (v, evReg off)
    | _ => none
  | [] => none

def Access.va (a : Access) : BitVec 56 := match a.segs with | g :: _ => g.va | [] => 0

def Access.waiter (a : Access) : Waiter :=
  { sid := a.sid, dest := match a.dest with | .scalar d _ => d | _ => 0, va := a.va }

/-- A unit answers a waiter: the load that it holds completes, or the grant latch of a suspended strand is set and the strand woken (R209). -/
def State.grantTo (s : State) (w : Waiter) (g : Grant) : State :=
  match s.flight.find? fun a => a.sid == w.sid && a.stage == .watching && (match a.op with | .eventLoad _ => true | _ => false) with
  | some a =>
    match g with
    | .value v => s.performed a.id (wordLe v) 0
    | .error sub => s.failAccess a.id { cause := 0x03, sub := sub, addr := w.va.zeroExtend 64 }
  | none => (s.modStrand w.sid fun x => { x with grant := some g, grantVa := w.va }).wakeStrand w.sid

/-! Lines (R205). -/

/-- Signals serve the loads that wait, in order, then stand pending. fuel: the loads. -/
def State.serveLine (s : State) (v e : Nat) : Nat → State
  | 0 => s
  | n + 1 =>
    let x := s.vc v
    match x.lineWaiters.getD e [], x.lines.getD e 0 with
    | w :: t, k + 1 =>
      ((s.setVc v { x with lines := x.lines.set e k, lineWaiters := x.lineWaiters.set e t }).grantTo w (.value (BitVec.ofNat 64 (k + 1)))).serveLine v e n
    | _, _ => s

def State.addSignals (s : State) (v e n : Nat) : State :=
  let x := s.vc v
  let s1 := s.setVc v { x with lines := x.lines.set e (min 0xFFFFFFFF (x.lines.getD e 0 + n)) }
  s1.serveLine v e (x.lineWaiters.getD e []).length

/-- EVENT_LINE_LOAD. -/
def execEventLineLoad (id : Nat) (s : State) : Out :=
  match s.access? id with
  | none => .next s
  | some a =>
    match a.op, a.unitReg with
    | .eventLoad _, some (v, .line e) =>
      if !s.mayArrive a then .next s
      else .next (s.arriveThen a fun s a =>
        let x := s.vc v
        let s1 := (s.setStage a.id .watching).setVc v { x with lineWaiters := x.lineWaiters.set e (x.lineWaiters.getD e [] ++ [a.waiter]) }
        s1.serveLine v e 1)
    | _, _ => .next s

/-- EVENT_LINE_STORE, and EVSIG, which adds one signal: releases at panel scope (R210). -/
def execEventLineStore (id : Nat) (s : State) : Out :=
  match s.access? id with
  | none => .next s
  | some a =>
    let add : Option (Nat × Nat × Nat) := match a.op, a.unitReg with
      | .evsig v e, _ => some (v, e, 1)
      | .eventStore _ w, some (v, .line e) => some (v, e, bitsOf w 31 0)
      | _, _ => none
    match add with
    | none => .next s
    | some (v, e, n) =>
      if s.mayArrive a && s.releaseMet a 4 then .next (s.arriveThen a fun s a => (s.addSignals v e n).performed a.id [] 0) else .next s

/-! Barriers (R206, R207). -/

def State.bar (s : State) (v b : Nat) : Barrier := (s.vc v).bars.getD b {}
def State.setBar (s : State) (v b : Nat) (x : Barrier) : State := s.setVc v { s.vc v with bars := (s.vc v).bars.set b x }

def Barrier.cfgWord (x : Barrier) : Word :=
  BitVec.ofNat 64 (x.count % 2 ^ 16 + bit x.chain 16 + x.pvcn % 2 ^ 12 * 2 ^ 17 + x.pbar % 8 * 2 ^ 29 + x.scope % 4 * 2 ^ 32
    + min x.arrivals.length 0xFFFF * 2 ^ 48)

/-- The context that a virtual cluster belongs to. -/
def State.ctxOfVcn (s : State) (v : Nat) : Option (Nat × Ctx) := s.ctxs.find? fun e => e.2.hasVcn v

/-- BARCFG_STORE. -/
def State.storeBarcfg (s : State) (v b : Nat) (w : Word) : State :=
  let x := s.bar v b
  let mine := ((s.ctxOfVcn v).map fun e => e.2.hasVcn (bitsOf w 28 17)).getD false
  if !x.arrivals.isEmpty || (bitsOf w 16 16 == 1 && !mine) then s
  else s.setBar v b { x with count := bitsOf w 15 0, chain := bitsOf w 16 16 == 1, pvcn := bitsOf w 28 17, pbar := bitsOf w 31 29, scope := bitsOf w 33 32 }

def execBarcfgStore (id : Nat) (s : State) : Out :=
  match s.access? id with
  | none => .next s
  | some a =>
    match a.op, a.unitReg with
    | .eventStore _ w, some (v, .barcfg b) =>
      if s.mayArrive a then .next (s.arriveThen a fun s a => (s.storeBarcfg v b w).performed a.id [] 0) else .next s
    | _, _ => .next s

/-- The first and last arrival of an episode. -/
def spanOf : List BarArrival → BarArrival
  | [] => {}
  | x :: t => t.foldl (fun a y =>
      { a with first := min a.first y.first, last := max a.last y.last
               firstVcn := if y.first < a.first then y.firstVcn else a.firstVcn, lastVcn := if a.last ≤ y.last then y.lastVcn else a.lastVcn })
      { x with waiter := none }

/-- An imbalance record to the open sessions of a context (R321, R322, R324). -/
def State.imbalance (s : State) (asid v : Nat) (word : Word) (sp : BarArrival) (all : Bool) : State :=
  let r := traceRecord 0x05 v 0 (s.dieTime (chipOf (s.host v))) word.toNat (sp.firstVcn % 2 ^ 12 + sp.lastVcn % 2 ^ 12 * 2 ^ 16)
  (s.queuesOf asid).foldl (fun s q =>
    match (s.queue q).trace with
    | some t => if all || t.imbal then s.traceTo q (chipOf (s.host v)) r else s
    | none => s) s

/-- Every waiter of an episode gets the word or the error, and so does every barrier chained below (R207). A chained barrier counts its episode when its parent releases it; a root has counted it already (log 85). -/
def State.endEpisode (s : State) (v b : Nat) (g : Grant) : State :=
  let x := s.bar v b
  let s1 := s.setBar v b { x with arrivals := [], complete := false, held := [], withheld := none
                                  val := match g with | .value w => w | .error _ => x.val
                                  episode := match g with | .value _ => if x.complete && x.withheld.isNone then x.episode + 1 else x.episode | .error _ => x.episode }
  x.arrivals.foldl (fun s a =>
    match a.waiter with
    | some w => s.grantTo w g
    | none => { s with releases := s.releases ++ [(a.child.1, a.child.2, g)] }) s1

/-- The release word of a root: SPREAD and EPISODE. -/
def releaseWord (sp : BarArrival) (episode : BitVec 32) : Word := BitVec.ofNat 64 (min (sp.last - sp.first) 0xFFFFFFFF + episode.toNat * 2 ^ 32)

/-- A stop of a context is asked for: it is not pre-empted any more, and an eviction that has begun ends (R319, R321). -/
def Ctx.stopAsked (c : Ctx) : Ctx := { c with stopReq := true, preempt := false, evicting := false, saving := false }

/-- A superstep stop armed for this barrier and episode (R321); 0xFFFF_FFFF names the next one. -/
def Ctx.stopsAt (c : Ctx) (v b : Nat) (e : BitVec 32) : Bool :=
  match c.armed with
  | some (w, k, n) => w == v && k == b && (n == e || n == 0xFFFFFFFF)
  | none => false

/-- An episode is complete: a chained barrier arrives at its parent, a root releases, or withholds the release and stops its context. -/
def State.episodeDone (s : State) (v b : Nat) : State :=
  let x := s.bar v b
  let sp := spanOf x.arrivals
  if x.chain then { (s.setBar v b { x with complete := true }) with parentArrivals := s.parentArrivals ++ [(v, b, { sp with child := (v, b) })] }
  else
    let e := x.episode + 1
    let w := releaseWord sp e
    match s.ctxOfVcn v with
    | some (asid, c) =>
      if c.stopsAt v b e then
        ((s.setBar v b { x with episode := e, complete := true, withheld := some w }).modCtx asid fun c =>
          { c.stopAsked with armed := none }).imbalance asid v w sp true
      else (s.setBar v b { x with episode := e }).endEpisode v b (.value w)
    | none => (s.setBar v b { x with episode := e }).endEpisode v b (.value w)

/-- One arrival. -/
def State.arriveBar (s : State) (v b : Nat) (a : BarArrival) : State :=
  let x := s.bar v b
  if x.complete then s.setBar v b { x with held := x.held ++ [a] }
  else
    let s1 := s.setBar v b { x with arrivals := x.arrivals ++ [a] }
    if x.count ≤ x.arrivals.length + 1 then s1.episodeDone v b else s1

/-- The release, or the end, of a barrier that waited; what it held arrives in the next episode. -/
def State.reopenBar (s : State) (v b : Nat) (g : Grant) : State :=
  (s.bar v b).held.foldl (fun s a => s.arriveBar v b a) (s.endEpisode v b g)

/-- BARRIER_ARRIVAL: a release at the barrier's SCOPE; a barrier with COUNT 0 answers with ACCESS TARGET (R206, R210). -/
def execBarrierArrival (id : Nat) (s : State) : Out :=
  match s.access? id with
  | none => .next s
  | some a =>
    match a.op, a.unitReg with
    | .eventLoad _, some (v, .bararr b) =>
      if !s.mayArrive a || !s.releaseMet a (max 2 ((s.bar v b).scope + 1)) then .next s
      else .next (s.arriveThen a fun s a =>
        if (s.bar v b).count = 0 then s.failAccess a.id { cause := 0x03, sub := 0x02, addr := a.va.zeroExtend 64 }
        else
          (s.setStage a.id .watching).arriveBar v b
            { waiter := some a.waiter, first := s.dieTime (chipOf (s.host v)), last := s.dieTime (chipOf (s.host v)), firstVcn := a.vcn, lastVcn := a.vcn })
    | _, _ => .next s

/-- BARRIER_PARENT_ARRIVAL of barrier bar of vcn (R207). -/
def execBarrierParentArrival (vcn bar : Nat) (s : State) : Out :=
  match s.parentArrivals.find? fun x => x.1 == vcn && x.2.1 == bar with
  | none => .next s
  | some x =>
    let s1 : State := { s with parentArrivals := s.parentArrivals.filter fun y => y != x }
    let c := s.bar vcn bar
    if !(s.mapNow c.pvcn).valid then .next (s1.reopenBar vcn bar (.error 0x07))
    else if (s.bar c.pvcn c.pbar).count = 0 then .next (s1.reopenBar vcn bar (.error 0x02))
    else .next (s1.arriveBar c.pvcn c.pbar x.2.2)

/-- BARRIER_RELEASE. -/
def execBarrierRelease (vcn bar : Nat) (s : State) : Out :=
  match s.releases.find? fun x => x.1 == vcn && x.2.1 == bar with
  | none => .next s
  | some x =>
    let s1 : State := { s with releases := s.releases.filter fun y => y != x }
    let s2 := match x.2.2, s.ctxOfVcn vcn with
      | .value w, some (asid, _) => s1.imbalance asid vcn w (spanOf (s.bar vcn bar).arrivals) false
      | _, _ => s1
    .next (s2.reopenBar vcn bar x.2.2)

/-! Mutexes (R208). -/

def State.setMutex (s : State) (v m : Nat) (x : Mutex) : State := s.setVc v { s.vc v with mutexes := (s.vc v).mutexes.set m x }

def execMutexAcquire (id : Nat) (s : State) : Out :=
  match s.access? id with
  | none => .next s
  | some a =>
    match a.op, a.unitReg with
    | .eventLoad _, some (v, .mutex m) =>
      if !s.mayArrive a then .next s
      else .next (s.arriveThen a fun s a =>
        let x := (s.vc v).mutexes.getD m {}
        match x.holder with
        | none => (s.setMutex v m { x with holder := some a.sid }).performed a.id (wordLe 1) 0
        | some _ => (s.setStage a.id .watching).setMutex v m { x with waiters := x.waiters ++ [a.waiter] })
    | _, _ => .next s

/-- MUTEX_RELEASE: a store of the holder, a release at panel scope; any other strand's store is ignored. -/
def execMutexRelease (id : Nat) (s : State) : Out :=
  match s.access? id with
  | none => .next s
  | some a =>
    match a.op, a.unitReg with
    | .eventStore _ _, some (v, .mutex m) =>
      if !s.mayArrive a || !s.releaseMet a 4 then .next s
      else .next (s.arriveThen a fun s a =>
        let x := (s.vc v).mutexes.getD m {}
        let s1 := s.performed a.id [] 0
        if x.holder ≠ some a.sid then s1
        else match x.waiters with
          | [] => s1.setMutex v m { x with holder := none }
          | w :: t => (s1.setMutex v m { holder := some w.sid, waiters := t }).grantTo w (.value 1))
    | _, _ => .next s

/-! The plain registers (R204, R206, R207). -/

/-- Registers that no other event serves: configurations, last release words, and offsets that read zero; stores that are ignored. -/
def State.plainUnit (s : State) (a : Access) : State :=
  match a.op, a.unitReg with
  | .eventLoad _, some (v, .barcfg b) => s.performed a.id (wordLe (s.bar v b).cfgWord) 0
  | .eventLoad _, some (v, .barval b) => s.performed a.id (wordLe (s.bar v b).val) 0
  | .eventLoad _, some (_, .other) => s.performed a.id (wordLe 0) 0
  | .eventStore _ _, some (_, .bararr _) | .eventStore _ _, some (_, .barval _) | .eventStore _ _, some (_, .other) => s.performed a.id [] 0
  | _, _ => s

/-- HOME_ACCESS (R186): a home bank serves a load, a store or an atomic, or an event unit one of its plain registers. -/
def execHomeAccess (id : Nat) (s : State) : Out :=
  match s.access? id with
  | none => .next s
  | some a =>
    if a.stage = .parked ∨ !s.mayArrive a then .next s
    else
      match a.op with
      | .load | .store | .waita _ | .atomic .. => .next (s.arriveThen a State.serve)
      | .eventLoad _ | .eventStore _ _ => .next (s.arriveThen a State.plainUnit)
      | _ => .next s

end Sys2Proof.Machine
end

