-- ==== Sys2Proof/Machine/Fetch.lean ====
section
/-! DEFINITION. Fetching a line, its check, and the head and tail at the PC (R102 to R105, R122). -/

namespace Sys2Proof.Machine

/-- The tail length in bytes of head i of a line (R102). -/
def headWord (l : BitVec 512) (i : Nat) : BitVec 16 := l.extractLsb' (16 + 16 * i) 16
def tailBytes (l : BitVec 512) (i : Nat) : Nat := 2 * (hTl (headWord l i)).toNat

/-- The bytes of the tails of heads 0 to i − 1. -/
def tailsBefore (l : BitVec 512) : Nat → Nat
  | 0 => 0
  | i + 1 => tailsBefore l i + tailBytes l i

/-- The tail of head i: bytes Ei − Li to Ei − 1 (R102), in the low bits. -/
def tailWord (l : BitVec 512) (i : Nat) : BitVec 48 :=
  let n := tailBytes l i
  let low := 64 - tailsBefore l i - n
  BitVec.ofNat 48 ((l.extractLsb' (8 * low) 48).toNat % 2 ^ (8 * n))

/-- The head index that a PC names; none where bits [5:1] are zero (R104). -/
def headIndex (pc : BitVec 56) : Option Nat :=
  let k := bitsOf (pc.zeroExtend 64) 5 1
  if k = 0 then none else some (k - 1)

/-- The line check (R103): the subcode of LINEFMT, highest in the table first. -/
def lineFault (l : BitVec 512) (idx : Option Nat) : Option Nat :=
  let n := lineHeads l
  if l.extractLsb' 5 2 ≠ 0 then some 0x01
  else if l.extractLsb' 7 9 ≠ 0 then some 0x02
  else if n = 0 then some 0x03
  else if 2 + 2 * n + tailsBefore l n ≠ 64 then some 0x04
  else match idx with
    | some i => if i < n then none else some 0x05
    | none => some 0x05

/-- The line that the PC enters (R104, R106). -/
def State.fetchAddr (s : State) : BitVec 56 := if s.cur.past then lineAddr s.cur.pc - 64 else lineAddr s.cur.pc

/-- Targets that admit a fetch (R169). -/
def fetchable : Loc → Bool
  | .cluster .. | .chiplet .. | .hbm .. => true
  | _ => false

/-- The 64 bytes of a code line from memory. -/
def State.readLine (s : State) (a : BitVec 56) : Except Fail (BitVec 512) :=
  match s.xlate s.agent s.asid s.vcn s.pos .ex a.toNat with
  | .error f => .error f
  | .ok l =>
    if !fetchable l then .error { cause := 0x03, sub := 0x02, addr := a.zeroExtend 64 }
    else
      match s.refuses s.pcn (fun _ => false) .load 64 l with
      | some 0x07 => .error { cause := 0x03, sub := 0x07, addr := a.zeroExtend 64 }
      | some 0x09 => .error { cause := 0x03, sub := 0x09, addr := a.zeroExtend 64 }
      | _ =>
        match s.readSegs [{ va := a, loc := l, n := 64 }] with
        | .error f => .error f
        | .ok bs => .ok (BitVec.ofNat 512 (leNat bs))

/-- The address of a head (R104): an address in the form of a PC, whose line can be fetched and holds that head. -/
def State.headAt (s : State) (asid : Nat) (w : Word) : Bool :=
  match headIndex (w.truncate 56) with
  | none => false
  | some i =>
    decide (w.toNat < 2 ^ 56) && bitsOf w 0 0 == 0 &&
      (match s.xlateAll .device asid 0 0 .ex [(w.toNat / 64 * 64, 64)] with
       | .error _ => false
       | .ok segs =>
         segs.all (fun g => fetchable g.loc) && (s.devFault false segs).isNone &&
           (match s.readSegs segs with
            | .error _ => false
            | .ok bs => decide (i < lineHeads (BitVec.ofNat 512 (leNat bs)))))

/-- A line from the cluster's instruction cache, or from memory (R105). -/
def State.fetchLine (s : State) (a : BitVec 56) : Except Fail (BitVec 512) :=
  match s.icache.find? fun e => e.1 == s.pcn && e.2.1 == a && e.2.2.1 == s.asid with
  | some e => .ok e.2.2.2
  | none => s.readLine a

/-- The strand enters the line of its PC: the line, or the trap of a failed fetch or check (R103). -/
def State.enterLine (s : State) : State :=
  let a := s.fetchAddr
  let got : Except Fail (BitVec 512) := match s.cur.line with
    | some (b, l) => if b = a then .ok l else s.fetchLine a
    | none => s.fetchLine a
  match got with
  | .error f => s.raiseFail f
  | .ok l =>
    match lineFault l (if s.cur.past then none else headIndex s.cur.pc) with
    | some k => s.raise 0x02 k
    | none => { s with cur := { s.cur with line := some (a, l) } }

/-- What the decoder reads at the PC, once its line has been entered. -/
def State.decoded (s : State) : Option Decoded :=
  match s.cur.line, headIndex s.cur.pc with
  | some (_, l), some i => some (decode s.handler (headWord l i) (tailWord l i))
  | _, _ => none

/-- What a core's turn comes to: it rests, or it runs an instruction; where an asynchronous trap waits, that trap is taken unless the instruction itself faults at this boundary (R257). -/
inductive Turn where
  | rest (s : State)
  | run (s : State) (i : Instr)
  | either (t s : State) (i : Instr)

/-- A shadow that has taken over has still to apply messages that it holds (R280). -/
def State.applying (s : State) (pcn : Nat) : Bool :=
  s.map.any fun e => e.2.valid && !e.2.nonres && e.2.pcn == pcn && s.behindForwarded none [(e.1, 0)]

/-- A cluster works (R264, R279, R280, R289). -/
def State.clusterWorks (s : State) (pcn : Nat) : Bool :=
  let c := s.cluster pcn
  !c.halted && !c.dead && (c.rot == .inService || c.rot == .due) && !s.applying pcn

/-- The focused core's cluster works. -/
def State.clusterRuns (s : State) : Bool := s.clusterWorks s.pcn

/-- A synchronous trap that an instruction has raised at its own boundary (R255). -/
def State.faultsAt (u s : State) : Bool :=
  match u.cur.stop with
  | some p => p.trap.fpc == s.cur.pc && p.resume == s.cur.pc
  | none => false

/-- A pending asynchronous trap is taken at the boundary (R82, R255, R257). -/
def State.takePending (s : State) (t : Trap) (rest : List Trap) : State :=
  { s with cur := { s.cur with
      str := { s.cur.str with pending := rest }
      wait := .none
      susp := .none
      stop := some { trap := t, resume := s.cur.pc, retry := s.cur.retry } } }

/-- An OPEN window without its standing reservation takes one before anything executes, or LOGFULL (R475). -/
def State.standing (s : State) : State :=
  if s.cur.str.window.st = .opened ∧ s.cur.str.window.rsv.isNone then
    match s.reserve s.asid [(s.chipHere, 32)] with
    | some s1 => s1.setStr fun x => { x with window := { x.window with rsv := some s.chipHere } }
    | none => s.raise 0x09 0x03
  else s

/-- The strand leaves a blocking instruction whose condition has not been met: the count of its access is withdrawn, and the instruction will be executed again with RETRY (R38). -/
def State.leaveBlock (s : State) : Option State :=
  match s.cur.wait, s.cur.gate with
  | .block _, .access id =>
    match s.access? id with
    | some a =>
      if a.stage = .watching then
        let s1 : State := { s with flight := s.flight.filter fun b => b.id != id }
        let s2 := s1.setCounts fun c => { c with loads := c.loads - 1 }
        some { s2 with cur := { s2.cur with gate := .none, wait := .none, retry := true } }
      else none
    | none => none
  | .block _, .none => some { s with cur := { s.cur with wait := .none, retry := true } }
  | _, _ => none

/-- A trap or a rollback waits for the running strand, which stands at a boundary or in a blocking instruction that it can leave (R82, R231, R251, R257). -/
def State.called (s : State) : Bool :=
  (!s.cur.str.pending.isEmpty && s.cur.gate == .none)
    || ((!s.cur.str.pending.isEmpty || s.cur.str.rollbackDue) && s.leaveBlock.isSome)

/-- The operands of a decoded instruction: it waits for what is on its way; one that reads an uncorrectable word of a tile register writes nothing, and its strand takes MEMERR UNCORR at the next boundary (R290, R472, log 143). -/
def State.operands (s : State) (i : Instr) : Turn :=
  if s.pendingOperand i then .rest (s.waiting .stall)
  else match s.rowError (readRows i) with
    | some ad => .rest (s.asyncHere 0x0D 0x01 ad).advance
    | none => .run s i

/-- The turn of the focused core: the line of the PC, the head, its operands; a synchronous fault at the boundary comes before an asynchronous trap that waits (R257). -/
def State.turn (s : State) : Turn :=
  match s.cur.run with
  | none => .rest s
  | some _ =>
    if s.cur.stop.isSome || !s.clusterRuns then .rest s
    else
      let r := if s.cur.str.rollbackDue || !s.cur.str.pending.isEmpty then s.leaveBlock.getD s else s
      if r.cur.gate != .none then .rest r
      else if r.cur.susp != .none || r.cur.str.rollbackDue then
        match r.cur.str.pending with
        | t :: ts => .rest (r.takePending t ts)
        | [] => .rest r
      else
        let s0 := r.standing
        let s1 := if s0.cur.stop.isSome then s0 else s0.enterLine
        if s1.cur.stop.isSome then .rest s1
        else
          match s1.decoded, r.cur.str.pending with
          | none, [] => .rest s1
          | none, t :: ts => .rest (r.takePending t ts)
          | some (.illegal k), _ => .rest (s1.raise 0x01 k.code)
          | some (.instr i), [] => s1.operands i
          | some (.instr i), t :: ts => if s1.pendingOperand i then .rest (r.takePending t ts) else .either (r.takePending t ts) s1 i

/-! Placing an instruction where the next step fetches it (log 15). -/

/-- A line that holds one instruction and the NOP heads that fill it (R103). -/
def oneLine (h : BitVec 16) (t : BitVec 48) : BitVec 512 :=
  let l := 2 * (hTl h).toNat
  BitVec.ofNat 512 ((62 - l) / 2 + h.toNat * 2 ^ 16 + (t.toNat % 2 ^ (8 * l)) * 2 ^ (8 * (64 - l)))

/-- The page tables of log 15: one 64 KiB page of cluster scratchpad at 0x10_0000, through five levels in stack 20. -/
def bootTables : List (Nat × Nat) :=
  let p := 20 * 2 ^ 36
  [(p, p + 0x1000 + 1), (p + 0x1000, p + 0x2000 + 1), (p + 0x2000, p + 0x3000 + 1), (p + 0x3000, p + 0x4000 + 1),
   (p + 0x4000 + 8 * 16, 0x3F + 0x2 * 2 ^ 8 + 1 * 2 ^ 16)]

/-- The tables are written under key 1, as their keyed check needs. -/
def bootMem (m : Memory) (line : Nat) (l : BitVec 512) : Memory :=
  let m1 := (bootTables.foldl (fun m e => m.write e.1 ((toLe 8 e.2).map some)) m).write line ((toLe 64 l.toNat).map some)
  { m1 with blockKey := bootTables.foldl (fun t e => t.set (e.1 / 64) 1) m1.blockKey }

/-- The state in which the focused core is about to fetch a line that holds one instruction, in a handler strand of a context made for it. -/
def State.placed (s : State) (h : BitVec 16) (t : BitVec 48) : State :=
  { s with
    cur := { s.cur with
      run := some 0
      str := { asid := 1, vcn := 1, serves := some { chain := 0, slot := 0 }, st := .running, pos := s.focus % 8 }
      pc := 0x100002, line := none, wait := .none, gate := .none, susp := .none, stop := none, past := false }
    mem := bootMem s.mem (clusterBase (s.focus / 8)) (oneLine h t)
    keys := s.keys.set 0 1
    tlb := []
    walks := []
    icache := []
    map := s.map.set 1 { pcn := s.focus / 8, valid := true }
    pubs := []
    ctxs := s.ctxs.set 1 { desc := 0, ptroot := 20 * 2 ^ 36, vcfirst := 1, vcnum := 1, resident := true }
    sched := [] }

end Sys2Proof.Machine
end

