-- ==== Sys2Proof/Machine/Cipher.lean ====
section
/-! DEFINITION. AES-256 in XTS mode, the Reed–Solomon check symbols of a block, and SHAKE256 (R183, R184, R265). -/

namespace Sys2Proof.Machine

/-! GF(2^8). -/

/-- Multiply by x under a field polynomial. -/
def gfDouble (poly a : Nat) : Nat := if 2 * a < 256 then 2 * a else (2 * a) ^^^ poly

/-- Add a to the product r for each set bit of b. fuel: the bits. -/
def gfMulAdd (poly : Nat) : Nat → Nat → Nat → Nat → Nat
  | 0, _, _, r => r
  | n + 1, a, b, r => gfMulAdd poly n (gfDouble poly a) (b / 2) (if b % 2 = 1 then r ^^^ a else r)

def gfMul (poly a b : Nat) : Nat := gfMulAdd poly 8 a b 0

/-- a to the power n. -/
def gfPow (poly a : Nat) : Nat → Nat
  | 0 => 1
  | n + 1 => gfMul poly a (gfPow poly a n)

/-! AES-256 (R183). A block is 16 byte values in order. -/

def aesPoly : Nat := 0x11B

def rotByte (a k : Nat) : Nat := (a * 2 ^ k) % 256 + a / 2 ^ (8 - k)

/-- The substitution of a byte: its inverse, then the affine map. -/
def subByte (a : Nat) : Nat :=
  let i := gfPow aesPoly a 254
  i ^^^ rotByte i 1 ^^^ rotByte i 2 ^^^ rotByte i 3 ^^^ rotByte i 4 ^^^ 0x63

def xorList (a b : List Nat) : List Nat := List.zipWith (· ^^^ ·) a b

def shiftRows (s : List Nat) : List Nat := (List.range 16).map fun i => s.getD ((i + 4 * (i % 4)) % 16) 0

def mixColumn (c : List Nat) : List Nat :=
  (List.range 4).map fun i =>
    gfMul aesPoly (c.getD i 0) 2 ^^^ gfMul aesPoly (c.getD ((i + 1) % 4) 0) 3 ^^^ c.getD ((i + 2) % 4) 0 ^^^ c.getD ((i + 3) % 4) 0

def mixColumns (s : List Nat) : List Nat := (List.range 4).flatMap fun k => mixColumn ((s.drop (4 * k)).take 4)

/-- The words of the key schedule, four bytes each: the next n after those that stand. -/
def keyWords : Nat → List (List Nat) → List (List Nat)
  | 0, ws => ws
  | n + 1, ws =>
    let i := ws.length
    let t := ws.getD (i - 1) []
    let u := if i % 8 = 0 then xorList (((t.drop 1) ++ t.take 1).map subByte) [gfPow aesPoly 2 (i / 8 - 1), 0, 0, 0]
      else if i % 8 = 4 then t.map subByte else t
    keyWords n (ws ++ [xorList (ws.getD (i - 8) []) u])

/-- The round keys of a 32-byte key, 16 bytes each. -/
def roundKeys (key : List Nat) : List (List Nat) :=
  let ws := keyWords 52 ((List.range 8).map fun i => (key.drop (4 * i)).take 4)
  (List.range 15).map fun r => ((ws.drop (4 * r)).take 4).flatten

/-- Rounds under the keys that are left; the last one mixes no columns. -/
def aesRounds (s : List Nat) : List (List Nat) → List Nat
  | [] => s
  | [k] => xorList (shiftRows (s.map subByte)) k
  | k :: ks => aesRounds (xorList (mixColumns (shiftRows (s.map subByte))) k) ks

/-- AES-256 of a block. -/
def aes256 (key block : List Nat) : List Nat :=
  match roundKeys key with
  | k :: ks => aesRounds (xorList block k) ks
  | [] => block

/-- The little-endian bytes of a number as values. -/
def leBytes (n v : Nat) : List Nat := (List.range n).map fun i => v / 2 ^ (8 * i) % 256
def ofLeBytes (bs : List Nat) : Nat := bs.foldr (fun b n => b + 256 * n) 0

/-- The tweak of the next block of a data unit. -/
def nextTweak (t : Nat) : Nat := if t < 2 ^ 127 then 2 * t else (2 * t - 2 ^ 128) ^^^ 0x87

def tweakAt (t : Nat) : Nat → Nat
  | 0 => t
  | n + 1 => nextTweak (tweakAt t n)

/-- The ciphertext of AES block j of the 64-byte block at a physical address: the tweak is the address divided by 64 (R183). -/
def xtsBlock (key1 key2 : List Nat) (unit j : Nat) (plain : List Nat) : List Nat :=
  let t := leBytes 16 (tweakAt (ofLeBytes (aes256 key2 (leBytes 16 unit))) j)
  xorList (aes256 key1 (xorList plain t)) t

/-- The ciphertext of a 64-byte block under the key pair of a serial. -/
def cipherBlock (serial addr : Nat) (plain : List Byte) : List Nat :=
  let k := leBytes 64 (Config.keyPair serial).toNat
  (List.range 4).flatMap fun j => xtsBlock (k.take 32) (k.drop 32) (addr / 64) j (((plain.drop (16 * j)).take 16).map fun b => b.toNat)

/-! SHAKE256. A state is 25 lanes, lane (x, y) at 5y + x. -/

def rotLane (a k : Nat) : Nat := (a * 2 ^ k) % 2 ^ 64 + a / 2 ^ (64 - k)

def lane (a : List Nat) (x y : Nat) : Nat := a.getD (5 * (y % 5) + x % 5) 0

def keccakTheta (a : List Nat) : List Nat :=
  let c := (List.range 5).map fun x => lane a x 0 ^^^ lane a x 1 ^^^ lane a x 2 ^^^ lane a x 3 ^^^ lane a x 4
  a.mapIdx fun i v => v ^^^ c.getD ((i + 4) % 5) 0 ^^^ rotLane (c.getD ((i + 1) % 5) 0) 1

def rhoOffsets : List Nat := [0, 1, 62, 28, 27, 36, 44, 6, 55, 20, 3, 10, 43, 25, 39, 41, 45, 15, 21, 8, 18, 2, 61, 56, 14]

/-- Rho, then pi: lane (x, y) takes the lane ((x + 3y) mod 5, x). -/
def keccakRhoPi (a : List Nat) : List Nat :=
  let r := a.mapIdx fun i v => rotLane v (rhoOffsets.getD i 0)
  (List.range 25).map fun i => lane r (i % 5 + 3 * (i / 5)) (i % 5)

def keccakChi (a : List Nat) : List Nat :=
  a.mapIdx fun i v => v ^^^ ((2 ^ 64 - 1 - lane a (i % 5 + 1) (i / 5)) &&& lane a (i % 5 + 2) (i / 5))

def roundConstants : List Nat :=
  [0x0000000000000001, 0x0000000000008082, 0x800000000000808A, 0x8000000080008000, 0x000000000000808B, 0x0000000080000001,
   0x8000000080008081, 0x8000000000008009, 0x000000000000008A, 0x0000000000000088, 0x0000000080008009, 0x000000008000000A] ++
  [0x000000008000808B, 0x800000000000008B, 0x8000000000008089, 0x8000000000008003, 0x8000000000008002, 0x8000000000000080,
   0x000000000000800A, 0x800000008000000A, 0x8000000080008081, 0x8000000000008080, 0x0000000080000001, 0x8000000080008008]

def keccakF (a : List Nat) : List Nat :=
  roundConstants.foldl (fun a c => (keccakChi (keccakRhoPi (keccakTheta a))).mapIdx fun i v => if i = 0 then v ^^^ c else v) a

/-- Absorb blocks of 136 bytes. fuel: at least the blocks. -/
def absorb : Nat → List Nat → List Nat → List Nat
  | 0, a, _ => a
  | n + 1, a, bs =>
    if bs.isEmpty then a
    else absorb n (keccakF (a.mapIdx fun i v => if i < 17 then v ^^^ ofLeBytes ((bs.drop (8 * i)).take 8) else v)) (bs.drop 136)

/-- SHAKE256 cut to 32 bytes, the first in the low byte. -/
def shake256 (msg : List Byte) : BitVec 256 :=
  let m := msg.map (fun b => b.toNat) ++ [0x1F]
  let n := (m.length + 135) / 136
  let p := m ++ List.replicate (136 * n - m.length) 0
  let a := absorb n (List.replicate 25 0) ((p.take (136 * n - 1)) ++ [p.getD (136 * n - 1) 0 ^^^ 0x80])
  BitVec.ofNat 256 (ofLeBytes ((a.take 4).flatMap (leBytes 8)))

/-! The metadata of a block (R184). -/

def rsPoly : Nat := 0x11D

/-- The generator of the code, highest power first: the product of (x + α^i), i from 0 to 7. -/
def rsGenerator : List Nat :=
  (List.range 8).foldl (fun g i => List.zipWith (· ^^^ ·) (g ++ [0]) (0 :: g.map fun c => gfMul rsPoly c (gfPow rsPoly 2 i))) [1]

/-- The eight check symbols of data symbols in order: the remainder of the division by the generator. -/
def rsCheck (data : List Nat) : List Nat :=
  data.foldl (fun r d =>
    let f := d ^^^ r.getD 0 0
    List.zipWith (· ^^^ ·) (r.drop 1 ++ [0]) ((rsGenerator.drop 1).map fun c => gfMul rsPoly c f)) (List.replicate 8 0)

/-- The metadata field of the block at a physical address, written under the key of a serial: the check symbols of its ciphertext, under the pad. DESIGN CHOICE (log 175): R184 does not give the widths and the byte order of the integrity key, the stack number and the physical address in what SHAKE256 takes; here they are 32 bytes, 1 byte and 8 bytes, little-endian. -/
def blockMeta (serial addr : Nat) (plain : List Byte) : List Nat :=
  let pad := shake256 (toLe 32 (Config.integrityKey serial).toNat ++ toLe 1 (addr / 2 ^ 36) ++ toLe 8 addr)
  xorList (rsCheck (cipherBlock serial addr plain)) (leBytes 8 pad.toNat)

end Sys2Proof.Machine
end

