-- ==== Sys2Proof/Machine/Tile.lean ====
section
/-! DEFINITION. The tile instructions: at L0 in the vector queue, at L1 to L5 their checks and their issue (R61 to R65, R70 to R72, R74, R77, R401 to R425). -/

namespace Sys2Proof.Machine

/-! L0 (R402, R403). -/

def tileRow0 (t : Reg) (r : Nat) : RowId := BitVec.ofNat 5 (4 * (t.toNat % 8) + r)

/-- The elements of a tile, through the bypass. -/
def State.tileElems (s : State) (t : Reg) (w : Nat) : List Nat := (List.range 4).flatMap fun r => rowElems (s.row (tileRow0 t r)) w

/-- Write elements to a tile: the rows that hold an element of the first n. -/
def State.setTile (s : State) (t : Reg) (w n : Nat) (es : List Nat) : State :=
  (List.range 4).foldl (fun s r =>
    if perRow w * r < n then s.putSome false (tileRow0 t r) (rowOf w ((es.drop (perRow w * r)).take (perRow w))) (fun i => decide (8 * i < (n - perRow w * r) * w)) else s) s

/-- Rows of a tile that the first n elements touch. -/
def rowsTouched (w n : Nat) : Nat := min 4 ((n + perRow w - 1) / perRow w)

/-- An L0 instruction that writes the first n elements of tD (R403): its place in the vector queue, its slot, its rows. -/
def State.tileOp0 (s : State) (i : Instr) (d : Reg) (w n : Nat) (f : State → List Nat) : Out :=
  if 8 ≤ s.cur.vq.length then .next (s.waiting .stall)
  else s.withSlot fun t => t.inQueue i (4 * rowsTouched w n) fun u =>
    let new := f u
    .next (u.setTile d w n (new.take n ++ (u.tileElems d w).drop n)).advance

/-- Check the control word, or ILLEGAL FMT (R402). -/
def State.withCtl (s : State) (c : Reg) (modes : Bool) (ok : CtlWord → Bool) (go : CtlWord → Out) : Out :=
  match ctlWord (s.reg c) modes with
  | some k => if ok k then go k else .next (s.raise 0x01 0x0A)
  | none => .next (s.raise 0x01 0x0A)

/-- An element-wise L0 instruction: elements 0 to N − 1 (R402). -/
def State.map0 (s : State) (i : Instr) (d a b c : Reg) (modes : Bool) (two : Option (FVal → FVal → FVal)) : Out :=
  s.withCtl c modes (fun _ => true) fun k =>
    let sw := k.sfmt.bits
    let dw := k.dfmt.bits
    let n := 4 * min (perRow sw) (perRow dw)
    let rcw := if modes then k.rcw else rcwRne true
    s.tileOp0 i d dw n fun t =>
      let av := ((t.tileElems a sw).take n).map (elemVal k.sfmt 0)
      let vs := match two with
        | some f => List.zipWith f av (((t.tileElems b sw).take n).map (elemVal k.sfmt 0))
        | none => av
      vs.mapIdx fun i v => convElem k.dfmt rcw i v

/-- TMOV at L0 copies all of tA (R419). -/
def State.mov0 (s : State) (i : Instr) (d a : Reg) : Out := s.tileOp0 i d 32 256 fun t => t.tileElems a 32

def State.fill0 (s : State) (i : Instr) (d a c : Reg) : Out :=
  s.withCtl c false (fun k => k.sfmt == k.dfmt) fun k =>
    let n := 4 * perRow k.dfmt.bits
    s.tileOp0 i d k.dfmt.bits n fun t => List.replicate n ((t.tileElems a k.sfmt.bits).headD 0)

def State.trans0 (s : State) (i : Instr) (d a c : Reg) : Out :=
  s.withCtl c false (fun k => k.sfmt == k.dfmt && decide (8 ≤ k.sfmt.bits)) fun k =>
    let w := k.sfmt.bits
    let e := perRow w
    s.tileOp0 i d w (4 * e) fun t =>
      let m := t.tileElems a w
      (List.range (4 * e)).map fun i => m.getD (i % 4 * e + i / 4) 0

/-- The destination formats of TRED (R422). -/
def redFmt (f : Fmt) : Bool := f.isFloat || f.isInt

def State.red0 (s : State) (i : Instr) (d a c : Reg) : Out :=
  s.withCtl c false (fun k => k.op != 3 && redFmt k.dfmt && (!k.axis || decide (perRow k.sfmt.bits ≤ 4 * perRow k.dfmt.bits))) fun k =>
    let e := perRow k.sfmt.bits
    let n := if k.axis then e else 4
    s.tileOp0 i d k.dfmt.bits n fun t =>
      let vs := (t.tileElems a k.sfmt.bits).map (elemVal k.sfmt 0)
      (List.range n).map fun i =>
        let line := if k.axis then (List.range 4).map fun r => vs.getD (r * e + i) .nan else (vs.drop (i * e)).take e
        convElem k.dfmt (rcwRne true) 0 (reduceLine k.op line)

/-- The passes of an A format (R160). -/
def passesOf : Fmt → Nat
  | .e2m1s | .b 0 => 1
  | .e4m3s | .e5m2s | .b 1 | .b 2 => 2
  | _ => 4

/-- TMMA at L0 (R417). -/
def State.mma0 (s : State) (i : Instr) (fa fb : Fmt) (d a b : Reg) : Out :=
  let k := min (blocksOf fa.bits) (blocksOf fb.bits)
  if 8 ≤ s.cur.vq.length then .next (s.waiting .stall)
  else s.withSlot fun t =>
    let u : State := { t with cur := { t.cur with vq := t.cur.vq ++ [{ rowEntry i (48 * passesOf fa * k) t.cur.pc with product := true, check := none }] } }
    let sc := rowBytes (u.row (tileRow0 d 1))
    let scaleAt : Nat → Nat := fun i => (sc.getD i 0).toNat
    let vals : Fmt → Reg → Nat → Nat → Nat → List FVal := fun f x m blk off =>
      (((rowElems (u.row (tileRow0 x m)) f.bits).drop (48 * blk)).take 48).map (elemVal f (scaleAt (off + 8 * m + blk)))
    let d0 := rowElems (u.row (tileRow0 d 0)) 32
    let out := (List.range 16).map fun i =>
      (List.range k).foldl (fun c blk => addBlock c (vals fa a (i / 4) blk 0) (vals fb b (i % 4) blk 32)) (d0.getD i 0)
    .next ((u.putSome false (tileRow0 d 0) (rowOf 32 (out ++ d0.drop 16)) (fun i => decide (i < 64))).advance.happen s.vcn 0x03 k)

/-! Checks at issue (R64, R70, R401, R404). -/

/-- Levels as numbers. -/
def Level.num : Level → Nat
  | .l0 => 0 | .l1 => 1 | .l2 => 2 | .l3 => 3 | .l4 => 4 | .l5 => 5

/-- What a tile instruction at L1 or above names. -/
structure TileArgs where
  kind : TileKind
  level : Nat
  snap : Bool := false
  d : Reg
  a : Reg
  b : Reg := 0
  c : Reg := 0

def TileArgs.hasA (t : TileArgs) : Bool := t.kind != .fill
def TileArgs.hasB (t : TileArgs) : Bool :=
  match t.kind with
  | .add | .mul | .compact | .mma .. | .mmag .. => true
  | .baq => t.b != 0
  | _ => false
def TileArgs.hasC (t : TileArgs) : Bool := match t.kind with | .mma .. => t.c != 0 | _ => false
def TileArgs.hasRec (t : TileArgs) : Bool := match t.kind with | .mmag .. | .sortc | .compact => true | _ => false

/-- The scalar registers that hold addresses (R401). -/
def TileArgs.addrRegs (t : TileArgs) : List Reg :=
  [t.d] ++ (if t.hasA then [t.a] else []) ++ (if t.hasB then [t.b] else []) ++ (if t.hasC || t.hasRec then [t.c] else [])

/-- A value operand that is refused (R154, R422). -/
def TileArgs.badValue (t : TileArgs) (w : Word) : Bool :=
  match t.kind with
  | .cvt | .baq => (rcwOf w).isNone
  | .red => w &&& ~~~(7#64 <<< 24) != 0 || redOp w == 3
  | _ => false

/-- The issuing strand as the reader of its own descriptors and records (R64, R71): a located read at the homes. -/
def State.probe (s : State) (t : TileArgs) : TileRoot :=
  { seq := 0, sid := s.cur.run.getD 0, asid := s.asid, vcn := s.vcn, worker := s.vcn, core := s.focus, pc := s.cur.pc, kind := t.kind, level := 1 }

/-- Read a descriptor: a fault of the read, or check DESC. -/
def State.readDesc (s : State) (t : TileArgs) (va : Nat) : Except Fail Desc :=
  if va % 64 ≠ 0 then .error { cause := 0x05, sub := 0x01, addr := BitVec.ofNat 64 va }
  else
    match s.tileRead (s.probe t) va 64 with
    | .error f => .error f
    | .ok bs =>
      match descOf bs with
      | some d => .ok d
      | none => .error { cause := 0x05, sub := 0x01, addr := BitVec.ofNat 64 va }

def State.readDescIf (s : State) (t : TileArgs) (p : Bool) (r : Reg) : Except Fail (Option Desc) :=
  if p then (match s.readDesc t (s.reg r).toNat with | .ok d => .ok (some d) | .error f => .error f) else .ok none

/-- The formats of the operands (R140, R145). -/
def descFmtsOk (k : TileKind) (d : Desc) (a b c : Option Desc) : Bool :=
  let fa := (a.map fun x => x.fmt).getD .raw
  let fb := (b.map fun x => x.fmt).getD .raw
  match k with
  | .mma x y => fa == x && fb == y && d.fmt.isFloat && (c.map fun z => z.fmt.isFloat).getD true
  | .mmag x y => fa == x && fb == y && d.fmt.isFloat
  | .sortc => (fa == .n32 || fa == .n16 || fa == .n8) && d.fmt == .n32
  | .compact => fa == d.fmt && decide (8 ≤ fa.bits) && !fa.hasScale
  | .trans => fa == d.fmt && decide (8 ≤ fa.bits) && !fa.hasScale
  | .red => redFmt d.fmt
  | .mov => fa == d.fmt
  | _ => true

/-- The dimensions agree (R64 SHAPE). -/
def descDimsOk (k : TileKind) (axis : Bool) (d : Desc) (a b c : Option Desc) : Bool :=
  let x := a.getD d
  let y := b.getD d
  let same : Desc → Bool := fun z => z.rows == d.rows && z.cols == d.cols
  let dims := match k with
    | .mma .. | .mmag .. =>
      x.cols == y.cols && x.cols % 48 == 0 && d.cols == y.rows && x.rows == d.rows && (c.map same).getD true
    | .sortc => decide (x.count ≤ d.count)
    | .compact => y.count == x.count && decide (x.count ≤ d.count)
    | .trans => d.rows == x.cols && d.cols == x.rows
    | .red => if axis then d.rows == 1 && d.cols == x.cols else d.rows == x.rows && d.cols == 1
    | _ => same x && same y
  dims && ([some d, a, b, c].filterMap id).all fun z => !z.fmt.hasScale || z.cols % 48 == 0

/-- The groups of a record: first row and rows of each (R70). -/
def groupsFrom : Nat → List Nat → List (Nat × Nat)
  | _, [] => []
  | n, c :: t => (n, c) :: groupsFrom (n + c) t

/-- What a record gives: groups, GBASE, key count (R70, R424); or check DESC or GROUPOVER. -/
def State.readRec (s : State) (t : TileArgs) (rows : Nat) : Except Fail (List (Nat × Nat) × Nat × Nat) :=
  let va := (s.reg t.c).toNat
  let desc : Fail := { cause := 0x05, sub := 0x01, addr := BitVec.ofNat 64 va }
  match t.kind with
  | .compact => if va % 8 ≠ 0 then .error desc else .ok ([], 0, 0)
  | .sortc | .mmag .. =>
    if va % 256 ≠ 0 then .error desc
    else
      match s.tileRead (s.probe t) va 256 with
      | .error f => .error f
      | .ok bs =>
        let n := field bs 0 4
        if n = 0 ∨ 60 < n ∨ field bs 8 8 ≠ 0 then .error desc
        else
          match t.kind with
          | .sortc => .ok ([], 0, n)
          | _ =>
            let gs := groupsFrom 0 ((List.range n).map fun g => field bs (0x10 + 4 * g) 4)
            if rows < (gs.map fun g => g.2).sum then .error { cause := 0x05, sub := 0x05, addr := BitVec.ofNat 64 va }
            else .ok (gs, field bs 4 4, 0)
  | _ => .ok ([], 0, 0)

/-- A place outside the level's targets (R64 LEVEL). -/
def outsideLevel (level : Nat) (n : Nat) : Loc → Bool
  | .core v p o own => if level = 1 then !own || (Loc.core v p o own).inSlots n else false
  | .cluster .. | .chiplet .. | .hbm .. => level == 1
  | _ => true

/-- The first byte range outside the level's targets; pages that do not translate are charged to their leaves. -/
def State.levelFault (s : State) (level : Nat) (ps : List (Nat × Nat × Need)) : Option (BitVec 64) :=
  ps.findSome? fun p =>
    if 2 ^ 56 < p.1 + p.2.1 then none
    else (pagePieces (p.2.1 / 2 ^ 16 + 2) p.1 p.2.1).findSome? fun q =>
      match s.xlate s.agent s.asid s.vcn s.pos p.2.2 q.1 with
      | .ok l => if outsideLevel level q.2 l then some (BitVec.ofNat 64 q.1) else none
      | .error _ => none

/-- The context lacks a staging area that the level needs (R64 NOSTAGE). -/
def Ctx.lacksStage (c : Ctx) (level : Nat) : Bool := (decide (2 ≤ level) && c.stage2.isNone) || (decide (3 ≤ level) && c.stage3.isNone)

/-- Two instructions conflict (R77). -/
def TileRoot.conflicts (r q : TileRoot) : Bool :=
  r.spans.any fun x => q.spans.any fun y => (x.2.2 || y.2.2) && decide (x.1 < y.2.1) && decide (y.1 < x.2.1)

/-- The byte ranges of all operands, and whether they are written. -/
def TileRoot.operandPieces (r : TileRoot) : List (Nat × Nat × Bool) := r.operands.flatMap fun o => o.2.map fun p => (p.1, p.2, o.1)

/-- Located pieces of ranges that translate: what claims and the log count. -/
def State.located (s : State) (r : TileRoot) (write : Bool) (ps : List (Nat × Nat)) : List Seg :=
  ps.flatMap fun p => ((s.tilePieces r (if write then .wr else .rd) p.1 p.2).toOption).getD []

/-- The operands of a root at their places: whether it is written, and its pieces. -/
def State.operandsOf (s : State) (r : TileRoot) : List (Bool × List Seg) := r.operands.map fun o => (o.1, s.located r o.1 o.2)

/-- The places of an operand, as claims count them. -/
def placesOfOperand (write : Bool) (gs : List Seg) : List (Bool × Loc × Nat) := gs.map fun g => (write, g.loc, g.n)

/-- The claims of a root: for each operand one stretch at each home bank, from its lowest to its highest byte there (R74). -/
def State.tileClaims (s : State) (seq : Nat) (ops : List (Bool × List Seg)) : List Claim :=
  (ops.mapIdx fun k o => (s.claimsFor seq true (placesOfOperand o.1 o.2)).map fun c => { c with opnd := k }).flatten

/-- The reservation of a root: one entry per logged part of every write that its leaves will make (R404). -/
def State.tileReq (s : State) (r : TileRoot) : List (Nat × Nat) :=
  r.destPieces.flatMap fun p =>
    match s.tileSegs r p.1 p.2 with
    | .ok segs => s.segsReq segs
    | .error _ => []

/-- The root record of an instruction, before its reservation and its claims (R65, R75). -/
def State.tileRoot (s : State) (t : TileArgs) (d : Desc) (a b c : Option Desc) (gs : List (Nat × Nat)) (gbase keys : Nat) : TileRoot :=
  { s.probe t with
    level := t.level
    snap := t.snap, addrs := [t.a, t.b, t.c, t.d].map fun x => (s.reg x).toNat % 2 ^ 56
    mode := (s.log s.asid).mode, tick := s.nextId
    seq := s.vcn % 4096 * 2 ^ 52 + (s.vc s.vcn).tileIssue.toNat, d := d, a := a, b := b, c := c
    word := s.reg (if t.kind = .fill then t.a else t.c), recVa := if t.hasRec then (s.reg t.c).toNat else 0
    groups := gs, gbase := gbase, keys := keys
    win := s.cur.str.window.num, winStamp := s.cur.str.window.stamp, order := ((s.ctx? s.asid).getD { desc := 0 }).l5count }

/-- The mask of TCOMPACT, where the issuing core reads it at issue (R71). -/
def State.snapMask (s : State) (t : TileArgs) (r : TileRoot) : Except Fail (Option (List Bool)) :=
  if t.snap && t.kind == .compact then
    match s.itemMask r 0 (r.a.getD {}).count with
    | .ok m => .ok (some m)
    | .error f => .error f
  else .ok none

/-- A tile instruction at L1 or above issues (R65, R404). DESIGN CHOICE (log 144): the spec gives no order among the checks of a head that fails several; here a refused control word comes first (R154), then a register with bits [63:56] (R401), DESC of the descriptors, DESC and GROUPOVER of the record, SHAPE, LEVEL, NOSTAGE (R64), and last UNDO LOGFULL; the LEVEL of an L5 instruction in a context without peers (R140) comes after DESC of the descriptors themselves and before DESC of their formats. An L5 instruction whose SEAL entry the ring does not accept is not sent: the strand takes RINGERR after it (R227, R473). -/
def State.tileIssue (s : State) (w : BitVec 2) (t : TileArgs) : Out :=
  if s.classBusy w ∨ s.counts.stores ≠ 0 ∨ 63 ≤ s.counts.tiles then .next (s.waiting .stall)
  else if t.badValue (s.reg t.c) then .next (s.raise 0x01 0x0A)
  else
    match t.addrRegs.find? fun r => bitsOf (s.reg r) 63 56 != 0 with
    | some r => .next (s.raise 0x03 0x05 (s.reg r))
    | none =>
      match s.readDesc t (s.reg t.d).toNat, s.readDescIf t t.hasA t.a, s.readDescIf t t.hasB t.b, s.readDescIf t t.hasC t.c with
      | .error f, _, _, _ | _, .error f, _, _ | _, _, .error f, _ | _, _, _, .error f => .next (s.raiseFail f)
      | .ok d, .ok a, .ok b, .ok c =>
        let ctx := (s.ctx? s.asid).getD { desc := 0 }
        if t.level = 5 ∧ ctx.peers = 0 then .next (s.raise 0x05 0x03)
        else if !descFmtsOk t.kind d a b c || (t.level == 5 && t.kind == .baq && (b.map fun x => x.fmt != .f32).getD false) then .next (s.raise 0x05 0x01)
        else
          match s.readRec t (a.getD d).rows with
          | .error f => .next (s.raiseFail f)
          | .ok (gs, gbase, keys) =>
            if !descDimsOk t.kind (redAxis (s.reg t.c)) d a b c then .next (s.raise 0x05 0x02)
            else
              let v := s.vc s.vcn
              let r0 := s.tileRoot t d a b c gs gbase keys
              match s.levelFault t.level (r0.operandPieces.map fun p => (p.1, p.2.1, if p.2.2 then .wr else .rd)) with
              | some ad => .next (s.raise 0x05 0x03 ad)
              | none =>
                if ctx.lacksStage t.level then .next (s.raise 0x05 0x04)
                else
                  let ops := s.operandsOf r0
                  let cl := ops.flatMap fun o => placesOfOperand o.1 o.2
                  let cs := s.tileClaims r0.seq ops
                  if s.claimsWait cs cl then .next (s.waiting .stall)
                  else
                    match s.snapMask t r0 with
                    | .error f => .next (s.raiseFail f)
                    | .ok mask =>
                      let req := s.tileReq r0
                      let r : TileRoot := { r0 with
                        rsv := req, mask := mask, spans := r0.spansOf
                        near := s.nearest (((ops.filter fun o => o.1).flatMap fun o => o.2).map fun g => g.loc) }
                      match s.reserve s.asid req with
                      | none => .next (s.raise 0x09 0x03)
                      | some s1 =>
                        let go : State → Out := fun u =>
                          let u1 := (u.setCounts fun c => { c with tiles := c.tiles + 1 }).setVc s.vcn { u.vc s.vcn with tileIssue := v.tileIssue + 1 }
                          let u2 := if t.level = 5 ∧ t.kind = .baq then u1.modCtx s.asid fun c => { c with l5count := c.l5count + 1 } else u1
                          .next { u2 with tiles := u2.tiles ++ [r], claims := u2.claims ++ cs }.advance
                        if t.level = 5 then
                          match s1.sealWindow (some (true, r0.seq)) with
                          | .full => .next (s.raise 0x09 0x03)
                          | .refused s2 e => .next ((s2.modLog s.asid fun l => l.subRsv req).pend e).advance
                          | .done s2 => go s2
                        else go (if 2 ≤ t.level then s1.fixWindow else s1)

/-! The instructions. -/

def FloatAB.fmt : FloatAB → Fmt
  | .bf16 => .bf16 | .e4m3s => .e4m3s | .e5m2s => .e5m2s | .e2m1s => .e2m1s

def execTmov (l : Level) (w : BitVec 2) (d a : Reg) (s : State) : Out :=
  if l = .l0 then (if s.classBusy w then .next (s.waiting .stall) else s.mov0 (.tmov l w d a) d a) else s.tileIssue w { kind := .mov, level := Level.num l, d := d, a := a }
def execTadd (l : Level) (w : BitVec 2) (d a b c : Reg) (s : State) : Out :=
  if l = .l0 then (if s.classBusy w then .next (s.waiting .stall) else s.map0 (.tadd l w d a b c) d a b c false (some FVal.add))
  else s.tileIssue w { kind := .add, level := Level.num l, d := d, a := a, b := b }
def execTmul (l : Level) (w : BitVec 2) (d a b c : Reg) (s : State) : Out :=
  if l = .l0 then (if s.classBusy w then .next (s.waiting .stall) else s.map0 (.tmul l w d a b c) d a b c false (some FVal.mul))
  else s.tileIssue w { kind := .mul, level := Level.num l, d := d, a := a, b := b }
def execTcvt (l : Level) (w : BitVec 2) (d a c : Reg) (s : State) : Out :=
  if l = .l0 then (if s.classBusy w then .next (s.waiting .stall) else s.map0 (.tcvt l w d a c) d a a c true none)
  else s.tileIssue w { kind := .cvt, level := Level.num l, d := d, a := a, c := c }
def execTbaq (l : Level) (w : BitVec 2) (d a b c : Reg) (s : State) : Out :=
  if l = .l0 then (if s.classBusy w then .next (s.waiting .stall) else s.map0 (.tbaq l w d a b c) d a b c true (some FVal.add))
  else s.tileIssue w { kind := .baq, level := Level.num l, d := d, a := a, b := b, c := c }
def execTsortc (l : Level) (snap : Bool) (w : BitVec 2) (d a c : Reg) (s : State) : Out :=
  s.tileIssue w { kind := .sortc, level := Level.num l, snap := snap, d := d, a := a, c := c }
def execTcompact (l : Level) (snap : Bool) (w : BitVec 2) (d a b c : Reg) (s : State) : Out :=
  s.tileIssue w { kind := .compact, level := Level.num l, snap := snap, d := d, a := a, b := b, c := c }
def execTred (l : Level) (w : BitVec 2) (d a c : Reg) (s : State) : Out :=
  if l = .l0 then (if s.classBusy w then .next (s.waiting .stall) else s.red0 (.tred l w d a c) d a c)
  else s.tileIssue w { kind := .red, level := Level.num l, d := d, a := a, c := c }
def execTtrans (l : Level) (w : BitVec 2) (d a c : Reg) (s : State) : Out :=
  if l = .l0 then (if s.classBusy w then .next (s.waiting .stall) else s.trans0 (.ttrans l w d a c) d a c)
  else s.tileIssue w { kind := .trans, level := Level.num l, d := d, a := a }
def execTfill (l : Level) (w : BitVec 2) (d a c : Reg) (s : State) : Out :=
  if l = .l0 then (if s.classBusy w then .next (s.waiting .stall) else s.fill0 (.tfill l w d a c) d a c)
  else s.tileIssue w { kind := .fill, level := Level.num l, d := d, a := a }
def execTmmaFloat (l : Level) (w : BitVec 2) (fa fb : FloatAB) (d a b c : Reg) (s : State) : Out :=
  if l = .l0 then (if s.classBusy w then .next (s.waiting .stall) else s.mma0 (.tmmaFloat l w fa fb d a b c) (FloatAB.fmt fa) (FloatAB.fmt fb) d a b)
  else s.tileIssue w { kind := .mma (FloatAB.fmt fa) (FloatAB.fmt fb), level := Level.num l, d := d, a := a, b := b, c := c }
def execTmmaBlock (l : Level) (w : BitVec 2) (fa fb : Fin 7) (d a b c : Reg) (s : State) : Out :=
  if l = .l0 then (if s.classBusy w then .next (s.waiting .stall) else s.mma0 (.tmmaBlock l w fa fb d a b c) (.b fa) (.b fb) d a b)
  else s.tileIssue w { kind := .mma (.b fa) (.b fb), level := Level.num l, d := d, a := a, b := b, c := c }
def execTmmagFloat (l : Level) (snap : Bool) (w : BitVec 2) (fa fb : FloatAB) (d a b c : Reg) (s : State) : Out :=
  s.tileIssue w { kind := .mmag (FloatAB.fmt fa) (FloatAB.fmt fb), level := Level.num l, snap := snap, d := d, a := a, b := b, c := c }
def execTmmagBlock (l : Level) (snap : Bool) (w : BitVec 2) (fa fb : Fin 7) (d a b c : Reg) (s : State) : Out :=
  s.tileIssue w { kind := .mmag (.b fa) (.b fb), level := Level.num l, snap := snap, d := d, a := a, b := b, c := c }

end Sys2Proof.Machine
end

