-- ==== Sys2Proof/Machine/TileEv.lean ====
section
/-! DEFINITION. The schedulers of tile tasks and the arbiters: decomposition, staging, the matrix unit, the lane groups, completion and roll-up, stealing, gateway reductions (R61 to R83, R248 to R250, R285, R308, R309, R407). -/

namespace Sys2Proof.Machine

/-! Queues of tasks. -/

/-- A cluster whose rotation drain has not begun: its virtual clusters may be thieves and victims (R250). -/
def State.trades (s : State) (pcn : Nat) : Bool := (s.cluster pcn).rot == .inService || (s.cluster pcn).rot == .due

/-- The virtual clusters that a physical cluster hosts. -/
def State.hosted (s : State) (pcn : Nat) : List Nat := (s.map.filter fun e => e.2.valid && !e.2.nonres && e.2.pcn == pcn).map fun e => e.1

/-- The tasks in the queue of a virtual cluster that satisfy a condition. -/
def State.tasksAt (s : State) (v : Nat) (p : TileRoot → Leaf → Bool) : List (TileRoot × Leaf) :=
  s.tiles.flatMap fun r => (r.leaves.filter fun l => l.vcn == v && p r l).map fun l => (r, l)

/-- The oldest task, and the youngest. -/
def oldestTask : List (TileRoot × Leaf) → Option (TileRoot × Leaf)
  | [] => none
  | x :: t => some (t.foldl (fun b y => if y.2.order < b.2.order then y else b) x)
def youngestTask : List (TileRoot × Leaf) → Option (TileRoot × Leaf)
  | [] => none
  | x :: t => some (t.foldl (fun b y => if b.2.order < y.2.order then y else b) x)

def State.leaf? (s : State) (seq idx : Nat) : Option (TileRoot × Leaf) :=
  (s.root? seq).bind fun r => (r.leaves.find? fun l => l.idx == idx).map fun l => (r, l)

def TileRoot.product (r : TileRoot) : Bool := match r.kind with | .mma .. | .mmag .. => true | _ => false
def TileRoot.twoPhase (r : TileRoot) : Bool := match r.kind with | .sortc | .compact => true | _ => false

/-! Decomposition (R62, R68, R77). -/

/-- Leaves lo to hi − 1 dealt to children in order. -/
def dealAmong (vs : List Nat) (lo hi : Nat) : List (Nat × Nat) :=
  vs.zipIdx.flatMap fun p =>
    let a := lo + p.2 * (hi - lo) / vs.length
    let b := lo + (p.2 + 1) * (hi - lo) / vs.length
    (List.range (b - a)).map fun i => (a + i, p.1)

/-- The virtual clusters of a context that the map hosts on a chiplet, and the chiplets that host any. -/
def State.ctxVcns (s : State) (asid : Nat) : List Nat :=
  match s.ctx? asid with
  | some c => ((List.range c.vcnum).map fun i => c.vcfirst + i).filter fun v => (s.mapNow v).valid
  | none => []
def State.ctxOn (s : State) (asid chip : Nat) : List Nat := (s.ctxVcns asid).filter fun v => chipOf (s.host v) == chip
def State.ctxChips (s : State) (asid : Nat) : List Nat := (List.range 48).filter fun c => !(s.ctxOn asid c).isEmpty

/-- The L4 deal: chiplets in ascending number, then their virtual clusters. -/
def State.dealPanel (s : State) (asid lo hi : Nat) : List (Nat × Nat) :=
  let chips := s.ctxChips asid
  chips.zipIdx.flatMap fun p =>
    dealAmong (s.ctxOn asid p.1) (lo + p.2 * (hi - lo) / chips.length) (lo + (p.2 + 1) * (hi - lo) / chips.length)

/-- PANELID (R23). -/
def State.panelId (s : State) : Nat := 0x4896 + s.fuses.stepping % 256 * 2 ^ 16 + 2 ^ 24 + 2 ^ 32

/-- The peer-table entry is the panel's own. -/
def State.ownPeer (s : State) (i : Nat) : Bool := match s.peers.get? i with | some e => e.remote.toNat == s.panelId | none => false

/-- Who gets which leaf of n: leaf number and virtual cluster. -/
def State.deal (s : State) (r : TileRoot) (n : Nat) : List (Nat × Nat) :=
  match r.level with
  | 3 => dealAmong (s.ctxOn r.asid (chipOf (s.host r.vcn))) 0 n
  | 4 => s.dealPanel r.asid 0 n
  | 5 =>
    if r.gateway then (List.range n).map fun i => (i, r.vcn)
    else
      let ps := ((s.ctx? r.asid).map fun c => c.peerList).getD []
      ps.zipIdx.flatMap fun p =>
        let lo := p.2 * n / ps.length
        let hi := (p.2 + 1) * n / ps.length
        if s.ownPeer p.1 then s.dealPanel r.asid lo hi else if lo < hi then [(lo, farVcn + p.1)] else []
  | _ => (List.range n).map fun i => (i, r.vcn)

/-- The gateway cores of the ports that are UP: port and number (R308). -/
def State.gatewayCores (s : State) : List (Nat × Nat) :=
  (s.ports.filter fun p => p.2.st == 2).flatMap fun p => (List.range 8).map fun k => (p.1, k)

/-- The chiplets' shares of leaves lo to hi − 1, as L3 records under a parent; an empty share receives none (R61, R68). -/
def State.l3Records (s : State) (asid lo hi : Nat) (parent : Option Nat) : List TileMid :=
  let chips := s.ctxChips asid
  (chips.zipIdx.map fun p =>
    ({ level := 3, parent := parent, place := p.1, lo := lo + p.2 * (hi - lo) / chips.length, hi := lo + (p.2 + 1) * (hi - lo) / chips.length } : TileMid)).filter
    fun m => decide (m.lo < m.hi)

/-- The records between a root of n leaves and its L2 tasks (R61, R75). -/
def State.midRecords (s : State) (r : TileRoot) (n : Nat) : List TileMid :=
  match r.level with
  | 4 => s.l3Records r.asid 0 n none
  | 5 =>
    if r.gateway then []
    else
      let ps := ((s.ctx? r.asid).map fun c => c.peerList).getD []
      let l4 := (ps.zipIdx.map fun p =>
        ({ level := 4, place := p.1, lo := p.2 * n / ps.length, hi := (p.2 + 1) * n / ps.length } : TileMid)).filter fun m => decide (m.lo < m.hi)
      l4 ++ l4.zipIdx.flatMap fun m => if s.ownPeer m.1.place then s.l3Records r.asid m.1.lo m.1.hi (some m.2) else []
  | _ => []

/-- The mask of all items, which the decomposer reads once, before any child exists (R71). -/
def State.readMask (s : State) (r : TileRoot) : Except Fail (Option (List Bool)) :=
  match r.kind with
  | .compact => (match s.itemMask r 0 (r.a.getD {}).count with | .ok m => .ok (some m) | .error f => .error f)
  | _ => .ok none

/-- A fault of the whole instruction, at its own level. -/
def TileRoot.ownFault (r : TileRoot) (f : Fail) : SubFault :=
  { cause := f.cause, sub := f.sub, level := r.level, seq := BitVec.ofNat 64 r.seq, addr := f.addr, vcn := r.vcn }

/-- The members of a reduction whose shapes or formats differ from this one's (R407). -/
def State.membersDiffer (s : State) (r : TileRoot) : Bool :=
  r.gateway && ((((s.ctx? r.asid).map fun c => c.peerList).getD []).any fun i => !s.ownPeer i) && Config.membersDiffer r.seq

/-- An older instruction of the same strand conflicts (R77). -/
def State.olderConflict (s : State) (r : TileRoot) : Bool :=
  (s.tiles.takeWhile fun q => q.seq != r.seq).any fun q => q.sid == r.sid && q.conflicts r

/-- The sub-faults of a root in ascending leaf order: its own, those of its leaves, those of the shares of other panels. -/
def TileRoot.subs (r : TileRoot) : List SubFault :=
  (r.own.toList ++ r.leaves.flatMap fun l => l.sub.toList ++ l.farSubs).foldl (fun (acc : Tbl SubFault) f => acc.set f.leaf f) [] |>.map fun e => e.2

def TileRoot.rollup (r : TileRoot) : Trap :=
  { cause := 0x05, sub := 0x06, fpc := r.pc, seq := BitVec.ofNat 64 r.seq, roll := true, subOvf := decide (32 < r.subs.length), subs := r.subs.take 32 }

/-- Every piece has settled with a fault: one trap; or, of a strand that is ending, abandoned at once. -/
def State.rollUp (s : State) (r : TileRoot) : State :=
  let s1 := s.modRoot r.seq fun q => { q with st := .faulted }
  match s1.strand? r.sid with
  | some x => if x.ending then s1.abandonRoot r.sid (BitVec.ofNat 64 r.seq) else s1.sendTrap r.sid r.rollup
  | none => s1.abandonRoot r.sid (BitVec.ofNat 64 r.seq)

/-- The root itself meets a fault that no leaf has: it rolls up with that one sub-fault. -/
def State.rootFaults (s : State) (r : TileRoot) (f : Fail) : State :=
  (s.modRoot r.seq fun q => { q with own := some (r.ownFault f) }).rollUp { r with own := some (r.ownFault f) }

/-- TILE_DECOMPOSE: the mask of a compaction is read once (R71), and the root's leaves and the records between, every level at once (log 40). A reduction of the gateways needs a port that is UP (R308). -/
def execTileDecompose (seq : Nat) (s : State) : Out :=
  match s.root? seq with
  | none => .next s
  | some r =>
    if r.st = .done then .next (s.finishRoot seq)
    else if r.st ≠ .waiting ∨ s.olderConflict r ∨ (r.gateway ∧ s.gatewayCores = []) then .next s
    else
      let us := r.leafUnits
      if us.isEmpty then .next (s.finishRoot seq)
      else if s.membersDiffer r then .next (s.rootFaults r { cause := 0x05, sub := 0x02 })
      else match s.readMask r with
      | .error f => .next (s.rootFaults r f)
      | .ok m =>
        let gates := s.gatewayCores
        let busy := fun (v : Nat) => r.gateway || decide (farVcn ≤ v)
        let leaves := (s.deal r us.length).mapIdx fun k x =>
          let u := us.getD x.1 (0, 0, 0, 0, 0)
          ({ idx := x.1, vcn := x.2, order := s.nextId + k, st := if busy x.2 then .running else .ready
             group := u.1, rowOrg := u.2.1, rowCnt := u.2.2.1, colOrg := u.2.2.2.1, colCnt := u.2.2.2.2
             gate := if r.gateway then gates[x.1 % gates.length]? else none } : Leaf)
        .next { (s.modRoot seq fun q => { q with st := .running, mask := m, leaves := leaves, mids := s.midRecords r us.length }) with nextId := s.nextId + us.length }

/-! Staging (R74). -/

def TileRoot.passes (r : TileRoot) : Nat := match r.kind with | .mma f _ | .mmag f _ => passesOf f | _ => 1

/-- The clocks of the blocks that a product leaf has still to add (R69). -/
def TileRoot.productClocks (r : TileRoot) (l : Leaf) : Nat := 48 * r.passes * (r.kblocks - l.kblk)

/-- The clocks of an element-wise task: 4 for each row of 256 bytes of its destination, or part of one (R248, log 42). -/
def TileRoot.leafClocks (r : TileRoot) (l : Leaf) : Nat := 4 * max 1 (((l.rowCnt * l.colCnt * r.d.fmt.bits + 7) / 8 + 255) / 256)

/-- The sub-fault of a leaf (R81): it arises at L2, or at L1, or in a gateway core at L5. -/
def TileRoot.subFault (r : TileRoot) (l : Leaf) (f : Fail) (kblk : Nat) : SubFault :=
  { cause := f.cause, sub := f.sub, level := if r.gateway then 5 else min r.level 2, leaf := l.idx, seq := BitVec.ofNat 64 r.seq, addr := f.addr, kblk := kblk, vcn := l.vcn }

/-- The first K-block from b on whose operands meet a fault. fuel: the blocks left. -/
def State.badBlock (s : State) (r : TileRoot) (l : Leaf) : Nat → Nat → Option (Nat × Fail)
  | 0, _ => none
  | n + 1, b =>
    match s.blockOps r l b with
    | .error f => some (b, f)
    | .ok _ => s.badBlock r l n (b + 1)

def failOf {α : Type} : Except Fail α → Option Fail
  | .error f => some f
  | .ok _ => none

/-- What staging a leaf finds: the block charged with a fault. -/
def State.stageFault (s : State) (r : TileRoot) (l : Leaf) : Option (Nat × Fail) :=
  if r.product then
    match (if l.kblk = 0 then failOf (s.startAcc r l) else none) with
    | some f => some (0, f)
    | none => s.badBlock r l (r.kblocks - l.kblk) l.kblk
  else if l.placed then none
  else if r.twoPhase then (failOf (if l.go then (match s.placeWrites r l with | .ok _ => .ok [] | .error f => .error f) else s.itemKeys r l)).map fun f => (0, f)
  else (failOf (s.leafWrites r l)).map fun f => (0, f)

/-- Two pieces wait in one queue: a core's at L1, the cluster scheduler's above (R61). -/
def sameQueue (r q : TileRoot) : Bool := if r.level = 1 then q.level == 1 && q.core % 8 == r.core % 8 else q.level != 1

/-- STAGING_START: the oldest READY task, one at a time in a queue. -/
def execStagingStart (seq leaf : Nat) (s : State) : Out :=
  match s.leaf? seq leaf with
  | none => .next s
  | some (r, l) =>
    let first := oldestTask (s.tasksAt l.vcn fun q x => sameQueue r q && x.st == .ready && x.stealTo.isNone)
    if l.st = .ready ∧ l.stealTo.isNone ∧ s.clusterWorks (s.host l.vcn) ∧ (s.tasksAt l.vcn fun q x => sameQueue r q && x.st == .staging).isEmpty
        ∧ (first.map fun x => (x.1.seq, x.2.idx)) = some (r.seq, l.idx) then
      .next (s.modLeaf seq leaf fun x => { x with st := .staging })
    else .next s

/-- The entry of a piece at L1 in a vector queue: a product for the matrix unit, any other for a lane group (R61, R248). -/
def TileRoot.vqPiece (r : TileRoot) (l : Leaf) : VqEntry :=
  { clocks := if r.product then r.productClocks l else r.leafClocks l, product := r.product, tile := some (r.seq, l.idx) }

/-- A piece at L1 enters the vector queue of its core. -/
def State.queuePiece (s : State) (r : TileRoot) (l : Leaf) : State :=
  if r.level = 1 then s.setCoreAt (s.pieceCore r) { s.coreAt (s.pieceCore r) with vq := (s.coreAt (s.pieceCore r)).vq ++ [r.vqPiece l] }
  else s

/-- A piece at L1 that has stopped at a block is again the head of its core's queue. -/
def State.requeuePiece (s : State) (r : TileRoot) (l : Leaf) : State :=
  if r.level = 1 then s.setCoreAt (s.pieceCore r) { s.coreAt (s.pieceCore r) with vq := r.vqPiece l :: (s.coreAt (s.pieceCore r)).vq }
  else s

/-- STAGING_DONE: the operands have been copied; a piece at L1 needs a place in its core's vector queue, and finds none while its cluster drains (R279). -/
def execStagingDone (seq leaf : Nat) (s : State) : Out :=
  match s.leaf? seq leaf with
  | none => .next s
  | some (r, l) =>
    if l.st ≠ .staging ∨ (r.level = 1 ∧ 8 ≤ (s.coreAt (s.pieceCore r)).vq.length) then .next s
    else if r.level = 1 ∧ !s.clusterWorks (s.host l.vcn) then .next (s.modLeaf seq leaf fun x => { x with st := .ready })
    else .next ((s.modLeaf seq leaf fun x => { x with st := .running, copy := s.stagedCopy r l, fail := (s.stageFault r l).map fun e => (e.1, r.subFault l e.2 e.1) }).queuePiece r l)

/-! Passes (R249, R250). -/

/-- A candidate: its key, its weight, the clocks that a grant takes. -/
structure Cand where
  key : Nat
  weight : Nat
  clocks : Nat
  pass : BitVec 64
  deriving DecidableEq, Repr

/-- The lowest of some passes. -/
def lowPass : List (BitVec 64) → Option (BitVec 64)
  | [] => none
  | p :: ps => some (ps.foldl (fun a b => if b < a then b else a) p)

/-- The pass of a candidate: one that has become ready takes the larger of its own and the lowest among those that were ready in the previous clock. known: those, and those that have taken theirs in this one. -/
def risePass (low : Option (BitVec 64)) (known : List Nat) (c : Cand) : Cand :=
  if known.contains c.key then c
  else match low with
    | none => c
    | some l => { c with pass := if c.pass < l then l else c.pass }

/-- The lowest pass, the lowest key of equals. -/
def lowestPass : List Cand → Option Cand
  | [] => none
  | c :: t => some (t.foldl (fun b d => if d.pass < b.pass ∨ (d.pass = b.pass ∧ d.key < b.key) then d else b) c)

def Cand.charged (c : Cand) : BitVec 64 := c.pass + BitVec.ofNat 64 (c.clocks * (360360 / c.weight))

/-- The weight of the queue of a strand (R249). -/
def State.weightOf (s : State) (x : Strand) : Nat := match s.queueOf x with | some q => max 1 (s.queue q).weight | none => 1
def State.rootWeight (s : State) (r : TileRoot) : Nat := match s.strand? r.sid with | some x => s.weightOf x | none => 1

/-- The head of a core's vector queue. -/
def State.vqHead (s : State) (core : Nat) : Option VqEntry := (s.coreAt core).vq.head?

/-- The arbiters of a cluster grant: of one that drains, what its strands have queued, and no task and no piece of one (R279). -/
def State.grants (s : State) (pcn : Nat) : Bool :=
  s.clusterWorks pcn || ((s.cluster pcn).rot == .draining && !(s.cluster pcn).halted && !(s.cluster pcn).dead)

/-! The matrix unit. -/

/-- The weight of an entry of a vector queue: of the strand whose instruction it is, or of the root whose piece it is. -/
def State.entryWeight (s : State) (core : Nat) (e : VqEntry) : Nat :=
  match e.tile.bind fun t => s.root? t.1 with
  | some r => s.rootWeight r
  | none => s.weightOf (s.coreAt core).str

/-- An L0 TMMA holds the matrix unit for its clocks, a leaf until it stops. -/
def State.matrixBusy (s : State) (pcn : Nat) : Bool :=
  match (s.cluster pcn).matrix with
  | none => false
  | some (.leaf ..) => true
  | some (.core ..) => decide (s.ptime < (s.cluster pcn).matrixUntil)

/-- The rows that instructions in flight of a core are writing. -/
def State.rowsInFlight (s : State) (core : Nat) : List RowId :=
  let c := s.cluster (core / 8)
  let of : Occupant → List RowId := fun o => match o with
    | .core p ws => if p = core % 8 then ws else []
    | .leaf .. => []
  (c.groups.flatMap fun g => of g.2) ++ (if s.matrixBusy (core / 8) then (c.matrix.map of).getD [] else [])

/-- The head of a vector queue is ready when none of its source rows is being written (R249). -/
def State.headReady (s : State) (core : Nat) (e : VqEntry) : Bool := e.reads.all fun r => !(s.rowsInFlight core).contains r

/-- Nanoseconds of n arithmetic clocks of a chiplet, rounded up (R3, R328). -/
def State.clocksNs (s : State) (chip n : Nat) : Nat := (n * (if (s.chip chip).throttled then 20 else 10) + 6) / 7

/-- The product task of a virtual cluster that awaits the matrix unit. -/
def State.productTask (s : State) (v : Nat) : Option (TileRoot × Leaf) :=
  oldestTask (s.tasksAt v fun r l => r.product && r.level != 1 && l.st == .running && !l.active)

def State.matrixCands (s : State) (pcn : Nat) : List Cand :=
  let cl := s.cluster pcn
  let cores := (List.range 8).filterMap fun p =>
    match s.live pcn p, s.vqHead (pcn * 8 + p) with
    | true, some e =>
      if e.product && s.headReady (pcn * 8 + p) e && (e.tile.isNone || s.clusterWorks pcn) then some { key := p, weight := s.entryWeight (pcn * 8 + p) e, clocks := e.clocks, pass := cl.mpass.getD p 0 } else none
    | _, _ => none
  let tasks := (if s.clusterWorks pcn then s.hosted pcn else []).filterMap fun v =>
    (s.productTask v).map fun x =>
      ({ key := 8 + v, weight := s.rootWeight x.1, clocks := x.1.productClocks x.2, pass := cl.mpass.getD (8 + v) 0 } : Cand)
  cores ++ tasks

/-- The head of a vector queue leaves it; its residue check is still under way (R285). -/
def Core.popVq (c : Core) : Core :=
  { c with vq := c.vq.drop 1, recent := match c.vq.head?.bind fun e => e.check with | some p => c.after (some p) | none => c.recent }

/-- A piece of a tile instruction starts on an engine. -/
def State.start (s : State) (seq idx : Nat) : State := s.modLeaf seq idx fun x => { x with active := true }

/-- The candidates of the matrix unit with the passes that they take. -/
def State.matrixRisen (s : State) (pcn : Nat) : List Cand :=
  let cl := s.cluster pcn
  (s.matrixCands pcn).map (risePass (lowPass (cl.mready.map fun k => cl.mpass.getD k 0)) (cl.mready ++ cl.mrisen))

/-- MATRIX_GRANT (R250). A granted L0 TMMA leaves its queue and holds the unit for its clocks (R417, log 41). -/
def execMatrixGrant (pcn : Nat) (s : State) : Out :=
  let cl := s.cluster pcn
  if s.matrixBusy pcn || !s.grants pcn then .next s
  else
    let cs := s.matrixRisen pcn
    match lowestPass cs with
    | none => .next s
    | some w =>
      let passes := (cs.foldl (fun t c => t.set c.key c.pass) cl.mpass).set w.key w.charged
      let cl1 : Cluster := { cl with mpass := passes, mrisen := (cs.map fun c => c.key).filter fun k => !cl.mready.contains k }
      if w.key < 8 then
        let core := pcn * 8 + w.key
        let s1 := s.setCoreAt core (s.coreAt core).popVq
        match (s.vqHead core).bind fun e => e.tile with
        | some (seq, idx) => .next ((s1.setCluster pcn { cl1 with matrix := some (.leaf seq idx) }).start seq idx)
        | none =>
          .next (s1.setCluster pcn { cl1 with
            matrix := some (.core w.key (((s.vqHead core).map fun e => e.writes).getD [])), matrixUntil := s.ptime + s.clocksNs (chipOf pcn) w.clocks })
      else
        match s.productTask (w.key - 8) with
        | none => .next s
        | some (r, l) => .next ((s.setCluster pcn { cl1 with matrix := some (.leaf r.seq l.idx) }).start r.seq l.idx)

/-! The end of a leaf. -/

/-- The writes of a leaf, or free bytes where its staging area has been spoiled (R72). -/
def State.spoiled (s : State) (r : TileRoot) (ws : List (Nat × List Byte)) : List (Nat × List Byte) × State :=
  if r.spoiled then
    ws.foldl (fun (acc : List (Nat × List Byte) × State) w =>
      let (bs, s1) := acc.2.freeBytes w.2.length
      (acc.1 ++ [(w.1, bs)], s1)) ([], s)
  else (ws, s)

/-- A leaf stops with a fault. -/
def State.leafFaults (s : State) (r : TileRoot) (l : Leaf) (f : SubFault) : State :=
  s.modLeaf r.seq l.idx fun x => { x with st := .faulted, active := false, sub := some f, fail := none }

/-- A claim is still used: some leaf that has not finished has bytes of its operand at its bank, or bytes that do not translate (R74). -/
def State.stillUsed (s : State) (r : TileRoot) (c : Claim) : Bool :=
  (r.leaves.filter fun l => l.st != .done).any fun l => ((r.leafOperands l).getD c.opnd []).any fun p =>
    match s.tilePieces (r.via l) (if c.write then .wr else .rd) p.1 p.2 with
    | .ok gs => gs.any fun g => (s.claimStretches g.loc g.n).any fun x => x.1 == c.bank
    | .error _ => true

/-- The claims of a root that no leaf uses any more go (R74). -/
def State.dropSpent (s : State) (seq : Nat) : State :=
  match s.root? seq with
  | none => s
  | some r => { s with claims := s.claims.filter fun c => !(c.tile && c.owner == seq) || s.stillUsed r c }

/-- A leaf writes its destination: DONE, or FAULTED at this point. -/
def State.leafFinish (s : State) (r : TileRoot) (l : Leaf) (ws : Except Fail (List (Nat × List Byte))) : State :=
  match ws with
  | .error f => s.leafFaults r l (r.subFault l f l.kblk)
  | .ok w0 =>
    let (w, s0) := s.spoiled r w0
    match s0.tileWrites (r.via l) w with
    | .error (s1, f) => s1.leafFaults r l (r.subFault l f l.kblk)
    | .ok s1 =>
      (s1.modLeaf r.seq l.idx fun x => { x with st := .done, active := false, copy := [], placed := true, spots := if r.twoPhase then s.spotsOf r l else [] }).dropSpent r.seq

def State.freeMatrix (s : State) (pcn : Nat) : State := s.setCluster pcn { s.cluster pcn with matrix := none }

/-- Residue failures of a cluster rise, saturating (R286). -/
def State.countResidue (s : State) (pcn : Nat) : State :=
  let c := s.cluster pcn
  s.setCluster pcn { c with resid := min 255 (c.resid + 1) }

/-- The last block has been added: the leaf writes. -/
def State.productEnd (s : State) (r : TileRoot) (l : Leaf) (pcn : Nat) : State := (s.leafFinish r l (s.productWrites r l)).freeMatrix pcn

/-- A block is added; then the leaf goes on, ends, or stops for a rotation drain (R79). DEDUCED (log 167): R79 gives no state to a leaf that such a drain stops, and R76 has no way back from RUNNING; it stays RUNNING, and takes the unit again on the cluster that follows, with what was staged and added. -/
def State.blockAdded (s : State) (r : TileRoot) (l : Leaf) (pcn : Nat) (acc : List Nat) : State :=
  let l1 := { l with acc := acc, begun := true, kblk := l.kblk + 1, retried := false }
  let s1 := (s.modLeaf r.seq l.idx fun _ => l1).happen l.vcn 0x03 1
  if r.kblocks ≤ l1.kblk then s1.productEnd r l1 pcn
  else if s1.clusterWorks pcn then s1
  else ((s1.modLeaf r.seq l.idx fun x => { x with active := false }).requeuePiece r l1).freeMatrix pcn

/-- The accumulators with block KBLK added. -/
def State.nextAcc (s : State) (r : TileRoot) (l : Leaf) : Except Fail (List Nat) :=
  match (if l.kblk = 0 then s.startAcc r l else .ok l.acc), s.blockOps r l l.kblk with
  | .error f, _ => .error f
  | _, .error f => .error f
  | .ok acc, .ok (x, y) => .ok (addBlocks acc x y)

/-- KBLOCK_DONE (R69, R79, R285). -/
def execKblockDone (seq leaf : Nat) (residueOk : Bool) (s : State) : Out :=
  match s.leaf? seq leaf with
  | none => .next s
  | some (r, l) =>
    let pcn := s.host l.vcn
    if !r.product || !l.active then .next s
    else if r.kblocks ≤ l.kblk then .next (s.productEnd r l pcn)
    else if (l.fail.map fun e => e.1) = some l.kblk then
      .next ((s.leafFaults r l ((l.fail.map fun e => e.2).getD { cause := 0, sub := 0 })).freeMatrix pcn)
    else if !residueOk then
      let s1 := s.countResidue pcn
      if l.retried then .next ((s1.leafFaults r l (r.subFault l { cause := 0x0D, sub := 0x03 } l.kblk)).freeMatrix pcn)
      else .next ((s1.modLeaf seq leaf fun x => { x with retried := true }).happen l.vcn 0x0B 1)
    else
      match s.nextAcc r l with
      | .error f => .next ((s.leafFaults r l (r.subFault l f l.kblk)).freeMatrix pcn)
      | .ok acc => .next (s.blockAdded r l pcn acc)

/-! Lane groups. -/

/-- The cluster task scheduler's oldest ready element-wise task. -/
def State.laneTask (s : State) (pcn : Nat) : Option (TileRoot × Leaf) :=
  oldestTask ((s.hosted pcn).flatMap fun v => s.tasksAt v fun r l => !r.product && !r.gateway && r.level != 1 && l.st == .running && !l.active && l.begun == l.go)

def State.laneCands (s : State) (pcn : Nat) : List Cand :=
  let cores := (List.range 8).filterMap fun p =>
    match s.live pcn p, s.vqHead (pcn * 8 + p) with
    | true, some e =>
      if e.product || !s.headReady (pcn * 8 + p) e || (e.tile.isSome && !s.clusterWorks pcn) then none
      else some { key := p, weight := s.entryWeight (pcn * 8 + p) e, clocks := e.clocks, pass := (s.coreAt (pcn * 8 + p)).pass }
    | _, _ => none
  cores ++ ((if s.clusterWorks pcn then s.laneTask pcn else none).map fun x =>
    ({ key := 8, weight := s.rootWeight x.1, clocks := x.1.leafClocks x.2, pass := (s.cluster pcn).taskPass } : Cand)).toList

/-- Keep the passes that candidates took as they became ready. -/
def State.keepPass (s : State) (pcn : Nat) (c : Cand) : State :=
  if c.key = 8 then s.setCluster pcn { s.cluster pcn with taskPass := c.pass }
  else s.setCoreAt (pcn * 8 + c.key) { s.coreAt (pcn * 8 + c.key) with pass := c.pass }

/-- The pass of a candidate of the lane groups. -/
def State.lanePass (s : State) (pcn key : Nat) : BitVec 64 := if key = 8 then (s.cluster pcn).taskPass else (s.coreAt (pcn * 8 + key)).pass

/-- The candidates of the lane groups with the passes that they take. -/
def State.lanesRisen (s : State) (pcn : Nat) : List Cand :=
  let cl := s.cluster pcn
  (s.laneCands pcn).map (risePass (lowPass (cl.ready.map (s.lanePass pcn))) (cl.ready ++ cl.risen))

/-- The passes of an arbiter's candidates as a clock ends: those that are ready have been so in the previous clock (R249, R250). -/
def State.clockArbiter (s : State) (pcn : Nat) : State :=
  let ls := s.lanesRisen pcn
  let ms := s.matrixRisen pcn
  let s1 := ls.foldl (fun s c => s.keepPass pcn c) s
  let cl := s1.cluster pcn
  s1.setCluster pcn { cl with
    ready := ls.map fun c => c.key, risen := []
    mpass := ms.foldl (fun t c => t.set c.key c.pass) cl.mpass, mready := ms.map fun c => c.key, mrisen := [] }

/-- The clusters whose arbiters have candidates, or had some. -/
def State.arbiters (s : State) : List Nat :=
  let cores := (s.allCores.filter fun e => !e.2.vq.isEmpty).map fun e => e.1 / 8
  let tasks := s.tiles.flatMap fun r => (r.leaves.filter fun l => !l.far).map fun l => s.host l.vcn
  let known := (s.clusters.filter fun e => !(e.2.ready.isEmpty && e.2.risen.isEmpty && e.2.mready.isEmpty && e.2.mrisen.isEmpty)).map fun e => e.1
  (cores ++ tasks ++ known).eraseDups

/-- An event of the virtual cluster that a physical cluster hosts (R326). -/
def State.happenAt (s : State) (pcn code n : Nat) : State :=
  match s.hosted pcn with
  | v :: _ => s.happen v code n
  | [] => s

/-- LANE_GROUP_GRANT (R249). -/
def execLaneGroupGrant (pcn : Nat) (s : State) : Out :=
  let cl := s.cluster pcn
  match (List.range 4).find? fun g => (cl.groups.get? g).isNone with
  | none => .next s
  | some g =>
    if !s.grants pcn then .next s
    else
      let cs := s.lanesRisen pcn
      let s0 := cs.foldl (fun s c => s.keepPass pcn c) s
      let s1 := s0.setCluster pcn { s0.cluster pcn with risen := (cs.map fun c => c.key).filter fun k => !cl.ready.contains k }
      match lowestPass cs with
      | none => .next s1
      | some w =>
        let s2 := (s1.keepPass pcn { w with pass := w.charged }).happenAt pcn 0x04 1
        let occupy : State → Occupant → State := fun t o => t.setCluster pcn { t.cluster pcn with groups := (t.cluster pcn).groups.set g o }
        if w.key < 8 then
          let core := pcn * 8 + w.key
          let s3 := s2.setCoreAt core (s2.coreAt core).popVq
          match (s2.vqHead core).bind fun e => e.tile with
          | some (seq, idx) => .next (occupy (s3.start seq idx) (.leaf seq idx))
          | none => .next (occupy s3 (.core w.key (((s2.vqHead core).map fun e => e.writes).getD [])))
        else
          match s2.laneTask pcn with
          | none => .next s2
          | some (r, l) => .next (occupy (s2.start r.seq l.idx) (.leaf r.seq l.idx))

/-- An element-wise task ends: a count of items, which awaits its offsets, or its writes. -/
def State.leafEnds (s : State) (r : TileRoot) (l : Leaf) : State :=
  match l.fail with
  | some (_, f) => s.leafFaults r l f
  | none =>
    if r.twoPhase then
      if l.placed then s.modLeaf r.seq l.idx fun x => { x with st := .done, active := false }
      else if l.go then s.leafFinish r l (s.placeWrites r l)
      else
        match s.itemKeys r l with
        | .error f => s.leafFaults r l (r.subFault l f 0)
        | .ok ks => s.modLeaf r.seq l.idx fun x => { x with active := false, begun := true, acc := tally r.classes ks }
    else s.leafFinish r l (s.leafWrites r l)

/-- LANE_GROUP_RELEASE (R248). -/
def execLaneGroupRelease (pcn group : Nat) (s : State) : Out :=
  let cl := s.cluster pcn
  match cl.groups.get? group with
  | none => .next s
  | some o =>
    let s1 := s.setCluster pcn { cl with groups := cl.groups.drop group }
    match o with
    | .core .. => .next s1
    | .leaf seq idx =>
      match s1.leaf? seq idx with
      | some (r, l) => .next (s1.leafEnds r l)
      | none => .next s1

/-! Completion and roll-up (R66, R73, R80, R262). -/

/-- The counts of a sort, after every item; a fault is the root's own, since its leaves are DONE and do not run again (R82). -/
def State.writeCounts (s : State) (r : TileRoot) : State :=
  let (w, s0) := s.spoiled r r.countWrites
  match s0.tileWrites r w with
  | .ok s1 => s1.finishRoot r.seq
  | .error (s1, f) => s1.rootFaults r f

/-- Every piece has reported: the second phase, the roll-up, or the end. DESIGN CHOICE (log 168): R73 and R80 do not say when a sort rolls up of which some pieces have faulted while others, counted, wait for offsets and are neither DONE nor FAULTED; here it rolls up once every piece has faulted or counted. -/
def State.settle (s : State) (r : TileRoot) : State :=
  if !(r.leaves.all fun l => l.reported) then s
  else if r.leaves.any fun l => l.st == .faulted then s.rollUp r
  else if r.twoPhase then
    if r.leaves.all fun l => l.placed then s.writeCounts r
    else
      let waiting := r.leaves.filter fun l => !l.placed
      let s1 := s.modRoot r.seq fun q => { q with leaves := q.leaves.map fun l => if l.placed then l else { l with go := true, reported := false } }
      waiting.foldl (fun s l => s.queuePiece r l) s1
  else s.finishRoot r.seq

/-- How many of n items are of each of k classes, in a share of another panel: free numbers with that sum (log 43). -/
def State.farCounts (s : State) : Nat → Nat → List Nat × State
  | 0, _ => ([], s)
  | 1, n => ([n], s)
  | k + 1, n =>
    let (w, s1) := s.free
    let c := w.toNat % (n + 1)
    let (t, s2) := s1.farCounts k (n - c)
    (c :: t, s2)

/-- The sub-faults of leaves lo to lo + n − 1 of a share of another panel: for each leaf none, or one with free contents (log 43). -/
def State.farFaults (s : State) (r : TileRoot) (lo : Nat) : Nat → List SubFault × State
  | 0 => ([], s)
  | n + 1 =>
    let (w, s1) := s.free
    let (ad, s2) := s1.free
    let (t, s3) := s2.farFaults r (lo + 1) n
    if w.getLsbD 0 then
      ({ cause := bitsOf w 8 1, sub := bitsOf w 16 9, level := bitsOf w 19 17, resumable := w.getLsbD 20, leaf := lo, seq := BitVec.ofNat 64 r.seq,
         addr := BitVec.ofNat 64 (ad.toNat % 2 ^ 56), kblk := if r.product then bitsOf w 52 21 % r.kblocks else 0, vcn := bitsOf ad 63 56 } :: t, s3)
    else (t, s3)

/-- How many leaves the share of another panel has. -/
def TileRoot.shareOf (r : TileRoot) (l : Leaf) : Nat := ((r.mids.find? fun m => m.level == 4 && m.lo == l.idx).map fun m => m.hi - m.lo).getD 1

/-- The items of a share of another panel. -/
def TileRoot.shareItems (r : TileRoot) (l : Leaf) : Nat :=
  min ((r.a.getD {}).count) ((l.idx + r.shareOf l) * itemsPerLeaf) - l.idx * itemsPerLeaf

/-- The share of another panel reports: it has faulted, counted its items, or ended (R73, R80). -/
def State.farReports (s : State) (r : TileRoot) (l : Leaf) : State :=
  let (fs, s1) := s.farFaults r l.idx (r.shareOf l)
  if !fs.isEmpty then s1.modLeaf r.seq l.idx fun x => { x with reported := true, st := .faulted, farSubs := fs }
  else if r.twoPhase && !l.go then
    let (cs, s2) := s1.farCounts r.classes (r.shareItems l)
    s2.modLeaf r.seq l.idx fun x => { x with reported := true, begun := true, acc := cs }
  else s1.modLeaf r.seq l.idx fun x => { x with reported := true, st := .done, begun := true, placed := true }

/-- CHILD_COMPLETION: a piece that is DONE or FAULTED or has counted its items, or the share of another panel, reports; a root whose completion has waited for its release, or whose counts are still to be written after a resumption, goes on (R66, R82). -/
def execChildCompletion (seq leaf : Nat) (s : State) : Out :=
  match s.leaf? seq leaf with
  | none => .next s
  | some (r, l) =>
    let counted := r.twoPhase && l.begun && !l.go && l.st == .running && !l.active
    if r.st = .done then .next (s.finishRoot seq)
    else if l.reported then (if r.st = .running then .next (s.settle r) else .next s)
    else if !(l.far || counted || l.st == .done || l.st == .faulted) then .next s
    else
      let s1 := if l.far then s.farReports r l else s.modLeaf seq leaf fun x => { x with reported := true }
      match s1.root? seq with
      | some r => .next (s1.settle r)
      | none => .next s1

/-! Stealing (R78). -/

def stealable (r : TileRoot) (l : Leaf) : Bool := l.st == .ready && l.stealTo.isNone && l.kblk == 0 && !l.stolen && decide (2 ≤ r.level)

/-- The virtual cluster that holds the most stealable tasks, the lowest of equals. -/
def fullest : List (Nat × Nat) → Option Nat
  | [] => none
  | x :: t =>
    let b := t.foldl (fun b y => if b.2 < y.2 then y else b) x
    if b.2 = 0 then none else some b.1

def TileMid.holds (m : TileMid) (l : Leaf) : Bool := decide (m.lo ≤ l.idx) && decide (l.idx < m.hi)

/-- An L3 record that may be moved: on this chiplet, not stolen before, its tasks not begun, none of them in a cluster that drains (R78, R250). -/
def State.unstarted (s : State) (chip : Nat) (r : TileRoot) (m : TileMid) : Bool :=
  m.level == 3 && m.place == chip && !m.stolen && (r.leaves.filter m.holds).all fun l => stealable r l && s.trades (s.host l.vcn)

/-- The chiplet of the context with the most unstarted L3 records, and the youngest of them. -/
def State.stealRecord (s : State) (asid chip : Nat) : Option (TileRoot × TileMid) :=
  let recs : Nat → List (TileRoot × TileMid) := fun c =>
    (s.tiles.filter fun r => r.asid == asid).flatMap fun r => (r.mids.filter (s.unstarted c r)).map fun m => (r, m)
  (fullest (((s.ctxChips asid).filter fun c => c != chip).map fun c => (c, (recs c).length))).bind fun c => (recs c).getLast?

/-- An L3 record moves to another chiplet, and its tasks to the virtual clusters there. -/
def State.moveRecord (s : State) (r : TileRoot) (m : TileMid) (chip : Nat) (vs : List Nat) : State :=
  let dst := dealAmong vs m.lo m.hi
  s.modRoot r.seq fun q => { q with
    mids := q.mids.map fun x => if x = m then { x with place := chip, stolen := true } else x
    leaves := q.leaves.map fun l => if m.holds l then { l with stealTo := dst.lookup l.idx } else l }

/-- TASK_STEAL: an idle virtual cluster takes the youngest stealable task of the fullest queue of its chiplet; where there is none and its chiplet holds no READY task of the context, an unstarted L3 record of another chiplet. -/
def execTaskSteal (vcn : Nat) (s : State) : Out :=
  let chip := chipOf (s.host vcn)
  match s.ctxs.find? fun e => e.2.hasVcn vcn && e.2.resident with
  | none => .next s
  | some (asid, _) =>
    let ready : Nat → Bool := fun v => !(s.tasksAt v fun q l => l.st == .ready && l.stealTo.isNone && q.level != 1).isEmpty
    let coming := s.tiles.any fun r => r.leaves.any fun l => l.stealTo == some vcn
    if !s.clusterWorks (s.host vcn) || ready vcn || coming then .next s
    else
      let others := (s.ctxOn asid chip).filter fun v => v != vcn && s.trades (s.host v)
      match (fullest (others.map fun v => (v, (s.tasksAt v stealable).length))).bind fun v => youngestTask (s.tasksAt v stealable) with
      | some (r, l) => .next (s.modLeaf r.seq l.idx fun x => { x with stealTo := some vcn })
      | none =>
        if (s.ctxOn asid chip).any ready then .next s
        else
          match s.stealRecord asid chip with
          | none => .next s
          | some (r, m) => .next (s.moveRecord r m chip ((s.ctxOn asid chip).filter fun v => s.trades (s.host v)))

/-- STEAL_DONE. -/
def execStealDone (seq leaf : Nat) (s : State) : Out :=
  match s.leaf? seq leaf with
  | none => .next s
  | some (_, l) =>
    match l.stealTo with
    | none => .next s
    | some v =>
      .next { ((s.modLeaf seq leaf fun x => { x with vcn := v, stolen := true, stealTo := none, order := s.nextId }).happen v 0x09 1) with nextId := s.nextId + 1 }

/-! Gateway reductions (R308, R309, R407). -/

/-- A contribution of another panel: free elements of a format (log 44). -/
def State.freeVals (s : State) (f : Fmt) : Nat → Nat → List FVal × State
  | 0, _ => ([], s)
  | n + 1, x =>
    let (w, s1) := s.free
    let (vs, s2) := s1.freeVals f n x
    (elemVal f x (w.toNat % 2 ^ f.bits) :: vs, s2)

/-- The values that converted elements hold. -/
def deconv (f : Fmt) (es xs : List Nat) : List FVal := es.mapIdx fun i e => elemVal f (xs.getD (i / 48) 0) e

/-- The own contribution: A; or, with a residual, Q(A + r), and the writes of the new residual. -/
def State.ownContribution (s : State) (r : TileRoot) (l : Leaf) : Except Fail (List FVal × List (Nat × List Byte)) :=
  match s.tileVals r (r.a.getD {}) 0 l.rowOrg l.colOrg l.colCnt with
  | .error f => .error f
  | .ok x =>
    match r.b with
    | none => .ok (x, [])
    | some b =>
      match s.tileVals r b 0 l.rowOrg l.colOrg l.colCnt with
      | .error f => .error f
      | .ok res =>
        let y := List.zipWith FVal.add x res
        let q := convRow r.d.fmt r.rcw (l.rowOrg * r.d.cols + l.colOrg) y
        let v := deconv r.d.fmt q.1 q.2
        match s.tileRow r b l.rowOrg l.colOrg (List.zipWith (fun p w => fp32.rne (p.add w.neg)) y v) [] with
        | .error f => .error f
        | .ok ws => .ok (v, ws)

/-- The FP32 sums over the members in ascending peer index. -/
def State.gatewaySum (s : State) (f : Fmt) (own : List FVal) (n : Nat) : List Nat → List Nat → List Nat × State
  | [], acc => (acc, s)
  | i :: t, acc =>
    if s.ownPeer i then s.gatewaySum f own n t (List.zipWith (fun c v => fp32.rne ((fp32.val c).add v)) acc own)
    else
      let (x, s1) := s.free
      let (vs, s2) := s1.freeVals f n (x.toNat % 256)
      s2.gatewaySum f own n t (List.zipWith (fun c v => fp32.rne ((fp32.val c).add v)) acc vs)

/-- GATEWAY_REDUCTION: block `block` of the k-th TBAQ at L5 of a context. -/
def execGatewayReduction (asid k block : Nat) (s : State) : Out :=
  match s.tiles.find? fun r => r.asid == asid && r.gateway && r.order == k && r.st == .running with
  | none => .next s
  | some r =>
    match r.leaves.find? fun l => l.idx == block && l.st == .running with
    | none => .next s
    | some l =>
      if !(s.ports.any fun p => p.2.st == 2) then .next s
      else
        match s.ownContribution r l with
        | .error f => .next (s.leafFaults r l (r.subFault l f 0))
        | .ok (own, resid) =>
          let peers := ((s.ctx? asid).map fun c => c.peerList).getD []
          let f := if r.b.isSome then r.d.fmt else (r.a.getD {}).fmt
          let (acc, s1) := s.gatewaySum f own l.colCnt peers (List.replicate l.colCnt 0)
          let q := convRow r.d.fmt r.rcw (l.rowOrg * r.d.cols + l.colOrg) (acc.map fun c => fp32.val c)
          let ws : Except Fail (List (Nat × List Byte)) := match s1.tileRow r r.d l.rowOrg l.colOrg q.1 q.2 with
            | .ok w => .ok (w ++ resid)
            | .error e => .error e
          .next (s1.leafFinish r l ws)

end Sys2Proof.Machine
end

