-- ==== Sys2Proof/Machine/Save.lean ====
section
/-! DEFINITION. Publications of the map; discarding strands, kernels and contexts; tile units, eviction areas and images of the save area (R236, R252, R265 to R273). -/

namespace Sys2Proof.Machine

/-! Publications (R273). -/

/-- One publication: the entries that it changes, each with its GEN one higher. -/
def State.publish (s : State) (es : List (Nat × MapEntry)) : State :=
  { s with
    map := es.foldl (fun m e => m.set e.1 { e.2 with gen := (s.mapNow e.1).gen + 1 }) s.map
    mapSeq := s.mapSeq + 1
    pubs := (s.pubs.filter fun p => decide (s.ptime < p.time + 2000)) ++
      [{ seq := s.mapSeq + 1, before := es.map fun e => (e.1, s.mapNow e.1), time := s.ptime }] }

def Ctx.vcns (c : Ctx) : List Nat := (List.range c.vcnum).map fun i => c.vcfirst + i

/-! Discarding (R236, R252, R270). -/

/-- The engines give up a tile task. -/
def State.freeTask (s : State) (seq : Nat) : State :=
  { s with clusters := s.clusters.map fun e => (e.1, { e.2 with
      groups := e.2.groups.filter fun g => match g.2 with | .leaf q _ => q != seq | .core .. => true
      matrix := match e.2.matrix with | some (.leaf q i) => if q = seq then none else some (.leaf q i) | o => o }) }

/-- The pieces of a tile instruction leave the vector queues. -/
def State.unqueue (s : State) (p : Nat × Nat → Bool) : State :=
  let f : Core → Core := fun c => { c with vq := c.vq.filter fun e => !(e.tile.map p).getD false }
  { s with cur := f s.cur, cores := s.cores.map fun e => (e.1, f e.2) }

def State.wipeTiles (s : State) (sid : Nat) : State :=
  (s.tiles.filter fun r => r.sid == sid).foldl (fun s r => ((s.freeTask r.seq).unqueue fun t => t.1 == r.seq).dropRoot r.seq) s

/-- What an engine operation has reserved and not yet written. -/
def State.engineRsv (s : State) (e : EngOp) : List (Nat × Nat) :=
  s.segsReq ((if e.moved then [] else e.moves.map fun m => m.dst) ++ (if e.arrived then [] else (e.arr.map fun a => a.2).toList))

def State.wipeEngines (s : State) (sid : Nat) : State :=
  (s.engines.filter fun e => e.sid == sid).foldl (fun s e =>
    { (s.modLog e.asid fun l => l.subRsv (s.engineRsv e)) with
      engines := s.engines.filter fun x => x.id != e.id, claims := s.claims.filter fun c => c.tile || c.owner != e.id }) s

/-- Loads are discarded; posted accesses go on, and answer nobody. -/
def State.wipeFlight (s : State) (sid : Nat) : State :=
  { s with flight := (s.flight.filter fun a => a.sid != sid || !a.op.isLoad).map fun a => if a.sid = sid then { a with dest := .none } else a }

/-- Messages and frames of a strand in the handler chain go with it. DESIGN CHOICE (log 174): the spec does not say what becomes of the frame slot of a strand that a kill or a reset discards; here it is free at once, while its handler may still run. -/
def State.wipeFrames (s : State) (sid : Nat) (x : Strand) : State :=
  let s1 := s.modCtx x.asid fun c => { c with chain := c.chain.map fun e => { e with queue := e.queue.filter fun m => m.1 != sid } }
  match x.frame with
  | some f => s1.freeFrame x.asid f
  | none => s1

/-- The lane groups that a core's row operations hold. -/
def State.freeGroups (s : State) (core : Nat) : State :=
  let c := s.cluster (core / 8)
  s.setCluster (core / 8) { c with groups := c.groups.filter fun g => match g.2 with | .core p _ => p != core % 8 | .leaf .. => true }

/-- A strand is discarded: its entry becomes FREE, its window is closed without rollback. -/
def State.wipeStrand (s : State) (sid : Nat) : State :=
  match s.strand? sid with
  | none => s
  | some x =>
    let s1 := (((s.wipeTiles sid).wipeEngines sid).wipeFlight sid).wipeFrames sid x
    let s2 := match s1.coreOf sid with
      | some core => s1.freeGroups core
      | none => s1
    let s3 : State := { s2 with asyncFlight := s2.asyncFlight.filter fun t => t.1 != sid }
    (s3.modStrand sid fun y => { y with counts := {}, ending := false }).freeEntry sid

/-- Every strand of a queue's kernels, and the kernels (R252). -/
def State.wipeQueue (s : State) (q : Nat) : State :=
  let ks := (s.kernels.filter fun e => e.2.q == q).map fun e => e.1
  let sids := (s.allStrands.filter fun e => (e.2.kernel.map ks.contains).getD false).map fun e => e.1
  let s1 := sids.foldl State.wipeStrand s
  { s1 with kernels := s1.kernels.filter fun e => e.2.q != q }

/-- The strands, kernels, event units and traffic of a context. -/
def State.discardContext (s : State) (asid : Nat) : State :=
  match s.ctx? asid with
  | none => s
  | some c =>
    let sids := (s.allStrands.filter fun e => e.2.asid == asid).map fun e => e.1
    let s1 := sids.foldl State.wipeStrand s
    { s1 with
      kernels := s1.kernels.filter fun e => e.2.asid != asid
      flight := s1.flight.filter fun a => a.asid != asid
      vcs := s1.vcs.filter fun e => !c.hasVcn e.1
      events := s1.events.filter fun e => !c.hasVcn (e.1 / 16)
      parentArrivals := s1.parentArrivals.filter fun x => !c.hasVcn x.1
      releases := s1.releases.filter fun x => !c.hasVcn x.1
      arrivals := s1.arrivals.filter fun x => x.asid != asid }

/-- The clusters that a context has halted leave the halted state (R264); those that still host it are to be unmoored at the next publication. -/
def State.unhalt (s : State) (asid : Nat) : State :=
  let hit := (s.clusters.filter fun e => e.2.halted && e.2.haltedFor == asid).map fun e => e.1
  { s with
    clusters := s.clusters.map fun e => (e.1, if e.2.halted && e.2.haltedFor == asid then { e.2 with halted := false, haltedFor := 0 } else e.2)
    pubReqs := s.pubReqs ++ (hit.flatMap s.hosted).map fun v => .moor v false }

/-- Clusters that virtual clusters leave are moored no more, unless they are halted. -/
def State.leaveClusters (s : State) (vs : List Nat) : State :=
  vs.foldl (fun s v =>
    let e := s.mapNow v
    let k := s.cluster e.pcn
    if e.valid && !e.nonres && k.moored && !k.halted then s.setCluster e.pcn { k with moored := false } else s) s

/-- The physical clusters of a context are freed: its entries read VALID 0 (R236, R275). -/
def State.freeClusters (s : State) (asid : Nat) : State :=
  match s.ctx? asid with
  | none => s
  | some c => (s.leaveClusters c.vcns).publish (c.vcns.map fun v => (v, ({} : MapEntry)))

/-- Teardown (R236). DESIGN CHOICE (log 161): an open trace session of its queues ends with it, and nothing more is written. -/
def State.teardown (s : State) (asid : Nat) : State :=
  let s1 := (((s.discardContext asid).unhalt asid).freeClusters asid)
  { s1.dropXlate asid with
            ctxs := s1.ctxs.drop asid
            queues := s1.queues.map fun e => (e.1, { e.2 with
              asid := if e.2.asid = some asid then none else e.2.asid
              trace := e.2.trace.bind fun t => if t.asid = asid then none else some t }) }

/-- Queues of a context enter KILLED with code FAULT (R270). -/
def State.killQueues (s : State) (asid : Nat) : State :=
  (s.queuesOf asid).foldl (fun s q => let x := s.queue q; if x.enable then s.setQueue q { x with st := .killed, code := 0x04, sub := 0, pktidx := x.next } else s) s

/-- A context is lost (R270): fields of its error record. -/
def State.loseContext (s : State) (asid kind f4 f6 f8 f10 : Nat) : State :=
  let s1 := (((s.discardContext asid).killQueues asid).freeClusters asid).modCtx asid fun c => { c with resident := false, evicting := false, saving := false, stopReq := false, stopped := false, lost := true }
  s1.errRecord kind asid f4 f6 f8 f10 s.ptime

/-! The save area (R265, R266). -/

def Ctx.half (c : Ctx) (h : Nat) : Nat := c.saveBase.toNat + h * (c.saveSize / 2)
def Ctx.imageVa (c : Ctx) (h v : Nat) : Nat := c.half h + (v - c.vcfirst) * 2 ^ 21
def Ctx.unitVa (c : Ctx) (h u : Nat) : Nat := c.half h + c.vcnum * 2 ^ 21 + u * 8256
def Ctx.areaVa (c : Ctx) (h v p k : Nat) : Nat := c.imageVa h v + 0x170000 + 0x4000 * p + 0x2000 * k
def areaKey (v p k : Nat) : Nat := v * 16 + p * 2 + k

/-- TAG (log 8). -/
def Ctx.tag (c : Ctx) (asid idx : Nat) (body : List Byte) : Nat :=
  (shake256 (body ++ toLe 2 asid ++ toLe 2 idx ++ toLe 8 c.saveSeq ++ toLe 8 c.saveKey)).toNat

/-- An image header or unit header. -/
def Ctx.header (c : Ctx) (asid idx : Nat) (body : List Byte) : List Byte :=
  toLe 8 c.saveSeq ++ toLe 2 asid ++ toLe 2 idx ++ List.replicate 20 0 ++ toLe 32 (c.tag asid idx body)

/-- Write to both halves; a write that fails leaves what was there, which a later check refuses. -/
def State.saveBoth (s : State) (asid : Nat) (at_ : Nat → Nat) (bs : List Byte) : State :=
  [0, 1].foldl (fun s h => match s.devWrite asid (at_ h) bs with | .ok t => t | .error _ => s) s

def State.writeUnit (s : State) (asid : Nat) (c : Ctx) (u : Nat) (body : List Byte) : State :=
  s.saveBoth asid (fun h => c.unitVa h u) (body ++ c.header asid u body)

/-- Why a copy fails its check (R269): 1 read error, 2 TAG, 3 SAVESEQ; and the address. -/
abbrev Bad := Nat × Nat

/-- Check a body against its header. -/
def Ctx.checkSaved (c : Ctx) (asid idx va : Nat) (hdr body : List Byte) : Except Bad (List Byte) :=
  if field hdr 32 32 ≠ (shake256 (body ++ toLe 2 asid ++ toLe 2 idx ++ (hdr.take 8) ++ toLe 8 c.saveKey)).toNat then .error (2, va)
  else if field hdr 0 8 ≠ c.saveSeq then .error (3, va)
  else .ok body

/-- The primary copy, or else the neighbour, and whether it was the neighbour; the failures of both (R269). -/
def orNeighbour {α : Type} (f : Nat → Except Bad α) : Except (Nat × Bad) (α × Bool) :=
  match f 0 with
  | .ok a => .ok (a, false)
  | .error e =>
    match f 1 with
    | .ok a => .ok (a, true)
    | .error e2 => .error (e.1, e2)

/-- A retry that passed is counted in the error log (R269, log 93). -/
def State.countRetry (s : State) (retried : Bool) : State :=
  if retried then { s with hostIf := { s.hostIf with retries := s.hostIf.retries + 1 } } else s

def State.readUnit (s : State) (asid : Nat) (c : Ctx) (u h : Nat) : Except Bad (List Byte) :=
  match s.devRead asid (c.unitVa h u) 8256 with
  | .error f => .error (1, f.addr.toNat)
  | .ok bs => c.checkSaved asid u (c.unitVa h u) (bs.drop 8192) (bs.take 8192)

/-- A held eviction area, whose tag the device keeps (R268). -/
def State.readArea (s : State) (asid : Nat) (c : Ctx) (v p k h : Nat) : Except Bad (List Byte) :=
  match s.devRead asid (c.areaVa h v p k) 8192 with
  | .error f => .error (1, f.addr.toNat)
  | .ok bs => if c.areaTags.get? (areaKey v p k) = some (c.tag asid v bs) then .ok bs else .error (2, c.areaVa h v p k)

/-- Hold a tile context in its eviction area. -/
def State.holdArea (s : State) (asid v p k : Nat) (body : List Byte) : State :=
  match s.ctx? asid with
  | none => s
  | some c => (s.saveBoth asid (fun h => c.areaVa h v p k) body).modCtx asid fun c => { c with areaTags := c.areaTags.set (areaKey v p k) (c.tag asid v body) }

/-- The saved copy of a strand's tile context. -/
def State.readSaved (s : State) (asid : Nat) (c : Ctx) (v : Nat) : SavedAt → Except (Nat × Bad) (List Byte × Bool)
  | .unit u => orNeighbour (s.readUnit asid c u)
  | .area p k => orNeighbour (s.readArea asid c v p k)

/-- The place is free again. -/
def State.freeSaved (s : State) (asid v : Nat) : SavedAt → State
  | .unit u => s.modCtx asid fun c => { c with units := c.units.filter fun x => x != u }
  | .area p k => s.modCtx asid fun c => { c with areaTags := c.areaTags.drop (areaKey v p k) }

/-! Records of strands that lose or regain a slot. -/

/-- Word 0 with the slot that a strand holds, or SAVED. -/
def slotWord (w : Word) (slot : Option Nat) (saved pinned : Bool) (pos : Nat) : Word :=
  recWord0 (recPc w) (bitsOf w 0 0 == 1) slot saved pinned pos ||| (w &&& (1#64 <<< 63))

/-- The record of a strand that is on no core takes its new word 0: in its stop image and in the frame that holds it, which stays valid (R42, R257), or in its pool. -/
def State.rewriteWord0 (s : State) (sid : Nat) : State :=
  match s.strands.get? sid with
  | none => s
  | some x =>
    let f : Word → Word := fun w => slotWord w x.slot x.saved.isSome x.pinned x.pos
    match x.stop with
    | some i =>
      let s1 : State := { s with strands := s.strands.set sid { x with stop := some { i with words := match i.words with | w :: t => f w :: t | [] => [] } } }
      match x.frame.bind (s.frameVa x.asid) with
      | some va =>
        (match s.devRead x.asid (va + 0x80) 8 with
         | .ok bs => (match s1.devWrite x.asid (va + 0x80) (wordLe (f (BitVec.ofNat 64 (leNat bs)))) with | .ok s2 => s2 | .error _ => s1)
         | .error _ => s1)
      | none => s1
    | none =>
      let a := s.recordAt x
      s.putBytes none a ((wordLe (f (BitVec.ofNat 64 (leNat (s.mem.read a 8))))).map some)

/-- A strand that is on no core takes a place for its tile context; one that is saved has an empty bypass (R95). -/
def State.setPlace (s : State) (sid : Nat) (slot : Option Nat) (saved : Option SavedAt) : State :=
  match s.strands.get? sid with
  | none => s
  | some x =>
    let stop := if saved.isSome then x.stop.map fun i => { i with bypass := [] } else x.stop
    ({ s with strands := s.strands.set sid { x with slot := slot, saved := saved, stop := stop } }).rewriteWord0 sid

/-- The slot of a core is evicted to a tile unit (R42, R266). -/
def State.evictSlot (s : State) (core k : Nat) : State :=
  match (s.coreAt core).slotOwner k with
  | none => s
  | some sid =>
    match (s.strands.get? sid).bind fun x => (s.ctx? x.asid).bind fun c => c.freeUnit.map fun u => (x, c, u) with
    | none => s
    | some (x, c, u) =>
      let body := s.mem.read (coreBase (core / 8) (core % 8) + 0xC000 + 0x2000 * k) 0x2000
      let s1 := (s.writeUnit x.asid c u body).modCtx x.asid fun c => { c with units := u :: c.units }
      (s1.setCoreAt core ((s1.coreAt core).setSlot k none)).setPlace sid none (some (.unit u))

end Sys2Proof.Machine
end

