-- ==== Sys2Proof/Machine/Kernel.lean ====
section
/-! DEFINITION. Kernels and strands: creation, dispatch, suspension, wakes, spawns, work lists, quiescence, completion, tile slots, traps of stopped strands, residue failures and rollback (R31, R32, R36 to R58, R91, R230 to R232, R247, R255 to R259, R285). -/

namespace Sys2Proof.Machine

/-! Creation (R29, R31, R32). -/

/-- The work identifier of field values. -/
def workId : List Nat → List Nat → Nat
  | w :: ws, f :: fs => f + 2 ^ w * workId ws fs
  | _, _ => 0

/-- The cluster index of field values: scopes, extents, values. -/
def clusterIndex : List Nat → List Nat → List Nat → Nat
  | c :: cs, e :: es, f :: fs => if 1 ≤ c then f + e * clusterIndex cs es fs else clusterIndex cs es fs
  | _, _, _ => 0

/-- The virtual cluster of field values (R32). -/
def Header.vcnOf (h : Header) (f : List Nat) : Nat := h.vcbase + clusterIndex h.scopes h.extents f % h.vccount

/-- The work identifiers that run on a virtual cluster, ascending. -/
def Header.idsOn (h : Header) (v : Nat) : List Nat := ((allIdx h.extents).filter fun f => h.vcnOf f == v).map (workId h.widths)

/-- Put a new strand's entry and record in place; READY at the tail of a list. -/
def State.addStrand (s : State) (x : Strand) (ws : List Word) (p : Nat) : State :=
  let sid := s.nextSid
  let y := { x with st := .ready, pos := p }
  let s1 : State := { s with strands := s.strands.set sid y, nextSid := sid + 1 }
  ((s1.putRecord y ws).setReady y.vcn p (s1.readyList y.vcn p ++ [sid])).wakeCore (s.host y.vcn * 8 + p)

/-- LAUNCH_MESSAGE: the strands of a launch on one virtual cluster, in ascending work identifier, dealt to the lists of the live cores (R31, R32, R247). -/
def execLaunchMessage (k vcn : Nat) (s : State) : Out :=
  match s.kernel? k with
  | none => .next s
  | some y =>
    if !y.messages.contains vcn || !(((s.ctx? y.asid).map fun c => c.inPlace).getD false) then .next s
    else
      let ids := y.hdr.idsOn vcn
      let live := s.livePos vcn
      let s1 := ids.zipIdx.foldl (fun s e =>
        s.addStrand { asid := y.asid, vcn := vcn, recIdx := e.2, kernel := some k, holding := true }
          (recWord0 y.hdr.entry false none false false 0 :: [BitVec.ofNat 64 e.1, y.hdr.args, 0, 0, 0, 0, 0]) (live.getD (e.2 % live.length) 0)) s
      .next (s1.modKernel k fun z => { z with messages := z.messages.filter fun v => v != vcn, live := z.live + ids.length })

/-- Every strand of a kernel has been created and has exited. -/
def Kernel.past (k : Kernel) : Bool := k.messages.isEmpty && k.live == 0

/-- The DONE arrival (R51): none while its word is claimed; otherwise the state, and whether it was made. -/
def State.doneArrival (s : State) (y : Kernel) : Option (State × Bool) :=
  let va := y.hdr.done.toNat
  if va = 0 then some (s, true)
  else if va % 16 ≠ 0 then some (s, false)
  else
    match s.xlate .device y.asid 0 0 .wr va with
    | .error _ => some (s, false)
    | .ok l =>
      if !devAdmits false l || (s.homeFault l).isSome then some (s, false)
      else if (match l.vcn? with | some v => !(s.mapNow v).valid || (s.mapNow v).nonres | none => false) || s.depositsLater [{ va := y.hdr.done, loc := l, n := 16 }] then none
      else
        match s.arriveWord none y.asid 0 0 { va := y.hdr.done, loc := l, n := 16 } false 1 false with
        | .ok none => none
        | .ok (some s1) => some (s1, true)
        | .error (s1, _) => some (s1, false)

/-- KERNEL_COMPLETION (R51, R242). -/
def execKernelCompletion (k : Nat) (s : State) : Out :=
  match s.kernel? k with
  | none => .next s
  | some y =>
    if !y.past then .next s
    else
      match s.doneArrival y with
      | none => .next s
      | some (s1, ok) =>
        let q := s1.queue y.q
        let s2 := s1.setQueue y.q { q with done := q.done + 1, failNext := if ok then q.failNext else some y.pkt }
        let s3 := s2.traceTo y.q 0 (traceRecord 0x02 0 0 s.ptime y.pkt.toNat (q.done + 1).toNat)
        .next { s3 with kernels := s3.kernels.drop k }

/-! Dispatch (R36, R45, R48). -/

/-- Strands of a context are dispatched (R52, R319). -/
def Ctx.dispatchable (c : Ctx) : Bool := c.resident && !c.preempt && !c.stopReq && !c.stopped && !c.evicting

/-- A rotation took the strand off its core in the middle (R279): it goes on before any pre-emption. -/
def Strand.drained (x : Strand) : Bool := match x.stop with | some i => i.trap.isNone | none => false

/-- A SAVED strand finds a slot, or one that can be evicted. -/
def State.slotFor (s : State) (core : Nat) (x : Strand) : Bool :=
  let t := s.focusOn core
  x.saved.isNone || t.cur.freeSlot.isSome ||
    (match (t.victimSlot.bind fun k => (t.cur.slotOwner k).bind t.strand?) with
     | some y => ((s.ctx? y.asid).bind Ctx.freeUnit).isSome
     | none => false)

def State.canStart (s : State) (core sid : Nat) : Bool :=
  match s.strands.get? sid with
  | some x => ((s.ctx? x.asid).map fun c => c.dispatchable || (x.drained && c.inPlace)).getD false && s.slotFor core x && !(x.rollbackDue && !x.trapMark)
  | none => false

/-- The list of a core, over the virtual clusters of its physical cluster. -/
def State.coreList (s : State) (pcn pos : Nat) : List Nat := (s.hosted pcn).flatMap fun v => s.readyList v pos

/-- The core position with the highest READY count, which saturates at 31, the lowest of equals (R45, R47). -/
def State.longest (s : State) (pcn : Nat) : Nat :=
  ((List.range 8).filter (s.live pcn)).foldl (fun b p => if min (s.coreList pcn b).length 31 < min (s.coreList pcn p).length 31 then p else b) (((List.range 8).filter (s.live pcn)).headD 0)

/-- What an idle core takes: the oldest of its own list; where that is empty, the oldest unbound, unpinned entry of the longest list. -/
def State.pickFor (s : State) (core : Nat) : Option Nat :=
  let pcn := core / 8
  let own := s.coreList pcn (core % 8)
  if !own.isEmpty then own.find? (s.canStart core)
  else (s.coreList pcn (s.longest pcn)).find? fun sid =>
    s.canStart core sid && (match s.strands.get? sid with | some x => x.slot.isNone && !x.pinned | none => false)

/-- The words of a record, each uncorrectable one zero; the number of the first that is. -/
def State.recordWords (s : State) (a : Nat) : List Word × Option Nat :=
  let bad : Nat → Bool := fun i => s.mem.bad.contains (errUnit (a + 8 * i))
  ((List.range 8).map fun i => if bad i then 0 else BitVec.ofNat 64 (leNat (s.mem.read (a + 8 * i) 8)), (List.range 8).find? bad)

/-- A strand moves to the focused core: its entry goes with it (log 31). -/
def State.enterCore (s : State) (sid : Nat) (x : Strand) (ws : List Word) : State :=
  let img := x.stop
  let high := (img.map fun i => i.high).getD (x.high.getD [])
  let y := { x with st := .running, pos := s.pos, high := none, stop := none, yielded := false, blockOn := .other
                    pinned := bitsOf (ws.getD 0 0) 62 62 == 1 }
  { s with
    strands := s.strands.drop sid
    cur := { s.cur with
      run := some sid, str := y, regs := regsOf ws high, pc := recPc (ws.getD 0 0), line := none
      bypass := (img.map fun i => i.bypass).getD [], runStamp := s.cur.runStamp + 1, mark := 0, wait := .none, gate := .none, susp := .none
      stop := none, retry := bitsOf (ws.getD 0 0) 0 0 == 1, idles := false, past := false, recent := [], l5Marks := [], vq := s.cur.vq } }

/-- A SAVED strand takes a slot, and stands until its tile context is restored. -/
def State.takeSlot (s : State) (x : Strand) : State :=
  if x.saved.isNone then s
  else
    let s1 := match s.cur.freeSlot, s.victimSlot with
      | none, some k => s.evictSlot s.focus k
      | _, _ => s
    match s1.cur.freeSlot with
    | some k =>
      { s1 with cur := { (s1.cur.setSlot k s1.cur.run) with str := { s1.cur.str with slot := some k }, gate := .unit, wait := .stall } }
    | none => s1

/-- The device takes a strand's tile context as the record states it (R36): a slot that BOUND does not name is given up, one that it names is taken; a saved context that SAVED does not name is given up, and where SAVED names one and the strand has none, it starts with none (log 158). -/
def State.obeyRecord (s : State) (sid : Nat) (x : Strand) (w0 : Word) : State :=
  let want := if bitsOf w0 56 56 = 1 then some (bitsOf w0 57 57) else none
  let p := if want.isSome then bitsOf w0 60 58 else x.pos
  let core : Nat → Nat := fun p => s.host x.vcn * 8 + p
  if x.slot = want ∧ (want = none ∨ x.pos = p) ∧ (x.saved.isNone ∨ bitsOf w0 61 61 = 1) then s
  else
    let s1 := match x.slot with
      | some k => s.setCoreAt (core x.pos) ((s.coreAt (core x.pos)).setSlot k none)
      | none => s
    let s2 := match want with
      | some k => s1.setCoreAt (core p) ((s1.coreAt (core p)).setSlot k (some sid))
      | none => s1
    let keep := bitsOf w0 61 61 == 1
    let s3 := match x.saved with
      | some w => if keep then s2 else s2.freeSaved x.asid x.vcn w
      | none => s2
    s3.modStrand sid fun y => { y with slot := want, pos := p, saved := if keep then y.saved else none }

/-- Start a strand on the focused core; a record that is bad or cannot be read sends it to the handler chain unstarted, and an unbound pinned one goes to the list of its CORE, or of the lowest live position where that is not live (R36, R384). -/
def State.startStrand (s : State) (sid : Nat) : State :=
  match s.strands.get? sid with
  | none => s
  | some x =>
    let s0 := s.unready sid
    let (ws, bad) := match x.stop with
      | some i => (i.words, none)
      | none => s0.recordWords (s0.recordAt x)
    let w0 := ws.getD 0 0
    let s1 := s0.enterCore sid x ws
    let at_ := s0.recordAt x - clusterBase s.pcn
    let refuse : State → Trap → State := fun u t =>
      u.takeTrapWith { trap := t, resume := recPc w0 } { words := ws, high := x.high.getD (List.replicate 8 0), trap := some t, time := u.timeHere, core := u.pos }
    if bad.isSome then refuse s1 { cause := 0x0D, sub := 0x01, fpc := recPc w0, addr := BitVec.ofNat 64 (at_ + 8 * bad.getD 0) }
    else if s.badRecord x.vcn w0 then refuse s1 { cause := 0x07, sub := 0x01, fpc := recPc w0 }
    else
      let home := if s.live s.pcn (bitsOf w0 60 58) then bitsOf w0 60 58 else ((List.range 8).filter (s.live s.pcn)).headD s.pos
      let s2 := s0.obeyRecord sid x w0
      if (bitsOf w0 62 62 = 1 ∨ bitsOf w0 56 56 = 1) ∧ home ≠ s.pos then
        let s3 := s2.modStrand sid fun y => { y with pos := home, pinned := bitsOf w0 62 62 == 1 }
        (s3.setReady x.vcn home (s3.readyList x.vcn home ++ [sid])).wakeCore (s.pcn * 8 + home)
      else
        match s2.strands.get? sid with
        | some y => (s2.enterCore sid y ws).takeSlot y
        | none => s2

/-- The router of a cluster has the publication that brought a virtual cluster to it (R273, R282). -/
def State.knownHere (s : State) (pcn v : Nat) : Bool :=
  let e := s.entryAt pcn v
  e.valid && !e.nonres && e.pcn == pcn

/-- DISPATCH. A core whose clock stands takes no strand of another list (R367). -/
def execDispatch (core : Nat) (s : State) : Out :=
  if !coreExists core || (s.coreAt core).run.isSome || !s.clusterWorks (core / 8) || !s.live (core / 8) (core % 8)
      || ((s.coreAt core).idles && (s.coreList (core / 8) (core % 8)).isEmpty) then .next s
  else
    match s.pickFor core with
    | none => .next s
    | some sid =>
      if ((s.strands.get? sid).map fun x => s.knownHere (core / 8) x.vcn) = some true then .next (s.onCore core fun t => t.startStrand sid)
      else .next s

/-- TILE_RESTORE_DONE (R48, R269): a copy that fails on both halves loses the context. -/
def State.restoreTile (s : State) : State :=
  match s.cur.str.saved, s.cur.str.slot with
  | some w, some k =>
    if s.cur.gate ≠ .unit then s
    else
      match (s.ctx? s.asid).map fun c => s.readSaved s.asid c s.vcn w with
      | some (.ok (bs, retried)) =>
        let s1 : State := { s with mem := s.mem.store none (s.slotAddr k 0) (bs.map some) }
        let s2 := (s1.freeSaved s.asid s.vcn w).countRetry retried
        { s2 with cur := { s2.cur with str := { s2.cur.str with saved := none }, gate := .none, wait := .none } }
      | some (.error e) =>
        s.loseContext s.asid 0x0001 (match w with | .unit u => 2 ^ 15 + u | .area .. => s.vcn) (e.1 + e.2.1 * 256) e.2.2
          (((s.ctx? s.asid).map fun c => c.saveSeq).getD 0)
      | none => s
  | _, _ => s

def execTileRestoreDone (core : Nat) (s : State) : Out :=
  if coreExists core then .next (s.onCore core State.restoreTile) else .next s

/-- Instructions that write a tile register. -/
def writesTile : Instr → Bool
  | .vst .. | .vscat .. | .vrsum .. | .vrmax .. | .vrmin .. => false
  | i => !(namedRows i).isEmpty

/-- TILE_EVICTION_DONE: the strand that waits to write a tile register takes the slot (R42). -/
def State.evictFor (s : State) : State :=
  match s.decoded with
  | some (.instr i) =>
    if s.cur.run.isSome ∧ s.cur.line.map (fun e => e.1) = some s.fetchAddr ∧ s.cur.str.slot.isNone ∧ s.cur.freeSlot.isNone ∧ writesTile i then
      match s.victimSlot with
      | some k =>
        let s1 := s.evictSlot s.focus k
        if (s1.cur.slotOwner k).isNone then { (s1.giveSlot k) with cur := { (s1.giveSlot k).cur with wait := .none } } else s
      | none => s
    else s
  | _ => s

def execTileEvictionDone (core : Nat) (s : State) : Out :=
  if coreExists core then .next (s.onCore core State.evictFor) else .next s

/-! Suspension (R37 to R43). -/

/-- SUSPENSION_THRESHOLD: an unmet blocking instruction becomes a suspension point; the count of its access is withdrawn (R38). -/
def State.threshold (s : State) : State :=
  match s.cur.wait with
  | .block true =>
    if s.cur.susp = .none then
      match s.leaveBlock with
      | some s1 => { s1 with cur := { s1.cur with susp := .retry } }
      | none => s
    else s
  | _ => s

def execSuspensionThreshold (core : Nat) (s : State) : Out :=
  if coreExists core then .next (s.onCore core fun t => if t.cur.run.isSome && t.cur.stop.isNone then t.threshold else t) else .next s

/-- No lane group works for the core. -/
def State.lanesIdle (s : State) : Bool :=
  s.cur.vq.all (fun e => e.tile.isSome) && ((s.cluster s.pcn).groups.all fun g => match g.2 with | .core p _ => p != s.pos | .leaf .. => true)

/-- Write the record and leave the core (R38). Only an unmet WAITC, FENCEW or QPOP waits for what the device can see by itself. -/
def State.suspendNow (s : State) : State :=
  let retry := s.cur.susp == .retry
  let img := s.recordImage (if retry then s.cur.pc else s.nextPc) retry
  let yields := s.cur.susp == .yield
  let now := s.ptime
  let s1 := s.putRecord s.cur.str img
  let on : BlockOn := if retry && s.cur.gate == .none then s.cur.str.blockOn else .other
  let t := (s1.happen s.vcn 0x08 1).park fun x => { x with st := .suspending, suspendedAt := now, yielded := yields, high := none, stop := none, blockOn := on }
  if s.cur.susp = .idle then { t with cur := { t.cur with idles := true } } else t

/-- SUSPENSION_DRAIN. -/
def execSuspensionDrain (core : Nat) (s : State) : Out :=
  if !coreExists core then .next s
  else .next (s.onCore core fun t =>
    if t.cur.run.isSome && t.cur.susp != .none && t.cur.stop.isNone && t.cur.str.pending.isEmpty && t.counts.zero && t.lanesIdle then t.suspendNow else t)

/-- What a BLOCKED strand waits for holds already. -/
def State.metAlready (s : State) (x : Strand) : Bool :=
  match x.blockOn with
  | .counts => x.counts.zero
  | .list d =>
    match x.kernel.bind s.kernel? with
    | some k => k.told.contains x.vcn || (k.list x.vcn d).count != 0
    | none => true
  | .other => false

/-- RECORD_WRITTEN (R43, R44). DESIGN CHOICE (log 153): a wake that was latched before a YIELD is used up when that YIELD makes the strand READY; R44 does not say. -/
def execRecordWritten (sid : Nat) (s : State) : Out :=
  match s.strands.get? sid with
  | none => .next s
  | some x =>
    if x.st ≠ .suspending then .next s
    else
      let s1 : State := { s with strands := s.strands.set sid { x with st := .blocked, wakeLatch := false } }
      if x.yielded || x.wakeLatch || !x.pending.isEmpty || s.metAlready x then .next (s1.makeReady sid) else .next s1

/-! Messages between clusters. -/

/-- The kernel for which a strand acts. -/
def State.kernelFor (s : State) (sid : Nat) : Option Nat := (s.strand? sid).bind fun x => s.kernelOf x 4

/-- WAKE_ARRIVAL: a release at panel scope; it sets the pass latch of the named entry (R214). -/
def execWakeArrival (id : Nat) (s : State) : Out :=
  match s.access? id with
  | none => .next s
  | some a =>
    match a.op with
    | .wake v r =>
      if !s.mayArrive a || !s.releaseMet a 4 then .next s
      else .next (s.arriveThen a fun s a =>
        let s1 := match (s.kernelFor a.sid).bind fun k => s.strandAt k v r with
          | some sid => s.passWake sid
          | none => s
        s1.performed a.id [] 0)
    | _ => .next s

/-- The lowest record of a pool without a strand. -/
def State.freeRecord (s : State) (kid : Nat) (k : Kernel) (v : Nat) : Option Nat :=
  lowestFree ((s.allStrands.filter fun e => e.2.kernel == some kid && e.2.vcn == v).map fun e => e.2.recIdx) k.hdr.poolcap 0

/-- SPAWN_ARRIVAL: a release at panel scope; the record takes the image unchanged (R49, R56, R394, R395). -/
def execSpawnArrival (id : Nat) (s : State) : Out :=
  match s.access? id with
  | none => .next s
  | some a =>
    match a.op with
    | .spawn v ws trig =>
      if !s.mayArrive a || !s.releaseMet a 4 then .next s
      else .next (s.arriveThen a fun s a =>
        match (s.strand? a.sid).bind fun x => x.kernel with
        | none => s.performed a.id [] 1
        | some kid =>
          match s.kernel? kid with
          | none => s.performed a.id [] 1
          | some k =>
            match s.freeRecord kid k v with
            | none => s.performed a.id [] 1
            | some r =>
              let p := s.leastPos v (s.livePos v)
              let w0 := ws.getD 0 0
              let pin := bitsOf w0 62 62 == 1
              let s1 := s.addStrand { asid := a.asid, vcn := v, recIdx := r, kernel := some kid, holding := !k.quiet, triggered := trig, pinned := pin }
                ws p
              (s1.modKernel kid fun y => { y with live := y.live + 1 }).performed a.id [] 0)
    | _ => .next s

/-- Strands BLOCKED on a list of a kernel in a virtual cluster become READY. -/
def State.wakeList (s : State) (kid v : Nat) (p : Nat → Bool) : State :=
  (s.strands.filter fun e => e.2.kernel == some kid && e.2.vcn == v && e.2.st == .blocked && (match e.2.blockOn with | .list d => p d | _ => false)).foldl
    (fun s e => s.wakeStrand e.1) s

/-- QPUSH_ARRIVAL: a release at panel scope (R53, R55, R392). -/
def execQpushArrival (id : Nat) (s : State) : Out :=
  match s.access? id with
  | none => .next s
  | some a =>
    match a.op with
    | .qpush v d item =>
      if !s.mayArrive a || !s.releaseMet a 4 then .next s
      else .next (s.arriveThen a fun s a =>
        match ((s.strand? a.sid).bind fun x => x.kernel).bind fun kid => (s.kernel? kid).map fun k => (kid, k) with
        | none => s.performed a.id [] 1
        | some (kid, k) =>
          let w := k.list v d
          if k.hdr.wlcap ≤ w.count then s.performed a.id [] 1
          else
            let s1 := s.putBytes none (s.itemAddr k v d (w.head + w.count)) ((wordLe item).map some)
            let s2 := s1.modKernel kid fun y => y.setList v d { w with count := w.count + 1 }
            (s2.wakeList kid v fun e => e == d).performed a.id [] 0)
    | _ => .next s

/-- QUIESCENCE (R56). -/
def execQuiescence (k : Nat) (s : State) : Out :=
  match s.kernel? k with
  | none => .next s
  | some y =>
    if y.quiet || !s.quiescent k y then .next s
    else .next (s.modKernel k fun z => { z with quiet := true })

/-- QUIESCENCE_ARRIVAL. -/
def execQuiescenceArrival (k vcn : Nat) (s : State) : Out :=
  match s.kernel? k with
  | none => .next s
  | some y =>
    if y.quiet && !y.told.contains vcn && decide (y.hdr.vcbase ≤ vcn) && decide (vcn < y.hdr.vcbase + y.hdr.vccount) then
      .next ((s.modKernel k fun z => { z with told := vcn :: z.told }).wakeList k vcn fun _ => true)
    else .next s

/-! Waits, traps, residue failures, rollback. -/

/-- COUNT_WAIT_MET: the instruction that waits is tried again (R193). -/
def execCountWaitMet (core : Nat) (s : State) : Out :=
  if !coreExists core then .next s
  else .next (s.onCore core fun t => if t.cur.run.isSome && t.cur.gate == .none && t.cur.susp == .none then t.waiting .none else t)

/-- TRAP_STOP (R256). -/
def execTrapStop (core : Nat) (s : State) : Out :=
  if !coreExists core then .next s
  else .next (s.onCore core fun t =>
    match t.cur.stop with
    | some p => if t.counts.drained && t.lanesIdle then t.takeTrap p else t
    | none => t)

/-- ASYNC_TRAP_ARRIVAL (R257). A roll-up that reaches a strand that is ending abandons its root (R262). -/
def execAsyncTrapArrival (sid : Nat) (s : State) : Out :=
  match s.asyncFlight.find? fun e => e.1 == sid with
  | none => .next s
  | some e =>
    let s1 : State := { s with asyncFlight := s.asyncFlight.erase e }
    match s1.strand? sid with
    | some x => if x.ending && e.2.roll then .next (s1.abandonRoot sid e.2.seq) else .next (s1.latchTrap sid e.2)
    | none => .next s1

/-- FRAME_SLOT_GRANT (R259). -/
def execFrameSlotGrant (asid chain : Nat) (s : State) : Out := .next (s.grantFrame asid chain)

/-- The instructions whose results may still fail their residue check. -/
def Core.unchecked (c : Core) : List (BitVec 56) := c.recent.filterMap id ++ c.vq.filterMap fun e => e.check

/-- A piece of a tile instruction on a lane group fails its residue check: in its strand's OPEN window a rollback falls due, and elsewhere the piece ends with the sub-fault (R80, R230, R248). -/
def State.pieceResidue (s : State) (pcn seq idx : Nat) : State :=
  match s.leaf? seq idx with
  | none => s
  | some (r, l) =>
    let u := s.countResidue pcn
    match s.strand? r.sid with
    | some x =>
      if x.window.st = .opened then (u.modStrand r.sid fun x => { x with rollbackDue := true }).happen r.vcn 0x0B 1
      else u.modLeaf seq idx fun x => { x with fail := some (0, r.subFault l { cause := 0x0D, sub := 0x03 } 0) }
    | none => u.modLeaf seq idx fun x => { x with fail := some (0, r.subFault l { cause := 0x0D, sub := 0x03 } 0) }

/-- The pieces of tile instructions on the lane groups of a cluster. -/
def State.lanePieces (s : State) (pcn : Nat) : List (Nat × Nat) :=
  (s.cluster pcn).groups.filterMap fun g => match g.2 with
    | .leaf seq idx => some (seq, idx)
    | .core .. => none

/-- RESIDUE_REJECT (R230, R285). back: which of the instructions of the core whose checks are under way fails, and after those, which piece on the lane groups of its cluster. -/
def execResidueReject (core back : Nat) (s : State) : Out :=
  if !coreExists core then .next s
  else .next (s.onCore core fun t =>
    match t.cur.run, t.cur.unchecked[back]? with
    | some _, some pc =>
      let u := t.countResidue t.pcn
      if u.cur.str.window.st = .opened then (u.setStr fun x => { x with rollbackDue := true }).happen u.vcn 0x0B 1
      else u.setStr fun x => { x with pending := x.pending ++ [{ cause := 0x0D, sub := 0x03, fpc := pc }] }
    | _, some _ => t
    | _, none =>
      match (t.lanePieces t.pcn)[back - t.cur.unchecked.length]? with
      | some (seq, idx) => t.pieceResidue t.pcn seq idx
      | none => t)

/-- The cluster of a strand is in no step, and its shadow has applied what it held: a rollback that falls due in a step runs on the shadow (R232, R282). -/
def State.settled (s : State) (x : Strand) : Bool :=
  let p := s.host x.vcn
  let r := (s.cluster p).rot
  r != .draining && r != .copying && !s.applying p

/-- No trap is stopping the strand on its core. -/
def State.unstopped (s : State) (sid : Nat) : Bool :=
  match s.coreOf sid with
  | some core => (s.coreAt core).stop.isNone
  | none => true

/-- ROLLBACK_DONE (R231): once the counts are zero; a strand that stands under a trap, or stops for one, waits for TRET (R257). -/
def execRollbackDone (sid : Nat) (s : State) : Out :=
  match s.strand? sid with
  | none => .next s
  | some x => if x.rollbackDue && x.counts.zero && !x.trapMark && s.unstopped sid && s.settled x then .next (s.runRollback sid) else .next s

/-- Fill a cluster's instruction cache of 64 KiB, 1,024 lines (R11); DESIGN CHOICE (log 157): the line that a new one displaces is the oldest, for which the spec gives no rule. -/
def fillLine (cs : List (Nat × BitVec 56 × Nat × BitVec 512)) (e : Nat × BitVec 56 × Nat × BitVec 512) : List (Nat × BitVec 56 × Nat × BitVec 512) :=
  let mine := cs.filter fun x => x.1 == e.1
  (cs.filter fun x => x.1 != e.1) ++ mine.drop (mine.length + 1 - 1024) ++ [e]

/-- LINE_FETCH: the focused core's line arrives and fills the cluster's instruction cache (R105). -/
def execLineFetch (s : State) : Out :=
  if s.cur.run.isNone then .next s
  else
    let a := s.fetchAddr
    if s.icache.any fun e => e.1 == s.pcn && e.2.1 == a && e.2.2.1 == s.asid then .next s
    else
      match s.readLine a with
      | .ok l => .next { s with icache := fillLine s.icache (s.pcn, a, s.asid, l) }
      | .error _ => .next s

end Sys2Proof.Machine
end

