-- ==== Sys2Proof/Machine/Residency.lean ====
section
/-! DEFINITION. Residency of contexts: arbitration, eviction into the save area, and the way back (R236, R258, R265 to R271). -/

namespace Sys2Proof.Machine

/-! Who needs the panel (R236). -/

/-- An enabled queue holds an unprocessed packet or an outstanding kernel. -/
def State.queueWants (s : State) (q : Nat) : Bool := (s.queue q).enable && ((s.queue q).head != (s.queue q).tail || s.outstanding q)

/-- The priority of a context, none where no queue of it wants anything. -/
def State.ctxPrio (s : State) (asid : Nat) : Option Nat :=
  match ((s.queuesOf asid).filter s.queueWants).map fun q => (s.queue q).prio with
  | [] => none
  | p :: t => some (t.foldl max p)

/-! A physical cluster that is free to host a virtual cluster (R276). -/

/-- A virtual cluster that a step moves is on its way to this cluster (R279, R289). -/
def State.destined (s : State) (pcn : Nat) : Bool := s.chips.any fun e => (e.2.phase == 1 || e.2.phase == 2) && e.2.dest == pcn

def State.vacant (s : State) (pcn : Nat) : Bool :=
  let c := s.cluster pcn
  decide (pcn < 48 * 64) && s.present pcn && !c.halted && !c.dead && c.router && !c.condemned && (s.hosted pcn).isEmpty && !s.destined pcn

def State.freeCluster (s : State) (pcn : Nat) : Bool := s.vacant pcn && (s.cluster pcn).rot == .inService

/-- A context may also come to a cluster that is DUE, which is in service (R276). -/
def State.freeHost (s : State) (pcn : Nat) : Bool := s.freeCluster pcn || (s.vacant pcn && (s.cluster pcn).rot == .due)

/-- Each virtual cluster has a cluster that it may come to; a moored one comes to none that is DUE (R284). -/
def State.mayHost (s : State) (p : Nat × Nat) : Bool := s.freeHost p.2 && !((s.mapNow p.1).moored && (s.cluster p.2).rot == .due)

/-- A context that waits needs physical clusters that others hold: fewer are free than it has virtual ones. -/
def State.needsClusters (s : State) (c : Ctx) : Bool := decide (((List.range (48 * 64)).filter s.freeHost).length < c.vcnum)

/-- A context waits to be made resident. -/
def State.waits (s : State) (e : Nat × Ctx) : Bool := !e.2.resident && !e.2.lost && (s.ctxPrio e.1).isSome

/-- No other context that waits goes before this one: none of a higher priority, and of its own none that has waited longer. -/
def State.nextToCome (s : State) (asid : Nat) (c : Ctx) : Bool :=
  let p := (s.ctxPrio asid).getD 0
  s.ctxs.all fun e => e.1 == asid || !s.waits e ||
    (let q := (s.ctxPrio e.1).getD 0
     decide (q < p) || (q == p && decide (c.waitingSince.getD s.ptime ≤ e.2.waitingSince.getD s.ptime)))

/-- RESIDENCY_ARBITRATION: a context that waits and needs clusters has a resident one of lower priority pre-empted. -/
def execResidencyArbitration (asid victim : Nat) (s : State) : Out :=
  match s.ctx? asid, s.ctx? victim, s.ctxPrio asid with
  | some a, some v, some p =>
    let lower := match s.ctxPrio victim with | some q => decide (q < p) | none => true
    if !a.resident && !a.lost && v.resident && !v.preempt && !v.stopped && !v.stopReq && lower && s.needsClusters a then .next (s.modCtx victim fun c => { c with preempt := true }) else .next s
  | _, _, _ => .next s

/-- RESIDENCY_QUANTUM: after 4 ms of residency a context yields to one of its own priority that waits and needs clusters. -/
def execResidencyQuantum (asid : Nat) (s : State) : Out :=
  match s.ctx? asid with
  | none => .next s
  | some c =>
    let waits := s.ctxs.any fun e => s.waits e && s.ctxPrio e.1 == s.ctxPrio asid && s.needsClusters e.2
    if c.resident && !c.preempt && !c.stopped && !c.stopReq && decide (c.residentAt + 4000000 ≤ s.ptime) && waits then
      .next (s.modCtx asid fun c => { c with preempt := true })
    else .next s

/-! Eviction (R267, R268). -/

/-- Every strand of a context is off the cores, and nothing of it moves: its rolled-up tile instructions alone may be outstanding. -/
def State.quiet (s : State) (asid : Nat) : Bool :=
  s.allCores.all (fun e => e.2.run.isNone || e.2.str.asid != asid) &&
    s.strands.all (fun e => e.2.asid != asid || (e.2.st != .suspending && !e.2.drained)) &&
    s.engines.all (fun e => e.asid != asid) && s.flight.all (fun a => a.asid != asid) &&
    s.tiles.all fun r => r.asid != asid || r.st == .faulted

/-- What an eviction area holds: the bound tile context, or the held one as it was; none where both copies of that fail their check. -/
def State.areaBytes (s : State) (asid : Nat) (c : Ctx) (v p k : Nat) : Option (List Byte) :=
  if (c.areaTags.get? (areaKey v p k)).isSome then
    match s.readSaved asid c v (.area p k) with
    | .ok b => some b.1
    | .error _ => none
  else some (s.mem.read (coreBase (s.host v) p + 0xC000 + 0x2000 * k) 8192)

/-- The bytes of an image after its header: control state in the device's own layout, which is free, then the scratchpads and the eviction areas. -/
def State.imageBody (s : State) (asid : Nat) (c : Ctx) (v : Nat) : List Byte × State :=
  let pcn := s.host v
  let ctl := s.freeBytes 0xFFC0
  let cores := (List.range 8).flatMap fun p => s.mem.read (coreBase pcn p) 0xC000
  let areas := (List.range 8).flatMap fun p => [0, 1].flatMap fun k => (s.areaBytes asid c v p k).getD (List.replicate 8192 0)
  (ctl.1 ++ s.mem.read (clusterBase pcn) 0x100000 ++ cores ++ areas, ctl.2)

/-- Write the image of a virtual cluster to both halves. -/
def State.saveImage (s : State) (asid : Nat) (old new : Ctx) (v : Nat) : State :=
  let image := s.imageBody asid old v
  image.2.saveBoth asid (fun h => new.imageVa h v) (new.header asid v image.1 ++ image.1)

/-- Write a used unit again under the new SAVESEQ. -/
def State.saveUnit (s : State) (asid : Nat) (old new : Ctx) (u : Nat) : State :=
  match orNeighbour (s.readUnit asid old u) with
  | .ok b => (s.writeUnit asid new u b.1).countRetry b.2
  | .error _ => s

/-- Held areas take their tag under the new SAVESEQ; one that has failed its check takes a tag that no bytes have, and fails again (R268, R269). -/
def State.retagAreas (s : State) (asid : Nat) (old new : Ctx) : Tbl Nat :=
  old.areaTags.map fun e =>
    (e.1, match s.areaBytes asid old (e.1 / 16) (e.1 / 2 % 8) (e.1 % 2) with
      | some b => new.tag asid (e.1 / 16) b
      | none => 2 ^ 256)

/-- WAITA watches of a context are dropped, with each watcher's pass latch set. -/
def State.dropWatches (s : State) (asid : Nat) : State :=
  let sids := (s.strands.filter fun e => e.2.asid == asid).map fun e => e.1
  let hit := s.watches.filter fun w => sids.contains w.sid
  hit.foldl (fun s w => s.passWake w.sid) { s with watches := s.watches.filter fun w => !sids.contains w.sid }

/-- The slots of the cores that a context leaves. -/
def State.clearSlots (s : State) (pcn : Nat) : State :=
  (List.range 8).foldl (fun s p => s.setCoreAt (pcn * 8 + p) { s.coreAt (pcn * 8 + p) with slot0 := none, slot1 := none }) s

/-- CONTEXT_EVICTION: the event units stop, and the watches are dropped. -/
def execContextEviction (asid : Nat) (s : State) : Out :=
  match s.ctx? asid with
  | none => .next s
  | some c =>
    if !c.resident || !c.preempt || c.stopReq || c.stopped || c.saving || !s.quiet asid then .next s
    else .next ((s.dropWatches asid).modCtx asid fun x => { x with evicting := true, saving := true })

/-- SAVE_ACKNOWLEDGED: both halves hold every image and every used unit as they stand, and the context is not resident; one publication makes its entries NONRES (R275). -/
def execSaveAcknowledged (asid : Nat) (s : State) : Out :=
  match s.ctx? asid with
  | none => .next s
  | some c =>
    if !c.saving || !s.quiet asid then .next s
    else
      let new := { c with saveSeq := c.saveSeq + 1 }
      let tags := s.retagAreas asid c new
      let s1 := c.vcns.foldl (fun s v => s.saveImage asid c new v) s
      let s2 := c.units.foldl (fun s u => s.saveUnit asid c new u) s1
      let s3 := (c.vcns.foldl (fun s v => s.clearSlots (s.host v)) s2).leaveClusters c.vcns
      let s4 := s3.publish (c.vcns.map fun v => (v, { s.mapNow v with pcn := 0, valid := true, nonres := true, grace := false }))
      .next (s4.modCtx asid fun x => { x with
        saveSeq := c.saveSeq + 1, areaTags := tags, resident := false, evicting := false, saving := false, preempt := false, waitingSince := none })

/-! The handler chain table (R258). -/

def overlaps (a n b m : Nat) : Bool := decide (0 < n) && decide (0 < m) && decide (a < b + m) && decide (b < a + n)

/-- The places of a range of bytes under a context's tables. -/
def State.placesOf (s : State) (asid va n : Nat) : Option (List Seg) :=
  match s.xlateAll .device asid 0 0 .wr (pagePieces (n / 2 ^ 16 + 2) va n) with
  | .ok segs => some segs
  | .error _ => none

/-- An entry of the table; none where it breaks a limit. -/
def State.chainEntry (s : State) (asid : Nat) (c : Ctx) (bs : List Byte) (j : Nat) : Option ChainEntry :=
  let o := 0x20 + 32 * j
  let w : Nat → Word := fun k => BitVec.ofNat 64 (field bs (o + k) 8)
  let frames := field bs (o + 8) 8
  let hvcn := field bs (o + 0x10) 2
  let n := field bs (o + 0x12) 2
  let pool := field bs (o + 0x14) 4
  let stage : Nat → Nat → Bool := fun a k => match c.stage2 with | some b => overlaps a k b (2 ^ 18) | none => false
  if !s.headAt asid (w 0) || frames % 2048 != 0 || decide (2 ^ 56 ≤ frames) || decide (4096 ≤ hvcn) || !c.hasVcn hvcn || n == 0 || decide (256 < n)
      || pool % 64 != 0 || decide (2 ^ 20 ≤ pool) || decide (2 ^ 20 < pool + 64 * n) || field bs (o + 0x18) 8 != 0 || stage pool (64 * n) then none
  else
    match s.placesOf asid frames (2048 * n) with
    | none => none
    | some segs =>
      if segs.all fun g => match g.loc with | .cluster v off => v != hvcn || !stage off g.n | .chiplet .. => true | _ => false then
        some { entry := BitVec.ofNat 56 (field bs o 7), frames := BitVec.ofNat 56 frames, hvcn := hvcn, nframes := n, hpool := pool }
      else none

def collectSome {α : Type} : List (Option α) → Option (List α)
  | [] => some []
  | none :: _ => none
  | some a :: t => (collectSome t).map fun r => a :: r

/-- The chain of a context; none where the table cannot be read or breaks a limit. -/
def State.readChain (s : State) (asid : Nat) (c : Ctx) : Option (List ChainEntry) :=
  if c.handlers.toNat % 256 ≠ 0 then none
  else
    match s.devRead asid c.handlers.toNat 256 with
    | .error _ => none
    | .ok bs =>
      let n := field bs 0 1
      if n = 0 ∨ 4 < n ∨ field bs 1 31 ≠ 0 then none
      else collectSome ((List.range n).map fun j => s.chainEntry asid c bs j)

/-! Coming back (R268, R269). -/

/-- The image of a virtual cluster under one half. -/
def State.readImage (s : State) (asid : Nat) (c : Ctx) (v h : Nat) : Except Bad (List Byte) :=
  match s.devRead asid (c.imageVa h v) 0x190000 with
  | .error f => .error (1, f.addr.toNat)
  | .ok bs => c.checkSaved asid v (c.imageVa h v) (bs.take 64) (bs.drop 64)

/-- Every segment of a cluster that is DUE is dirty again (R278). -/
def State.dirtyAll (s : State) (pcn : Nat) : State :=
  let ch := s.chip (chipOf pcn)
  if ch.due = pcn % 64 ∧ ch.clean ≠ [] then s.setChip (chipOf pcn) { ch with clean := [] } else s

/-- Install the scratchpads of an image on a physical cluster. -/
def State.installImage (s : State) (pcn : Nat) (body : List Byte) : State :=
  let part : Nat → Nat → List (Option Byte) := fun off n => ((body.drop (off - 0x40)).take n).map some
  let m0 := s.mem.store none (clusterBase pcn) (part 0x10000 0x100000)
  let m1 := (List.range 8).foldl (fun m p =>
    let m1 := m.store none (coreBase pcn p) (part (0x110000 + 0xC000 * p) 0xC000)
    m1.store none (coreBase pcn p + 0xC000) (part (0x170000 + 0x4000 * p) 0x4000)) m0
  { s with mem := m1 }.dirtyAll pcn

/-- The strands of a virtual cluster find their slots on its new physical cluster: those bound where no core is live are held in their areas, those held where one is are bound again; a pinned strand without a core moves to the lowest live position (R42, R268, R384); a held one whose copies both fail loses the context (R269). -/
def State.placeStrand (s : State) (asid pcn sid : Nat) : State :=
  match s.strands.get? sid with
  | none => s
  | some x =>
    let live := s.live pcn
    let low := ((List.range 8).filter live).headD 0
    let s1 := match x.slot, x.saved with
      | some k, _ =>
        if live x.pos then s.setCoreAt (pcn * 8 + x.pos) ((s.coreAt (pcn * 8 + x.pos)).setSlot k (some sid))
        else
          let body := s.mem.read (coreBase pcn x.pos + 0xC000 + 0x2000 * k) 0x2000
          let s0 := s.setCoreAt (pcn * 8 + x.pos) ((s.coreAt (pcn * 8 + x.pos)).setSlot k none)
          (s0.holdArea asid x.vcn x.pos k body).setPlace sid none (some (.area x.pos k))
      | none, some (.area p k) =>
        if live p then
          match (s.ctx? asid).map fun c => s.readSaved asid c x.vcn (.area p k) with
          | some (.ok (bs, retried)) =>
            let t : State := { s with mem := s.mem.store none (coreBase pcn p + 0xC000 + 0x2000 * k) (bs.map some) }
            let t1 := ((t.countRetry retried).freeSaved asid x.vcn (.area p k)).unready sid
            let t2 := t1.modStrand sid fun y => { y with pos := p }
            let t3 := (t2.setPlace sid (some k) none).setCoreAt (pcn * 8 + p) ((t2.coreAt (pcn * 8 + p)).setSlot k (some sid))
            if x.st = StrandState.ready then (t3.setReady x.vcn p (t3.readyList x.vcn p ++ [sid])).wakeCore (pcn * 8 + p) else t3
          | some (.error e) =>
            s.loseContext asid 0x0001 x.vcn (e.1 + e.2.1 * 256) e.2.2 (((s.ctx? asid).map fun (c : Ctx) => c.saveSeq).getD 0)
          | none => s
        else s
      | none, _ => s
    match s1.strands.get? sid with
    | none => s1
    | some y =>
      if live y.pos then s1
      else
        let s2 := s1.unready sid
        let s3 := (s2.modStrand sid fun z => { z with pos := low }).rewriteWord0 sid
        if y.st = StrandState.ready then (s3.setReady y.vcn low (s3.readyList y.vcn low ++ [sid])).wakeCore (pcn * 8 + low) else s3

def State.placeStrands (s : State) (asid v pcn : Nat) : State :=
  ((s.strands.filter fun e => e.2.asid == asid && e.2.vcn == v).map fun e => e.1).foldl (fun s sid => s.placeStrand asid pcn sid) s

/-- A physical cluster takes a virtual cluster: its mooring goes with it, the cluster has hosted the context (R284, R289), and its instruction cache starts empty (R369). -/
def State.takeCluster (s : State) (asid v pcn : Nat) : State :=
  let c := s.cluster pcn
  { s.setCluster pcn { c with moored := (s.mapNow v).moored, hosts := if c.hosts.contains asid then c.hosts else c.hosts ++ [asid] } with icache := s.icache.filter fun e => e.1 != pcn }

/-- Install every image, or say which failed. -/
def State.installAll (s : State) (asid : Nat) (c : Ctx) : List (Nat × Nat) → Except (Nat × Nat × Bad) State
  | [] => .ok s
  | (v, pcn) :: t =>
    match orNeighbour (s.readImage asid c v) with
    | .error e => .error (v, e)
    | .ok body => ((s.installImage pcn body.1).countRetry body.2).installAll asid c t

/-- Every queue of a context is STOPPED with code FAULT. -/
def State.stopQueues (s : State) (asid : Nat) : State := ((s.queuesOf asid).filter fun q => (s.queue q).enable).foldl (fun s q => s.stopQueue q 0x04) s

/-- MAKE_RESIDENT: the handler table is read as the context then stands (R258), and one that cannot be used leaves the context away. On the physical clusters that the firmware chooses, one for each virtual cluster. -/
def execMakeResident (asid : Nat) (pcns : List Nat) (s : State) : Out :=
  match s.ctx? asid with
  | none => .next s
  | some c =>
    if c.resident || c.lost || (s.ctxPrio asid).isNone || !s.nextToCome asid c || pcns.length != c.vcnum || !pcns.Nodup || !((List.zip c.vcns pcns).all s.mayHost) then .next s
    else
      let pairs := List.zip c.vcns pcns
      let got := if c.everResident then s.installAll asid c pairs else .ok s
      match got with
      | .error (v, e) => .next (s.loseContext asid 0x0001 v (e.1 + e.2.1 * 256) e.2.2 c.saveSeq)
      | .ok s1 =>
        let s2 := s1.publish (pairs.map fun p => (p.1, { s.mapNow p.1 with pcn := p.2, valid := true, nonres := false, grace := false }))
        match s2.readChain asid c with
        | none => .next ((s.stopQueues asid).modCtx asid fun x => { x with waitingSince := none })
        | some chain =>
          let s3 := s2.modCtx asid fun x => { x with
            resident := true, everResident := true, preempt := false, residentAt := s.ptime
            chain := chain.mapIdx fun j e => { e with busy := (x.chain[j]?.map fun o => o.busy).getD [], queue := (x.chain[j]?.map fun o => o.queue).getD [] } }
          let s4 := pairs.foldl (fun s p => (s.takeCluster asid p.1 p.2).placeStrands asid p.1 p.2) s3
          .next { s4 with kernels := s4.kernels.map fun e => (e.1, if e.2.asid = asid then { e.2 with timer := s.ptime, wdTrapped := false } else e.2) }

end Sys2Proof.Machine
end

