-- ==== Sys2Proof/Machine/Regs.lean ====
section
/-! DEFINITION. The device identification block: what each register reads as (R23 to R25, R237 to R239, R277, R286, R287, R292 to R296, R304, R311). -/

namespace Sys2Proof.Machine

/-! The panel's make-up (R23 to R25). -/

def inService (r : RotState) : Bool := r == .inService || r == .due || r == .draining || r == .copying

/-- INSVC: 60 clusters a chiplet less those retired (R16, R24, R25). -/
def State.insvc (s : State) : Nat :=
  ((List.range 48).map fun c => if s.chipAbsent c then 0 else 60 - ((List.range 64).filter fun k => (s.cluster (c * 64 + k)).rot == .retired).length).sum

/-- The clusters of the panel that stand in service. -/
def State.serving (s : State) : List Nat := (List.range (48 * 64)).filter fun p => inService (s.cluster p).rot

def State.stacksHere (s : State) : Nat := 24 - (s.lostDies.filter fun d => decide (0x100 ≤ d) && decide (d < 0x118)).length
def State.chipletsHere (s : State) : Nat := ((List.range 48).filter fun c => !s.chipAbsent c).length

/-- LINKSUP rises when a port has trained and falls when it goes down. DEDUCED (log 150): a port that retrains after the death of a lane has not gone down, and still counts. -/
def State.linksUp (s : State) : Nat := ((List.range 16).filter fun p => (s.ports.getD p {}).counted).length

def State.liveCores (s : State) : Nat := (s.serving.map fun p => ((List.range 8).filter (s.live p)).length).sum

def State.panelCfg (s : State) : Nat :=
  s.chipletsHere + s.insvc * 2 ^ 6 + s.stacksHere * 2 ^ 18 + s.linksUp * 2 ^ 23 + 4 * 2 ^ 28 + s.liveCores % 2 ^ 16 * 2 ^ 32

def HostIf.health (h : HostIf) : Nat := h.risk + h.worst * 2 ^ 8 + h.secureIv * 2 ^ 20 + h.riskIrq * 2 ^ 32

/-- The dies that keep a local counter (R310). -/
def counterDies : List Nat := List.range 48 ++ (List.range 24).map (fun h => 0x100 + h) ++ [0x201, 0x202]

/-- A die is aligned from a beacon that finds its counter within 4 ns of the master until it has missed 100 beacons in a row, which come every 10 µs (R310, R311, log 124). -/
def State.aligned (s : State) (die : Nat) : Bool :=
  match s.hostIf.beaconAt.get? die with
  | some t => decide (s.ptime < t + 1000000) && decide ((s.hostIf.offsets.getD die 0).natAbs ≤ 4)
  | none => false

/-- How far a die's counter runs ahead of the master once time has passed: it never runs backwards, and while the die is aligned it stays within 4 ns, so that two dies differ by BOUND at most (R310 to R312, log 139). -/
def State.drifted (s : State) (dt die : Nat) : Int :=
  let o := s.hostIf.offsets.getD die 0
  let n := o + Config.dieDrift die s.ptime
  max (o - dt) (if s.aligned die then max (-4) (min 4 n) else n)

/-- BOUND: 8 while every die is aligned (R311). -/
def State.skewBound (s : State) : Nat := if counterDies.all fun d => s.lostDies.contains d || s.aligned d then 8 else 0xFFFF

def State.timeSkew (s : State) : Nat := s.skewBound + s.hostIf.maxSeen * 2 ^ 16 + s.hostIf.beacons.toNat * 2 ^ 32
def HostIf.apctl (h : HostIf) : Nat := h.apStack + h.apKey * 2 ^ 8 + bit h.apEnable 16

/-! Chiplet blocks and ageing counters (R277, R286). -/

/-- One bit for each cluster of a chiplet. -/
def State.clusterBits (s : State) (c : Nat) (f : Cluster → Bool) : Nat :=
  ((List.range 64).map fun k => bit (f (s.cluster (c * 64 + k))) k).sum

/-- SHADK: the shadow; 0 while there is none (R277). -/
def State.shadK (s : State) (c : Nat) : Nat := ((List.range 64).find? fun k => (s.cluster (c * 64 + k)).rot == .shadow).getD 0

def State.chipReg (s : State) (c off : Nat) : Nat :=
  let x := s.chip c
  match off with
  | 0x00 => s.fuses.pres.getD c (2 ^ 64 - 1) % 2 ^ 64
  | 0x08 => s.clusterBits c fun k => k.rot == .retired
  | 0x10 => s.clusterBits c fun k => k.moored
  | 0x18 => x.due + s.shadK c * 2 ^ 6 + x.phase * 2 ^ 12 + x.defer * 2 ^ 14 + x.steps.toNat * 2 ^ 32
  | _ => 0

def Cluster.ageing (c : Cluster) : Nat := c.corr + c.resid * 2 ^ 16 + c.margin * 2 ^ 24 + c.hours * 2 ^ 32

/-! Queue blocks (R237 to R239). -/

def State.kernelsOf (s : State) (q : Nat) : List (Nat × Kernel) := s.kernels.filter fun e => e.2.q == q

/-- STATE: RUNNING while packets or kernels are in hand. -/
def State.qstate (s : State) (q : Nat) : Nat :=
  let x := s.queue q
  match x.st with
  | .disabled => 0
  | .idle => if x.next = x.tail ∧ (s.kernelsOf q).isEmpty then 1 else 2
  | .running => 2
  | .blocked => 3
  | .stopped => 4
  | .killed => 5

def State.qstat (s : State) (q : Nat) : Nat :=
  let x := s.queue q
  s.qstate q + x.code * 2 ^ 8 + x.sub * 2 ^ 16 + (s.kernelsOf q).length % 32 * 2 ^ 24 + x.pktidx.toNat * 2 ^ 32

def State.queueReg (s : State) (q off : Nat) : Nat :=
  let x := s.queue q
  match off with
  | 0x00 => x.base.toNat + x.rsize * 2 ^ 58
  | 0x08 => bit x.enable 0 + x.prio * 2 + x.weight * 2 ^ 4 + x.wdlim * 2 ^ 8
  | 0x10 => x.tail.toNat
  | 0x18 => x.head.toNat
  | 0x20 => s.qstat q
  | 0x28 => x.done.toNat
  | 0x30 => x.desc
  | _ => 0

/-! Ports (R304) and mailboxes (R295). -/

def State.portReg (s : State) (p off : Nat) : Nat :=
  let x := s.ports.getD p {}
  match off with
  | 0x00 => bit x.enable 0
  | 0x08 => x.st + x.width * 2 ^ 2 + x.dead.toNat * 2 ^ 7
  | 0x10 => x.replays + x.laneLoss * 2 ^ 32
  | 0x18 => x.remote.toNat
  | _ => 0

def Mailbox.reg (m : Mailbox) (off : Nat) : Nat :=
  match off with
  | 0x40 => m.op + bit (m.st == 1) 8
  | 0x68 => m.st + m.code * 2 ^ 8
  | _ => if off < 0x68 then (m.args.getD ((off - 0x48) / 8) 0).toNat else 0

/-! The whole block (R292). -/

/-- The aligned 8-byte word at an offset, as seen by one side. -/
def State.readReg (s : State) (i : Inst) (off : Nat) : Nat :=
  let h := s.hostIf
  if off = 0x00 then s.panelId
  else if off = 0x08 then s.panelCfg
  else if off = 0x20 then h.health
  else if off = 0x28 then s.timeSkew
  else if off = 0x30 then s.ptime % 2 ^ 64
  else if 0x40 ≤ off ∧ off < 0x70 then (s.mbox i).reg off
  else if off = 0x80 then h.apctl
  else if 0x800 ≤ off ∧ off < 0xE00 then s.chipReg ((off - 0x800) / 0x20) (off % 0x20)
  else if 0x2000 ≤ off ∧ off < 0x8000 then (s.cluster ((off - 0x2000) / 8)).ageing
  else if 0x10000 ≤ off ∧ off < 0x20000 then s.queueReg ((off - 0x10000) / 0x40) (off % 0x40)
  else if 0x20000 ≤ off ∧ off < 0x21000 then s.portReg ((off - 0x20000) / 0x100) (off % 0x100)
  else if off = 0x30000 then h.errHead
  else if off = 0x30008 then h.errTail
  else if off = 0x30010 then h.errLost
  else if 0x40000 ≤ off ∧ off < 0x44000 then field (h.errRing.getD ((off - 0x40000) / 64) []) (off % 64) 8
  else if 0x80000 ≤ off ∧ off < 0x88000 then (h.msixTable.getD ((off - 0x80000) / 8) 0).toNat
  else 0

/-! Host writes through BAR2 (R293). -/

/-- What lies behind an aperture access: the place, or whether the device answers nothing at all. -/
def State.aperture (s : State) (off n : Nat) (write : Bool) : Option Loc × State :=
  let h := s.hostIf
  if !h.apEnable ∨ 2 ^ 36 < off + n then (none, s)
  else if (s.keys.get? h.apKey).isNone then (none, s.errRecord 0x0005 0 (h.apStack + h.apKey * 2 ^ 8) (if write then 1 else 0) off 0 s.ptime)
  else (some (.hbm (h.apStack * 2 ^ 36 + off) h.apKey), s)

def State.reply (s : State) (bs : List Byte) : State := { s with hostIf := { s.hostIf with replies := s.hostIf.replies ++ [bs] } }

/-- Aperture bytes at their homes, block by block; a block that cannot take its part keeps its contents. fuel: at least the bytes. -/
def State.apertureStore (s : State) (l : Loc) : Nat → List Byte → State
  | 0, _ => s
  | fuel + 1, bs =>
    if bs.isEmpty then s
    else
      let a := s.homeFlat l
      let k := 64 - a % 64
      let part := (bs.take k).map some
      let s1 := if (writeErr s.mem s.lostDies (s.homeKey l) part.length a part).isSome then s else s.putHome l part
      s1.apertureStore (l.plus k) fuel (bs.drop k)

/-- Aperture writes in the order in which they came, up to one whose bytes are claimed. fuel: the writes. -/
def State.drainWrites (s : State) : Nat → State
  | 0 => s
  | fuel + 1 =>
    match s.hostIf.held with
    | [] => s
    | (off, bs) :: t =>
      let done : State → State := fun u => ({ u with hostIf := { u.hostIf with held := t } } : State).drainWrites fuel
      match s.aperture off bs.length true with
      | (none, s1) => done s1
      | (some l, s1) => if s1.claimed true [{ va := 0, loc := l, n := bs.length }] then s else done (s1.apertureStore l bs.length bs)

def State.drainHeld (s : State) : State := s.drainWrites s.hostIf.held.length

/-- A host access after every aperture write that came before it; it waits while one of them waits (R197, R293). -/
def State.inOrder (s : State) (f : State → State) : State :=
  let t := s.drainHeld
  if t.hostIf.held.isEmpty then f t else t

/-- A read of 4 or 8 aligned bytes; none is Unsupported Request. -/
def State.readBlock (s : State) (i : Inst) (off n : Nat) : Option (List Byte) :=
  if (n = 4 ∨ n = 8) ∧ off % n = 0 then some (toLe n (s.readReg i (off / 8 * 8) / 2 ^ (8 * (off % 8)))) else none

end Sys2Proof.Machine
end

