-- ==== Sys2Proof/Machine/Link.lean ====
section
/-! DEFINITION. Shadex ports: training, flits, replay, lane deaths, and what a far panel asks for and answers (R299 to R306). -/

namespace Sys2Proof.Machine

/-! Lanes (R299, R303). -/

/-- The widest group of lanes that holds no dead lane, none 0. -/
def widest (dead : BitVec 16) : Nat :=
  let d := dead.toNat
  if d = 0 then 16
  else if d % 256 = 0 ∨ d / 256 = 0 then 8
  else if (List.range 4).any fun k => d / 16 ^ k % 16 == 0 then 4
  else 0

/-- The packets that a port has not had acknowledged, with their peers; fuel: the flits. -/
def packetsIn : Nat → List Byte → List (List Byte × Nat) → List (List Byte × Nat)
  | 0, _, _ => []
  | _, _, [] => []
  | fuel + 1, acc, (b, peer) :: t =>
    let bs := acc ++ b.drop 4
    if field b 0 1 / 8 % 2 = 1 then (bs, peer) :: packetsIn fuel [] t else packetsIn fuel bs t

def Port.unacked (x : Port) : List (List Byte × Nat) :=
  let fs := x.replay.map (fun f => (f.2.1, f.2.2)) ++ x.pend
  packetsIn fs.length [] fs

/-- A packet of a port that no port can carry any more: its operation meets a fault at its window address (R305). -/
def State.packetLost (s : State) (p : List Byte) : State :=
  if packetType p = 1 ∨ packetType p = 2 then
    match s.engine? (packetTag p) with
    | some e =>
      let hit : List Byte → Bool := fun q => packetOff q == packetOff p
      if e.out.any hit then
        ((s.engineFail e { cause := 0x0D, sub := 0x01, addr := BitVec.ofNat 64 (e.windowVa (packetOff p)) } []).modEngine e.id fun y => { y with out := y.out.filter fun q => !hit q }).flushHold e.id
      else s
    | none => s
  else s

/-- A port without traffic, its sequence numbers at their start. -/
def Port.cleared (x : Port) (st : Nat) : Port :=
  { x with st := st, width := 0, counted := false, pend := [], replay := [], txSeq := 0, rxSeq := 0, rxAck := 0xFFFF, naked := false, partials := [] }

/-- A port goes down: what it has not had acknowledged goes to the next port of the peer's mask (R305). -/
def State.portDown (s : State) (p st : Nat) : State :=
  let x := s.port p
  x.unacked.foldl (fun s u => match s.sendPeer u.2 u.1 with | some t => t | none => s.packetLost u.1) (s.setPort p (x.cleared st))

/-- A reset: the packets that are not acknowledged fail, and every lane is tested again (R303, R304). -/
def State.portReset (s : State) (p : Nat) : State :=
  let x := s.port p
  x.unacked.foldl (fun s u => s.packetLost u.1) (s.setPort p { x.cleared (if x.enable then 1 else 0) with dead := 0 })

/-! Registers (R304). -/

/-- The link die of a port is out of reset (R313, R329). -/
def State.linkDie (s : State) (p : Nat) : Bool := decide (p < 16) && s.trust.bootFail.isNone && !s.lostDies.contains (if p < 8 then 0x200 else 0x201)

/-- A write of SXCTL. -/
def State.writeSxctl (s : State) (p : Nat) (v : Word) : State :=
  let x := s.port p
  let on := bitsOf v 0 0 == 1
  let s1 := if on then s.setPort p { x with enable := true, st := if x.enable then x.st else 1 }
    else if x.enable then (s.setPort p { x with enable := false }).portDown p 0 else s
  if bitsOf v 1 1 = 1 then s1.portReset p else s1

/-- SXCTL_ENABLE. -/
def execSxctlEnable (p : Nat) (s : State) : Out := if s.linkDie p then .next (s.inOrder fun s => s.writeSxctl p 1) else .next s

/-- SXCTL_RESET: ENABLE stays as it is. -/
def execSxctlReset (p : Nat) (s : State) : Out := if s.linkDie p then .next (s.inOrder fun s => s.portReset p) else .next s

/-! Sending and replay (R302, R303). -/

/-- Send again everything from ACK + 1 on. -/
def Port.resend (x : Port) (now : Nat) : Port :=
  if x.replay.isEmpty then x
  else { x with st := 3, ackAt := now, replays := min (x.replays + 1) 0xFFFFFFFF, sent := x.sent ++ x.replay.map fun f => flitBytes f.1 x.rxAck f.2.1 }

/-- An ACK covers flits of the replay buffer. -/
def Port.acked (x : Port) (a now : Nat) : Port :=
  if x.replay.any fun f => f.1 == a then
    let y := { x with replay := (x.replay.dropWhile fun (f : Nat × List Byte × Nat) => f.1 != a).drop 1, ackAt := now, st := if x.st = 3 then 2 else x.st }
    y.pump y.pend.length
  else x

/-- PORT_TRAINED: at width 16, 8 or 4 the port is up and replays what it kept; at none it is down. -/
def execPortTrained (p width : Nat) (remote : Word) (s : State) : Out :=
  let x := s.port p
  if !s.linkDie p ∨ !x.enable ∨ x.st ≠ 1 then .next s
  else if (width = 16 ∨ width = 8 ∨ width = 4) ∧ width ≤ widest x.dead then
    let y := { x with st := 2, counted := true, width := width, remote := remote }.resend s.ptime
    .next (s.setPort p (y.pump y.pend.length))
  else .next (s.portDown p 0)

/-- What the receiver has accepted of an undelivered packet is discarded. -/
def Port.discard (x : Port) : Port := { x with partials := [], rxSeq := (x.rxAck + 1) % 65536 }

/-- LANE_DEATH (R303): of a port that runs, that retrains, or that tests every lane. -/
def execLaneDeath (p lane : Nat) (s : State) : Out :=
  let x := s.port p
  if 16 ≤ p ∨ 16 ≤ lane ∨ x.st = 0 then .next s
  else
    let d := x.dead ||| BitVec.ofNat 16 (2 ^ lane)
    let y := { x.discard with dead := d, laneLoss := min (x.laneLoss + 1) 0xFFFFFFFF }
    if widest d = 0 then .next ((s.setPort p y).portDown p 0)
    else .next (s.setPort p { y with st := 1, width := if x.width = 0 then 0 else widest d })

/-- RETRAIN_DONE: the port replays at its reduced width. -/
def execRetrainDone (p : Nat) (s : State) : Out :=
  let x := s.port p
  if p < 16 ∧ x.st = 1 ∧ x.width ≠ 0 then
    let y := { x with st := 2 }.resend s.ptime
    .next (s.setPort p (y.pump y.pend.length))
  else .next s

/-- A sender receives a NAK: its ACK, then the resending. -/
def Port.nakIn (x : Port) (ack now : Nat) : Port := (x.acked ack now).resend now

/-- NAK_RECEIVE. -/
def execNakReceive (p ack : Nat) (s : State) : Out :=
  let x := s.port p
  if p < 16 ∧ 2 ≤ x.st then .next (s.setPort p (x.nakIn ack s.ptime)) else .next s

/-- REPLAY_TIMEOUT: 2 µs without a new ACK. -/
def execReplayTimeout (p : Nat) (s : State) : Out :=
  let x := s.port p
  if p < 16 ∧ 2 ≤ x.st ∧ x.ackAt + 2000 ≤ s.ptime then .next (s.setPort p (x.resend s.ptime)) else .next s

/-! Receiving (R300 to R302). -/

/-- An IDLE flit or a NAK, which carries no SEQ of its own. -/
def controlFlit (kind ack : Nat) : List Byte := flitBytes 0 ack (toLe 1 kind ++ List.replicate 243 0)

def Port.sendNak (x : Port) : Port :=
  if x.naked then x.discard else { x.discard with naked := true, sent := x.sent ++ [controlFlit 2 x.rxAck] }

/-- A DATA flit. -/
def Port.dataIn (x : Port) (seq : Nat) (flit : List Byte) : Port :=
  if seq ≠ x.rxSeq then x.sendNak
  else
    let body := (flit.drop 8).take 240
    let ps := if field flit 4 1 / 4 % 2 = 1 then [body] else x.partials ++ [body]
    let y := { x with naked := false, rxSeq := (seq + 1) % 65536 }
    if field flit 4 1 / 8 % 2 = 1 then
      { y with partials := [], rxAck := seq, delivered := y.delivered ++ [ps.flatten], sent := y.sent ++ [controlFlit 1 seq] }
    else { y with partials := ps }

/-- A flit reaches a port. -/
def Port.flitIn (x : Port) (flit : List Byte) (now : Nat) : Port :=
  if flit.length ≠ 256 ∨ Config.crc64 (flit.take 248) ≠ BitVec.ofNat 64 (field flit 248 8) then x.sendNak
  else
    let ack := field flit 2 2
    match field flit 4 1 % 4 with
    | 0 => (x.acked ack now).dataIn (field flit 0 2) flit
    | 2 => x.nakIn ack now
    | _ => x.acked ack now

/-- FLIT_RECEIVE. -/
def execFlitReceive (p : Nat) (flit : List Byte) (s : State) : Out :=
  let x := s.port p
  if p < 16 ∧ 2 ≤ x.st then .next (s.setPort p (x.flitIn flit s.ptime)) else .next s

/-! What the far panel asks for (R305, R306). -/

/-- Take the first delivered packet of a type. -/
def State.takePacket (s : State) (p ty : Nat) : Option (List Byte × State) :=
  let x := s.port p
  match x.delivered.find? fun d => packetType d == ty with
  | none => none
  | some d => some (d, s.setPort p { x with delivered := x.delivered.erase d })

/-- The peer that a port leads to: the header names none (log 50). -/
def State.peerAt (s : State) (p : Nat) : Option (Nat × Peer) := s.peers.find? fun e => e.2.ports / 2 ^ p % 2 == 1

/-- The pieces of a window range in the remote context; none where it is not resident. -/
def State.windowSegs (s : State) (asid off n : Nat) (need : Need) : Except Fail (Option (List Seg)) :=
  if 2 ^ 56 < n + off then .error { cause := 0x03, sub := 0x05 }
  else
    match s.xlateAll .device asid 0 0 need (pagePieces (n / 2 ^ 16 + 2) off n) with
    | .error f => .error f
    | .ok segs =>
      match segs.findSome? fun g => match g.loc with
        | .cluster .. | .hbm .. => none
        | .chiplet c _ => if s.chipAbsent c then some 0x09 else none
        | _ => some 0x02 with
      | some sub => .error { cause := 0x03, sub := sub }
      | none =>
        if segs.any fun g => (match g.loc with | .cluster v _ => (s.mapNow v).valid && (s.mapNow v).nonres | _ => false) then .ok none
        else if segs.any fun g => (match g.loc with | .cluster v _ => !(s.mapNow v).valid | _ => false) then .error { cause := 0x03, sub := 0x07 }
        else .ok (some segs)

/-- A step is copying the cluster of some piece, or its shadow has still to apply what it holds: the message waits (R279, R280). -/
def State.segsMoving (s : State) (segs : List Seg) : Bool :=
  segs.any fun g => match g.loc.vcn? with
    | some v => (s.cluster (s.host v)).rot == .copying || s.applying (s.host v)
    | none => false

/-- A packet goes back to the peer of a port, on the lowest port to it that is up (R305). -/
def State.sendBack (s : State) (p : Nat) (pkt : List Byte) : State :=
  match s.peerAt p with
  | some (i, _) => (s.sendPeer i pkt).getD s
  | none => s.sendOn p 256 pkt

/-- Answer a packet; a fault's cause and subcode are the first two bytes of data. -/
def State.answerPacket (s : State) (p status : Nat) (pkt : List Byte) (f : Fail) : State :=
  s.sendBack p (packetBytes 4 status 2 (packetOff pkt) 0 (packetTag pkt) (toLe 1 f.cause ++ toLe 1 f.sub))

def farAsid (e : Option (Nat × Peer)) : Nat := (e.map fun x => x.2.asid).getD 0

/-- What a tag of the peer of a port has sent here. -/
def State.tallyOf (s : State) (p tag : Nat) : Nat := ((s.peerAt p).map fun e => e.2.tally.getD tag 0).getD 0

def State.modTally (s : State) (p : Nat) (f : Tbl Nat → Tbl Nat) : State :=
  match s.peerAt p with
  | some (i, e) => { s with peers := s.peers.set i { e with tally := f e.tally } }
  | none => s

/-- Count what a sender's tag has sent here, the bytes of packets that met a fault too (R212). -/
def State.tallyAdd (s : State) (p tag n : Nat) (err : Bool) : State :=
  let o := s.tallyOf p tag
  s.modTally p fun t => t.set tag ((o / 2 + n) * 2 + (if err ∨ o % 2 = 1 then 1 else 0))

/-- Write the pieces as engine writes of the far context (R217). -/
def State.farStore (s : State) (asid : Nat) : List Seg → Except (State × Fail) State
  | [] => .ok s
  | g :: t =>
    let a := s.homeFlat g.loc
    match writeErr s.mem s.lostDies (s.homeKey g.loc) g.n a g.data with
    | some x => .error (s.modLog asid fun l => l.subRsv (s.segsReq (g :: t)), errFail x g.va.toNat a)
    | none =>
      match s.appendParts asid 0 0 .engine g.parts with
      | .error (s1, x) => .error (s1.modLog asid fun l => l.subRsv (s.segsReq t), { cause := x.cause, sub := x.sub, addr := x.addr })
      | .ok s1 => (s1.putHome g.loc g.data).farStore asid t

/-- Pieces of a write with their bytes and logged parts. -/
def State.farParts (s : State) (asid : Nat) : List Seg → List Byte → List Seg
  | [], _ => []
  | g :: t, bs =>
    let h := { g with data := (bs.take g.n).map some }
    { h with parts := s.engineParts (s.log asid).mode h } :: s.farParts asid t (bs.drop g.n)

/-- A WRITE packet is performed. -/
def State.farWrite (s : State) (p : Nat) (pkt : List Byte) : State × Nat × Fail :=
  let asid := farAsid (s.peerAt p)
  match s.windowSegs asid (packetOff pkt) (packetLen pkt) .wr with
  | .error f => (s, 1, f)
  | .ok none => (s, 2, { cause := 0, sub := 0 })
  | .ok (some segs) =>
    let gs := s.farParts asid segs (packetData pkt)
    match s.reserve asid (s.segsReq gs) with
    | none => (s, 1, { cause := 0x09, sub := 0x03 })
    | some s1 =>
      match s1.farStore asid gs with
      | .error (s2, f) => (s2, 1, f)
      | .ok s2 => (s2, 0, { cause := 0, sub := 0 })

/-- The place of the arrival that a packet carries: none where it carries none; no piece where its context is not resident (R199, R306). -/
def State.farArrivalAt (s : State) (p : Nat) (pkt : List Byte) : Except Fail (Option (List Seg)) :=
  let off := packetArr pkt
  if off = 0 then .ok none
  else if off % 16 ≠ 0 then .error { cause := 0x03, sub := 0x01 }
  else
    match s.windowSegs (farAsid (s.peerAt p)) off 16 .wr with
    | .error f => .error f
    | .ok o => .ok (some (o.getD []))

/-- The arrival that the last packet of an operation carries sets out, with what the operation's packets have written here (R199, log 20). -/
def State.sendArrival (s : State) (p : Nat) (pkt : List Byte) (g : Seg) : State :=
  let tag := packetTag pkt
  let n := s.tallyOf p tag
  let asid := farAsid (s.peerAt p)
  { (s.modTally p fun t => t.drop tag) with
    nextId := s.nextId + 1
    arrivals := s.arrivals ++ [{ id := s.nextId, asid := asid, gens := g.loc.vcn?.toList.map fun v => (v, (s.mapNow v).gen), asGen := s.asGenNow asid .device
                                 seg := { g with parts := s.engineParts (s.log asid).mode g }, counter := false, n := n / 2, err := n % 2 == 1 }] }

/-- SHADEX_WRITE: its bytes, then its arrival. A packet whose arrival cannot be made yet has no effect and is asked for again; one whose arrival meets a fault reports it. -/
def execShadexWrite (p : Nat) (s : State) : Out :=
  match s.takePacket p 1 with
  | none => .next s
  | some (pkt, s1) =>
    let none_ : Fail := { cause := 0, sub := 0 }
    let moving := match s1.windowSegs (farAsid (s1.peerAt p)) (packetOff pkt) (packetLen pkt) .wr with | .ok (some segs) => s1.segsMoving segs | _ => false
    let arr := s1.farArrivalAt p pkt
    if moving then .next s
    else if (match arr with | .ok (some []) => true | _ => false) then .next (s1.answerPacket p 2 pkt none_)
    else
      match s1.farWrite p pkt with
      | (s2, 2, f) => .next (s2.answerPacket p 2 pkt f)
      | (s2, st, f) =>
        let s3 := s2.tallyAdd p (packetTag pkt) (packetLen pkt) (st == 1)
        match arr with
        | .ok (some (g :: _)) => .next ((s3.sendArrival p pkt g).answerPacket p st pkt f)
        | .error e => .next ((s3.modTally p fun t => t.drop (packetTag pkt)).answerPacket p 1 pkt (if st = 1 then f else e))
        | _ => .next (s3.answerPacket p st pkt f)

/-- READREQ. -/
def execReadreq (p : Nat) (s : State) : Out :=
  match s.takePacket p 2 with
  | none => .next s
  | some (pkt, s1) =>
    match s1.windowSegs (farAsid (s1.peerAt p)) (packetOff pkt) (packetLen pkt) .rd with
    | .error f => .next (s1.answerPacket p 1 pkt f)
    | .ok none => .next (s1.answerPacket p 2 pkt { cause := 0, sub := 0 })
    | .ok (some segs) =>
      if s1.segsMoving segs then .next s
      else
      match s1.readSegs segs with
      | .error f => .next (s1.answerPacket p 1 pkt f)
      | .ok bs => .next (s1.sendBack p (packetBytes 3 0 (packetLen pkt) (packetOff pkt) 0 (packetTag pkt) bs))

/-! What comes back. -/

/-- The part of a destination from byte k on, n bytes; a logged part belongs to the stretch in which its first written byte lies. -/
def subSeg (g : Seg) (k n : Nat) : Seg :=
  let va := g.va.toNat
  { va := BitVec.ofNat 56 (va + k), loc := g.loc.plus k, n := n
    parts := g.parts.filter fun p => decide (va + k ≤ max p.va va) && decide (max p.va va < va + k + n) }

/-- Bytes that a peer has sent reach their places. -/
def State.dataIn (s : State) (e : EngOp) (off : Nat) (bs : List Byte) : State :=
  match e.moves.find? fun m => match m.src with | some (.peer _ o) => decide (o ≤ off) && decide (off + bs.length ≤ o + m.dst.n) | _ => false with
  | some m =>
    (match m.src with
     | some (.peer _ o) =>
       let g := subSeg m.dst (off - o) bs.length
       (match e.add with
        | some f => s.engineWrite e .engine g (addElem f (s.mem.read (s.homeFlat g.loc) g.n) bs)
        | none => s.engineWrite e .engine g bs)
     | _ => s)
  | none => s

/-- A packet of an operation has been answered; what waited for it goes next (R306). -/
def State.answered (s : State) (id off : Nat) : State :=
  match s.engine? id with
  | none => s
  | some e =>
    let out := match e.out.find? fun q => packetOff q == off with | some q => e.out.erase q | none => e.out
    (s.modEngine id fun x => { x with out := out }).flushHold id

/-- READDATA. -/
def execReaddata (p : Nat) (s : State) : Out :=
  match s.takePacket p 3 with
  | none => .next s
  | some (pkt, s1) =>
    match s1.engine? (packetTag pkt) with
    | some e => if e.out.any fun q => packetOff q == packetOff pkt then .next ((s1.dataIn e (packetOff pkt) (packetData pkt)).answered e.id (packetOff pkt)) else .next s1
    | none => .next s1

/-- The packets of an operation that its port has not begun to send come back, and wait until the refused one has been accepted (R306). -/
def State.pullBack (s : State) (e : EngOp) : State :=
  match e.peer.bind s.peerPort with
  | none => s
  | some p =>
    let x := s.port p
    let r := pullPend x.pend.length e.id x.pend
    let back : List Byte → Bool := fun q => r.2.contains (packetOff q)
    (s.setPort p { x with pend := r.1 }).modEngine e.id fun y => { y with out := y.out.filter fun q => !back q, hold := y.out.filter back ++ y.hold }

/-- RESPONSE. -/
def execResponse (p : Nat) (s : State) : Out :=
  match s.takePacket p 4 with
  | none => .next s
  | some (pkt, s1) =>
    match s1.engine? (packetTag pkt) with
    | none => .next s1
    | some e =>
      let off := packetOff pkt
      match e.out.find? fun q => packetOff q == off with
      | none => .next s1
      | some q =>
        match packetStatus pkt with
        | 0 => .next (s1.answered e.id off)
        | 2 => .next ((s1.pullBack e).modEngine e.id fun x => { x with out := x.out.erase q, again := x.again ++ [q], retryAt := s.ptime })
        | _ =>
          let d := packetData pkt
          .next ((s1.engineFail e { cause := field d 0 1, sub := field d 1 1, addr := BitVec.ofNat 64 (e.windowVa off) } []).answered e.id off)

/-- PEER_RETRY: 10 µs later the first packet that was refused goes again. -/
def execPeerRetry (id : Nat) (s : State) : Out :=
  match s.engine? id with
  | none => .next s
  | some e =>
    match e.again with
    | q :: t =>
      if e.out.isEmpty && decide (e.retryAt + 10000 ≤ s.ptime) then .next ((s.modEngine id fun x => { x with again := t }).sendPackets { e with again := t } [q]) else .next s
    | [] => .next s

end Sys2Proof.Machine
end

