-- ==== Sys2Proof/Machine/Queue.lean ====
section
/-! DEFINITION. Queues and contexts: the descriptor, QTAIL, QCTL, teardown, watchdogs, a failed hart (R235 to R240, R251, R252, R265, R275, R290, R307, R316). -/

namespace Sys2Proof.Machine

/-! The descriptor (R235). -/

/-- Every byte from 0 to 127 that no field names is zero. -/
def onlyFields (n : Nat) (fs : List (Nat × Nat)) (bs : List Byte) : Bool :=
  (List.range n).all fun i => fs.any (fun f => decide (f.1 ≤ i) && decide (i < f.1 + f.2)) || bs.getD i 0 == 0

def descFields : List (Nat × Nat) :=
  [(0x00, 8), (0x08, 4), (0x0C, 4), (0x10, 8), (0x18, 8), (0x20, 8), (0x28, 8), (0x30, 8), (0x38, 4), (0x3C, 4), (0x40, 2), (0x42, 2), (0x48, 8)]

/-- A staging area's field: none where its NONE bit is set; the second answer is whether it obeys its limits. -/
def stageField (w bits align size all : Nat) : Option Nat × Bool :=
  let a := w % 2 ^ bits
  if w = 2 ^ 31 then (none, true)
  else (some a, w == a && a % align == 0 && decide (a + size ≤ all))

/-- The context that a descriptor gives, and its ASID; none where it breaks a limit. -/
def parseDesc (desc : Nat) (bs : List Byte) : Option (Nat × Ctx) :=
  let f := field bs
  let root := f 0x00 8
  let asid := f 0x08 4
  let ctl := f 0x10 8
  let logsz := ctl / 2 ^ 8
  let base := f 0x18 8
  let save := f 0x20 8
  let size := f 0x28 8
  let hnd := f 0x30 8
  let s2 := stageField (f 0x38 4) 20 (2 ^ 16) (2 ^ 18) (2 ^ 20)
  let s3 := stageField (f 0x3C 4) 24 (2 ^ 21) (2 ^ 22) (2 ^ 24)
  let first := f 0x40 2
  let num := f 0x42 2
  let peers := f 0x48 8
  if onlyFields 128 descFields bs
      && root % 2 ^ 11 == 0 && decide (root < hbmEnd)
      && decide (1 ≤ asid) && decide (asid < 4096) && decide (f 0x0C 4 < 2 ^ 20)
      && decide (ctl < 2 ^ 14) && ctl / 2 ^ 3 % 2 ^ 5 == 0 && ctl % 4 != 3 && decide (16 ≤ logsz) && decide (logsz ≤ 40)
      && decide (base < 2 ^ 56) && base % 2 ^ logsz == 0
      && decide (save < 2 ^ 56) && decide (size < 2 ^ 40) && size % 2 ^ 22 == 0 && decide (num * 2 ^ 21 + 16 * num * 8256 ≤ size / 2)
      && decide (hnd < 2 ^ 56) && hnd != 0 && s2.2 && s3.2
      && decide (1 ≤ num) && decide (first < 4096) && decide (first + num ≤ 4096) && decide (peers < 2 ^ 56) then
    some (asid, { desc := desc, ptroot := root, gen := BitVec.ofNat 20 (f 0x0C 4)
                  log := { mode := ctl % 4, recycle := ctl / 4 % 2 == 1, logsz := logsz, base := BitVec.ofNat 56 base }
                  saveBase := BitVec.ofNat 56 save, saveSize := size, handlers := BitVec.ofNat 56 hnd
                  stage2 := s2.1, stage3 := s3.1, vcfirst := first, vcnum := num, peers := BitVec.ofNat 56 peers })
  else none

/-- Strictly ascending. -/
def ascending : List Nat → Bool
  | a :: b :: t => decide (a < b) && ascending (b :: t)
  | _ => true

/-- The peer list (R307); none where it breaks its rules. -/
def State.readPeers (s : State) (asid va : Nat) : Option (List Nat) :=
  if va = 0 then some []
  else
    match s.devRead asid va 2 with
    | .error _ => none
    | .ok h =>
      let n := field h 0 2
      if n = 0 ∨ 64 < n then none
      else
        match s.devRead asid (va + 8) (2 * n) with
        | .error _ => none
        | .ok bs =>
          let l := (List.range n).map fun k => field bs (2 * k) 1
          if ascending l ∧ l.any s.ownPeer then some l else none

/-- The ranges of virtual clusters meet. -/
def Ctx.meets (a b : Ctx) : Bool := decide (a.vcfirst < b.vcfirst + b.vcnum) && decide (b.vcfirst < a.vcfirst + a.vcnum)

/-- Make the context of a descriptor: a save key of its own, its virtual clusters mapped and not resident (R235, R275, R316). None leaves the queue STOPPED. -/
def State.openContext (s : State) (desc : Nat) : Option (Nat × State) :=
  if hbmEnd < desc + 128 ∨ !s.physRange desc 128 then none
  else
    match parseDesc desc (s.mem.read desc 128) with
    | none => none
    | some (asid, c) =>
      if (s.ctx? asid).isSome ∨ s.ctxs.any (fun e => e.2.meets c) then none
      else
        let s1 : State := { s with keyCtr := s.keyCtr + 1, ctxs := s.ctxs.set asid { c with saveKey := s.newKey } }
        match s1.readPeers asid c.peers.toNat with
        | none => none
        | some l => some (asid, (s1.modCtx asid fun x => { x with peerList := l }).publish (c.vcns.map fun v => (v, ({ valid := true, nonres := true } : MapEntry))))

/-! QTAIL (R240, R243). -/

/-- The lowest index that may be read again. -/
def Queue.lowest (x : Queue) : BitVec 32 :=
  x.loops.foldl (fun l e => let i := e.1 - BitVec.ofNat 32 e.2.1; if x.tail - l < x.tail - i then i else l) x.head

def Queue.badTail (x : Queue) : Bool := decide (2 ^ x.rsize < (x.tail - x.lowest).toNat)

/-- Check the tail of an enabled queue, one that a breakpoint holds too. -/
def State.tailCheck (s : State) (q : Nat) : State :=
  let x := s.queue q
  if x.enable && (x.st != .stopped || x.code == 0x07) && x.st != .killed && x.badTail then s.stopQueue q 0x03 else s

/-- HEAD and the place in the stream pass a packet (R243): a packet read again is not retired twice. -/
def Queue.pass (x : Queue) : Queue :=
  { x with head := if x.next = x.head then x.head + 1 else x.head, next := x.next + 1, passBreak := false, waits := false, readySince := none, starved := false, retry := false }

/-- An armed index stops the queue (R320). -/
def Queue.armed (x : Queue) : Bool := x.breaks.contains x.next.toNat && !x.passBreak

/-- Retire the packets that a COND skips, as far as they are written (R244). fuel: the packets. -/
def State.skipOn (s : State) (q : Nat) : Nat → State
  | 0 => s
  | n + 1 =>
    let x := s.queue q
    if x.skip = 0 ∨ x.next = x.tail ∨ x.st ≠ .idle then s
    else if x.armed then s.stopQueue q 0x07
    else (s.setQueue q { x.pass with skip := x.skip - 1 }).skipOn q n

def State.skipAll (s : State) (q : Nat) : State := s.skipOn q (s.queue q).skip

/-- Write TAIL. -/
def State.writeTail (s : State) (q : Nat) (v : Word) : State :=
  let x := s.queue q
  let y := { x with tail := BitVec.ofNat 32 v.toNat }
  ((s.setQueue q y).tailCheck q).skipAll q

/-- QTAIL_WRITE. -/
def execQtailWrite (q : Nat) (v : Word) (s : State) : Out := if decide (q < 1024) && s.cpRuns then .next (s.inOrder fun s => s.writeTail q v) else .next s

/-! QCTL (R236, R238, R252). -/

/-- Teardown once no enabled queue names the context. -/
def State.teardownUnused (s : State) (asid : Option Nat) : State :=
  match asid with
  | some a => if (s.queuesOf a).any fun q => (s.queue q).enable then s else s.teardown a
  | none => s

/-- ENABLE becomes 1. DEDUCED (log 159): a context has at most 64 queues, and one queue more is enabled as one whose descriptor breaks a limit is (R26, R235). -/
def State.enableQueue (s : State) (q : Nat) : State :=
  let x := { s.queue q with enable := true, next := (s.queue q).head, loops := [], skip := 0, passBreak := false, retry := false, waits := false, readySince := none, starved := false, failNext := none }
  match s.ctxs.find? fun e => e.2.desc == x.desc with
  | some e => if 64 ≤ ((s.queuesOf e.1).filter fun k => k != q && (s.queue k).enable).length then (s.setQueue q { x with asid := none }).stopQueue q 0x04 else (s.setQueue q { x with asid := some e.1, st := .idle, code := 0, sub := 0 }).tailCheck q
  | none =>
    match s.openContext x.desc with
    | some (asid, s1) => (s1.setQueue q { x with asid := some asid, st := .idle, code := 0, sub := 0 }).tailCheck q
    | none => (s.setQueue q { x with asid := none }).stopQueue q 0x04

/-- ENABLE becomes 0. -/
def State.disableQueue (s : State) (q : Nat) : State :=
  let x := s.queue q
  (s.setQueue q { x with enable := false, st := .disabled, code := 0, sub := 0 }).teardownUnused x.asid

/-- A queue-level reset; of a queue that is DISABLED it has no effect (R298). -/
def State.resetQueue (s : State) (q : Nat) : State :=
  let x := s.queue q
  if !x.enable then s
  else
    let s1 := (s.wipeQueue q).traceCloseQ q 2
    let y := s1.queue q
    (s1.setQueue q { y with head := y.tail, next := y.tail, enable := false, st := .disabled, code := 0x06, sub := 0, pktidx := x.next
                            loops := [], skip := 0, breaks := [], passBreak := false, waits := false, failNext := none, retry := false }).teardownUnused x.asid

/-- Pre-emption of a context is requested (R52); a stopped one is not pre-empted (R319). -/
def State.preempt (s : State) (asid : Nat) : State :=
  s.modCtx asid fun c => if c.resident && !c.stopped && !c.stopReq then { c with preempt := true } else c

def State.preemptOf (s : State) (q : Nat) : State :=
  match (s.queue q).asid with
  | some a => if (s.queue q).enable then s.preempt a else s
  | none => s

/-- A write of QCTL. A RESET is of the queue as it stood, whatever ENABLE says. -/
def State.writeQctl (s : State) (q : Nat) (v : Word) : State :=
  let x := s.queue q
  let w := bitsOf v 7 4
  let s1 := s.setQueue q { x with prio := bitsOf v 3 1, weight := if w = 0 then x.weight else w, wdlim := bitsOf v 31 8 }
  if bitsOf v 32 32 = 1 then s1.resetQueue q
  else
    let s2 := if bitsOf v 0 0 = 1 ∧ !x.enable then s1.enableQueue q else if bitsOf v 0 0 = 0 ∧ x.enable then s1.disableQueue q else s1
    if bitsOf v 33 33 = 1 then s2.preemptOf q else s2

/-- QUEUE_ENABLE. -/
def execQueueEnable (q : Nat) (v : Word) (s : State) : Out :=
  if decide (q < 1024) && s.cpRuns && bitsOf v 0 0 == 1 && bitsOf v 32 32 == 0 then .next (s.inOrder fun s => s.writeQctl q v) else .next s

/-- QUEUE_DISABLE. -/
def execQueueDisable (q : Nat) (v : Word) (s : State) : Out :=
  if decide (q < 1024) && s.cpRuns && bitsOf v 0 0 == 0 && bitsOf v 32 32 == 0 then .next (s.inOrder fun s => s.writeQctl q v) else .next s

/-- QUEUE_RESET. -/
def execQueueReset (q : Nat) (v : Word) (s : State) : Out :=
  if decide (q < 1024) && s.cpRuns && bitsOf v 32 32 == 1 then .next (s.inOrder fun s => s.writeQctl q v) else .next s

/-- QUEUE_PREEMPT. -/
def execQueuePreempt (q : Nat) (v : Word) (s : State) : Out :=
  if decide (q < 1024) && s.cpRuns && bitsOf v 33 33 == 1 && bitsOf v 32 32 == 0 then .next (s.inOrder fun s => s.writeQctl q v) else .next s

/-! Watchdogs (R251). -/

/-- The residency that a kernel's timer has counted, with its queue's limit in ns; none where no timer counts. -/
def State.watchdog (s : State) (k : Kernel) : Option (Nat × Nat) :=
  match s.ctx? k.asid with
  | some c =>
    let l := (s.queue k.q).wdlim
    if c.resident && !c.stopped && l != 0 then some (s.ptime - k.timer, l * 1000) else none
  | none => none

/-- WATCHDOG_LIMIT. -/
def execWatchdogLimit (k : Nat) (s : State) : Out :=
  match s.kernel? k with
  | none => .next s
  | some y =>
    match s.watchdog y with
    | some (t, l) => if l ≤ t then .next (s.preempt y.asid) else .next s
    | none => .next s

/-- WATCHDOG_TRAP: each strand of the kernel that is still RUNNING, once. -/
def execWatchdogTrap (k : Nat) (s : State) : Out :=
  match s.kernel? k with
  | none => .next s
  | some y =>
    match s.watchdog y with
    | some (t, l) =>
      if 2 * l ≤ t ∧ !y.wdTrapped then
        let runs := s.allCores.filter fun e => e.2.run.isSome && e.2.str.kernel == some k
        let s1 := runs.foldl (fun s e => match e.2.run with
          | some sid => s.latchTrap sid { cause := 0x0A, sub := 0x01, fpc := e.2.pc }
          | none => s) s
        .next (s1.modKernel k fun z => { z with wdTrapped := true })
      else .next s
    | none => .next s

/-- A kill (R252). -/
def State.killQueue (s : State) (q : Nat) : State :=
  let s1 := s.wipeQueue q
  let y := s1.queue q
  s1.setQueue q { y with st := .killed, code := 0x05, sub := 0, pktidx := y.next, loops := [], skip := 0, retry := false, waits := false }

/-- WATCHDOG_KILL. -/
def execWatchdogKill (k : Nat) (s : State) : Out :=
  match s.kernel? k with
  | none => .next s
  | some y =>
    match s.watchdog y with
    | some (t, l) => if 3 * l ≤ t then .next (s.killQueue y.q) else .next s
    | none => .next s

/-- HART_RESTART (R290): the enabled queues that the hart served, and the side-band's error log. -/
def execHartRestart (queues : List Nat) (s : State) : Out :=
  let s1 := (queues.filter fun q => (s.queue q).enable && (s.queue q).st != .killed).foldl (fun s q => s.stopQueue q 0x04) s
  .next { s1 with hostIf := { s1.hostIf with sideErrors := s1.hostIf.sideErrors ++ [s.ptime] } }

end Sys2Proof.Machine
end

