-- ==== Sys2Proof/Machine/Packet.lean ====
section
/-! DEFINITION. Packets: their form, the order in which queues are served, launches, loops, conditions, waits and signals (R28 to R32, R240 to R245, R253, R275, R320). -/

namespace Sys2Proof.Machine

/-! Reads that the command processor makes for a queue (R275). -/

/-- Some piece names a virtual cluster that is not resident. -/
def State.segsAway (s : State) (segs : List Seg) : Bool :=
  segs.any fun g => match g.loc.vcn? with
    | some v => !(s.mapNow v).valid || (s.mapNow v).nonres
    | none => false

def State.away (s : State) (asid va n : Nat) (need : Need) : Bool :=
  match s.xlateAll .device asid 0 0 need (pagePieces (n / 2 ^ 16 + 2) va n) with
  | .ok segs => s.segsAway segs
  | .error _ => false

/-- What a read of the command processor comes to: bytes, a fault, or RETRY. -/
inductive CpRead where
  | bytes (bs : List Byte)
  | fault
  | retry

def State.cpRead (s : State) (asid va n : Nat) : CpRead :=
  if s.away asid va n .rd then .retry
  else
    match s.devRead asid va n true with
    | .ok bs => .bytes bs
    | .error _ => .fault

/-! The form of packets (R241, R291). -/

def pkOp (p : List Byte) : Nat := field p 0 1
def pkFlags (p : List Byte) : Nat := field p 1 1
def pkAddr (p : List Byte) : Nat := field p 8 8

/-- A value or a reserved byte breaks a limit of its OP. -/
def badPacket (p : List Byte) (rsize : Nat) : Bool :=
  let fl := pkFlags p
  let a := pkAddr p
  let only : List (Nat × Nat) → Bool := fun fs => onlyFields 64 ((0, 2) :: fs) p
  let addr : Nat → Bool := fun al => decide (a < 2 ^ 56) && a % al == 0
  !(match pkOp p with
    | 0 => fl == 0 && only []
    | 1 => decide (fl < 3) && only [(8, 8)] && addr 64
    | 2 => decide (fl < 3) && only [(8, 8), (0x10, 8)] && addr 64 && decide (field p 0x10 8 < 2 ^ 56) && field p 0x10 8 % 8 == 0
    | 3 => fl == 0 && only [(8, 4), (0xC, 2)] && decide (1 ≤ field p 8 4) && decide (1 ≤ field p 0xC 2) && decide (field p 0xC 2 ≤ 1024)
        && decide (field p 0xC 2 < 2 ^ rsize)
    | 4 => decide (fl < 4) && only [(8, 8), (0x10, 8), (0x18, 8), (0x20, 2)] && addr 8
    | 5 => decide (fl < 4) && only [(8, 8), (0x10, 8), (0x18, 8)] && addr 8
    | 6 => decide (fl < 8) && only [(8, 8), (0x10, 8), (0x18, 2)] && addr 8
        && (if fl / 2 % 2 = 1 then decide (2 ≤ field p 0x18 2) && decide (field p 0x18 2 < 2048) else field p 0x18 2 == 0)
    | _ => false)

/-- (word AND MASK) REL VALUE (R244). -/
def pkTest (p : List Byte) (w : Nat) : Bool :=
  let x := w &&& field p 0x10 8
  let v := field p 0x18 8
  match pkFlags p % 4 with
  | 0 => x == v
  | 1 => x != v
  | 2 => decide (x < v)
  | _ => decide (v ≤ x)

/-! Waiting (R242, R244, R245). -/

/-- Every strand of a kernel has been created and is triggered or has exited (R246). -/
def State.allTriggered (s : State) (k : Nat) : Bool :=
  (match s.kernel? k with | some y => y.messages.isEmpty | none => true) &&
    s.allStrands.all fun e => e.2.kernel != some k || e.2.triggered

/-- The packet waits for a dependence, a kernel slot or its condition. -/
def State.pkWaits (s : State) (q : Nat) (p : List Byte) : Bool :=
  let ks := s.kernelsOf q
  match pkOp p with
  | 1 | 2 =>
    decide (16 ≤ ks.length) ||
      (match pkFlags p % 4 with | 0 => !ks.isEmpty | 1 => ks.any (fun e => !s.allTriggered e.1) | _ => false)
  | 4 => !ks.isEmpty
  | 5 => match s.cpRead ((s.queue q).asid.getD 0) (pkAddr p) 8 with
    | .bytes b => !pkTest p (leNat b)
    | _ => false
  | 6 => pkFlags p / 4 % 2 == 0 && !ks.isEmpty
  | _ => false

/-- The packets at which a queue is BLOCKED: a launch that waits for its dependence or for a kernel slot, and a WAIT (R239). -/
def pkBlocks (p : List Byte) : Bool := pkOp p == 1 || pkOp p == 2 || pkOp p == 5

/-! Which queue is served (R253). -/

/-- The packet that a queue has come to. -/
def State.packetOf (s : State) (q : Nat) : CpRead :=
  let x := s.queue q
  s.cpRead (x.asid.getD 0) (x.base.toNat + 64 * (x.next.toNat % 2 ^ x.rsize)) 64

/-- A queue has come to a packet that is there. -/
def Queue.atPacket (x : Queue) : Bool := x.enable && x.asid.isSome && (x.st == .idle || x.st == .blocked) && !x.retry && x.next != x.tail

def State.processable (s : State) (q : Nat) : Bool :=
  let x := s.queue q
  x.atPacket && (x.failNext.isSome || x.armed ||
    match s.packetOf q with
    | .bytes p => badPacket p x.rsize || !s.pkWaits q p
    | .fault => true
    | .retry => false)

/-- The order in which two processable queues are served. -/
def State.before (s : State) (a b : Nat) : Bool :=
  let x := s.queue a
  let y := s.queue b
  if x.starved ∨ y.starved then
    (if x.starved ∧ y.starved then decide (x.readySince.getD s.ptime < y.readySince.getD s.ptime) || (x.readySince.getD s.ptime == y.readySince.getD s.ptime && decide (a < b)) else x.starved)
  else if x.prio ≠ y.prio then decide (y.prio < x.prio)
  else
    let late : Nat → Bool := fun q => match s.lastQueue.get? x.prio with | some l => decide (q ≤ l) | none => false
    if late a = late b then decide (a < b) else late b

/-- No processable queue comes before this one. -/
def State.turnOf (s : State) (q : Nat) : Bool := s.queues.all fun e => e.1 == q || !s.processable e.1 || s.before q e.1

/-! What a packet does. -/

/-- Retire the packet and go on. -/
def State.retire (s : State) (q : Nat) : State := s.setQueue q (s.queue q).pass

/-- The queue waits to read again. -/
def State.retryLater (s : State) (q : Nat) : State := s.setQueue q { s.queue q with st := .idle, retry := true, since := s.ptime }

/-- LOOP (R243). The jump goes to the LOOP packet's own index less BACK. -/
def State.loopAt (s : State) (q count back : Nat) : State :=
  let x := s.queue q
  let opened := x.loops.any fun e => e.1 == x.next
  if !opened && decide (4 ≤ x.loops.length) then s.stopQueue q 0x02
  else
    let y : Queue := if opened then x else { x with loops := (x.next, back, count - 1) :: x.loops }
    match y.loops with
    | (i, b, n) :: t =>
      if n = 0 then s.setQueue q ({ y with loops := t } : Queue).pass
      else s.setQueue q { y with loops := (i, b, n - 1) :: t, next := i - BitVec.ofNat 32 b, passBreak := false, readySince := none, starved := false }
    | [] => s

/-- COND (R244). -/
def State.condAt (s : State) (q : Nat) (p : List Byte) : State :=
  match s.cpRead ((s.queue q).asid.getD 0) (pkAddr p) 8 with
  | .fault => s.stopQueue q 0x04
  | .retry => s.retryLater q
  | .bytes b =>
    let s1 := s.retire q
    if pkTest p (leNat b) then s1 else (s1.setQueue q { s1.queue q with skip := field p 0x20 2 }).skipAll q

/-- WAIT (R244). -/
def State.waitAt (s : State) (q : Nat) (p : List Byte) : State :=
  match s.cpRead ((s.queue q).asid.getD 0) (pkAddr p) 8 with
  | .fault => s.stopQueue q 0x04
  | .retry => s.retryLater q
  | .bytes b => if pkTest p (leNat b) then s.retire q else s.setQueue q { s.queue q with st := .blocked }

/-- The pieces of SIGNAL's word; the command processor's writes are not logged. -/
def State.signalSegs (s : State) (asid va : Nat) (add : Bool) : Except Fail (List Seg) :=
  match s.xlateAll .device asid 0 0 .wr [(va, 8)] with
  | .error f => .error f
  | .ok segs =>
    if !add then .ok segs
    else
      match s.xlate .device asid 0 0 .rd va with
      | .error f => .error f
      | .ok _ => .ok segs

/-- The MSI-X message of a SIGNAL: one whose word lies in host memory waits for the zero-length read after the write (R294). -/
def State.signalVector (s : State) (segs : List Seg) (v : Nat) : State :=
  if segs.any fun g => match g.loc with | .host _ => true | _ => false then
    { s with hostIf := { s.hostIf with sigReads := s.hostIf.sigReads ++ [(s.nextId, v)] }, nextId := s.nextId + 1 }
  else s.msix v

/-- HOST_READ_COMPLETION: a PUT to host memory is performed at the far end, or the MSI-X message of a SIGNAL goes out (R294). -/
def execHostReadCompletion (id : Nat) (s : State) : Out :=
  match s.hostIf.sigReads.lookup id with
  | some v => .next (({ s with hostIf := { s.hostIf with sigReads := s.hostIf.sigReads.filter fun e => e.1 != id } } : State).msix v)
  | none => .next (s.farDone id)

/-- SIGNAL (R245). A claimed word holds it back (R197), and a word in a cluster that copies to its shadow (R279). -/
def State.signalAt (s : State) (q : Nat) (p : List Byte) : State :=
  let asid := (s.queue q).asid.getD 0
  let add := pkFlags p % 2 == 1
  let v := field p 0x10 8
  match s.signalSegs asid (pkAddr p) add with
  | .error _ => s.stopQueue q 0x04
  | .ok segs =>
    if s.segsAway segs then s.retryLater q
    else if (s.devFault true segs).isSome then s.stopQueue q 0x04
    else if s.claimed true segs || s.depositsLater segs then s
    else
      let old := if add then s.readSegs segs else .ok []
      match old with
      | .error _ => s.stopQueue q 0x04
      | .ok o =>
        match s.writeSegs segs ((toLe 8 (leNat o + v)).map some) with
        | .error _ => s.stopQueue q 0x04
        | .ok s1 => (if pkFlags p / 2 % 2 = 1 then s1.signalVector segs (field p 0x18 2) else s1).retire q

/-! Launches (R28 to R32, R242). -/

def headerFields : List (Nat × Nat) :=
  [(0x00, 8), (0x08, 8), (0x10, 6), (0x16, 1), (0x18, 2), (0x20, 24), (0x38, 2), (0x3A, 2), (0x3C, 4), (0x40, 2), (0x42, 2), (0x44, 4), (0x48, 8)]

def prod (l : List Nat) : Nat := l.foldl (· * ·) 1

/-- The most strands that a launch gives one virtual cluster (R32). -/
def Header.perCluster (h : Header) : Nat :=
  let fs := List.zip h.scopes h.extents
  let q := prod ((fs.filter fun f => decide (1 ≤ f.1)).map fun f => f.2)
  let r := prod ((fs.filter fun f => f.1 == 0).map fun f => f.2)
  (q + h.vccount - 1) / h.vccount * r

def nonDecreasing : List Nat → Bool
  | a :: b :: t => decide (a ≤ b) && nonDecreasing (b :: t)
  | _ => true

/-- The places of the pages of a range that translate. -/
def State.pagesOf (s : State) (asid va n : Nat) : List Seg :=
  (pagePieces (n / 2 ^ 16 + 2) va n).flatMap fun p => ((s.xlateAll .device asid 0 0 .wr [p]).toOption).getD []

/-- What hardware writes in the cluster scratchpads of a kernel's virtual clusters: offsets and lengths. The handler chain is the one read when the context was made resident, the table's as it stands where it is not resident (R258). -/
def State.reservedAreas (s : State) (asid : Nat) (c : Ctx) (first count : Nat) : List (Nat × Nat) :=
  let mine : Nat → Bool := fun v => decide (first ≤ v) && decide (v < first + count)
  let chain := if c.resident then c.chain else (s.readChain asid c).getD c.chain
  (c.stage2.map fun b => (b, 2 ^ 18)).toList ++
    (chain.filter fun e => mine e.hvcn).map (fun e => (e.hpool, 64 * e.nframes)) ++
    chain.flatMap fun e => (s.pagesOf asid e.frames.toNat (2048 * e.nframes)).filterMap fun g => match g.loc with
      | .cluster v off => if mine v then some (off, g.n) else none
      | _ => none

/-- Check a header: the launch, or the code of R30. DESIGN CHOICE (log 145): of several conditions that a header breaks at once, R30 does not say which code is given; the model gives the lowest. -/
def State.checkHeader (s : State) (asid : Nat) (c : Ctx) (hb : List Byte) (exts : Option (List Nat)) : Except Nat Header :=
  let f := field hb
  let wb := (List.range 6).map fun i => f (0x10 + i) 1
  let nf := f 0x16 1
  let sc := f 0x18 2
  let ws := wb.mapIdx fun i w => if i < nf then w else 0
  let ex := exts.getD ((List.range 6).map fun i => f (0x20 + 4 * i) 4)
  let scopes := (List.range 6).map fun i => sc / 4 ^ i % 4
  let first := f 0x38 2
  let count := f 0x3A 2
  let pool := f 0x3C 4
  let cap := f 0x40 2
  let wl := f 0x42 2
  let wlo := f 0x44 4
  let h : Header := { entry := BitVec.ofNat 56 (f 0 8), args := BitVec.ofNat 64 (f 8 8), widths := ws, nfields := nf, scopes := scopes, extents := ex
                      vcbase := first, vccount := count, pooloff := pool, poolcap := cap, wlcap := wl, wloff := wlo, done := BitVec.ofNat 56 (f 0x48 8) }
  let wlBytes := if wl = 0 then 0 else 16 * (64 + 8 * wl)
  let areas := s.reservedAreas asid c first count
  if !onlyFields 128 headerFields hb ∨ 2 ^ 56 ≤ f 0 8 ∨ wb.any (fun w => decide (128 ≤ w)) ∨ 8 ≤ nf ∨ 2 ^ 12 ≤ sc ∨ 4096 ≤ first ∨ 8192 ≤ count
      ∨ 2 ^ 20 ≤ pool ∨ 2 ^ 20 ≤ wlo ∨ 2 ^ 56 ≤ f 0x48 8 then .error 0x01
  else if nf = 0 ∨ 6 < nf ∨ wb.any (fun w => decide (64 < w)) ∨ 64 < ws.sum then .error 0x02
  else if (List.zip ws ex).any fun e => if e.1 = 0 then e.2 != 1 else e.2 == 0 || decide (2 ^ e.1 < e.2) then .error 0x03
  else if !nonDecreasing scopes then .error 0x04
  else if count = 0 ∨ first < c.vcfirst ∨ c.vcfirst + c.vcnum < first + count then .error 0x05
  else if pool % 64 ≠ 0 ∨ cap = 0 ∨ 16384 < cap ∨ 2 ^ 20 < pool + 64 * cap ∨ wlo % 64 ≠ 0 ∨ (wl ≠ 0 ∧ 2 ^ 20 < wlo + wlBytes)
      ∨ overlaps pool (64 * cap) wlo wlBytes ∨ areas.any (fun a => overlaps pool (64 * cap) a.1 a.2 || overlaps wlo wlBytes a.1 a.2) then .error 0x06
  else if cap < h.perCluster then .error 0x07
  else if !s.headAt asid (BitVec.ofNat 64 (f 0 8)) then .error 0x08
  else .ok h

/-- The header's bytes, and EXT's for LAUNCHI. -/
def State.readLaunch (s : State) (asid : Nat) (p : List Byte) : CpRead × Option CpRead :=
  (s.cpRead asid (pkAddr p) 128, if pkOp p = 2 then some (s.cpRead asid (field p 0x10 8) 24) else none)

/-- Perform a launch (R31, R247). -/
def State.launchAt (s : State) (q : Nat) (p : List Byte) : State :=
  let x := s.queue q
  let asid := x.asid.getD 0
  match s.ctx? asid with
  | none => s
  | some c =>
    let go : List Byte → Option (List Nat) → State := fun hb ex =>
      if !c.resident && s.away asid c.handlers.toNat 256 .rd then s.retryLater q
      else match s.checkHeader asid c hb ex with
      | .error code => if code = 0x08 ∧ s.away asid (field hb 0 8 / 64 * 64) 64 .ex then s.retryLater q else s.stopQueue q 0x01 code
      | .ok h =>
        let k : Kernel := { q := q, pkt := x.next, asid := asid, hdr := h, messages := (List.range h.vccount).map fun i => h.vcbase + i, timer := s.ptime }
        let s1 : State := { s with kernels := s.kernels.set s.nextKernel k, nextKernel := s.nextKernel + 1 }
        (s1.traceTo q 0 (traceRecord 0x01 0 0 s.ptime x.next.toNat x.done.toNat)).retire q
    match s.readLaunch asid p with
    | (.bytes hb, none) => go hb none
    | (.bytes hb, some (.bytes eb)) => go hb (some ((List.range 6).map fun i => field eb (4 * i) 4))
    | (.retry, _) => s.retryLater q
    | (_, some .retry) => s.retryLater q
    | _ => s.stopQueue q 0x04

/-- Perform a packet whose conditions hold. -/
def State.performPacket (s : State) (q : Nat) (p : List Byte) : State :=
  match pkOp p with
  | 0 => s.retire q
  | 1 | 2 => s.launchAt q p
  | 3 => s.loopAt q (field p 8 4) (field p 0xC 2)
  | 4 => s.condAt q p
  | 5 => s.waitAt q p
  | _ => s.signalAt q p

/-- The queue was served: the last one of its priority. -/
def State.served (s : State) (q : Nat) : State := { s with lastQueue := s.lastQueue.set (s.queue q).prio q }

/-- The command processor comes to the packet of a queue, which is one of these OPs. -/
def State.serveQueue (s : State) (q : Nat) (ops : Nat → Bool) : State :=
  let x := s.queue q
  if !x.atPacket || (s.processable q && !s.turnOf q) then s
  else
    match x.failNext with
    | some i => s.setQueue q { x with st := .stopped, code := 0x04, sub := 0, pktidx := i, failNext := none }
    | none =>
      if x.armed then s.stopQueue q 0x07
      else
        match s.packetOf q with
        | .fault => s.stopQueue q 0x04
        | .retry => s.retryLater q
        | .bytes p =>
          if badPacket p x.rsize then s.stopQueue q 0x02
          else if !ops (pkOp p) then s
          else if s.pkWaits q p then s.setQueue q { x with st := if pkBlocks p then .blocked else .idle, waits := !pkBlocks p }
          else ((s.setQueue q { x with st := .idle, waits := false }).performPacket q p).served q

/-- NOP_PACKET. -/
def execNopPacket (q : Nat) (s : State) : Out := .next (s.serveQueue q fun o => o == 0)
/-- LAUNCH. -/
def execLaunch (q : Nat) (s : State) : Out := .next (s.serveQueue q fun o => o == 1)
/-- LAUNCHI. -/
def execLaunchi (q : Nat) (s : State) : Out := .next (s.serveQueue q fun o => o == 2)
/-- LOOP_PACKET. -/
def execLoopPacket (q : Nat) (s : State) : Out := .next (s.serveQueue q fun o => o == 3)
/-- COND_PACKET. -/
def execCondPacket (q : Nat) (s : State) : Out := .next (s.serveQueue q fun o => o == 4)
/-- WAIT_PACKET. -/
def execWaitPacket (q : Nat) (s : State) : Out := .next (s.serveQueue q fun o => o == 5)
/-- SIGNAL_PACKET. -/
def execSignalPacket (q : Nat) (s : State) : Out := .next (s.serveQueue q fun o => o == 6)

/-- The command processor finds that the conditions hold for which a packet has waited: it is processable from now on, and is served where it is its turn. -/
def State.unblock (s : State) (q : Nat) (ops : Nat → Bool) : State :=
  let x := s.queue q
  if (x.st ≠ .blocked ∧ !x.waits) ∨ !x.enable then s
  else
    match s.packetOf q with
    | .bytes p => if !ops (pkOp p) || s.pkWaits q p then s else (s.setQueue q { x with st := .idle, waits := false }).serveQueue q fun _ => true
    | _ => s

/-- QUEUE_UNBLOCK. -/
def execQueueUnblock (q : Nat) (s : State) : Out := .next (s.unblock q fun _ => true)
/-- WAIT_REREAD. -/
def execWaitReread (q : Nat) (s : State) : Out := .next (s.unblock q fun o => o == 5)

/-- QUEUE_STARVATION: a packet that has been processable for 1 ms (R253). -/
def execQueueStarvation (q : Nat) (s : State) : Out :=
  if s.processable q && decide ((s.queue q).readySince.getD s.ptime + 1000000 ≤ s.ptime) then .next (s.setQueue q { s.queue q with starved := true }) else .next s

/-- CP_READ_RETRY: the packet is read and processed again. -/
def execCpReadRetry (q : Nat) (s : State) : Out :=
  let x := s.queue q
  if x.retry && x.st == .idle && x.enable && decide (x.since + 10000 ≤ s.ptime) then
    .next ((s.setQueue q { x with retry := false }).serveQueue q fun _ => true)
  else .next s

end Sys2Proof.Machine
end

