-- ==== Sys2Proof/Machine/Rotate.lean ====
section
/-! DEFINITION. Publications, rotation, self-tests, retirement, dead routers, health, ageing, dies lost, clocks (R273, R276 to R290, R310, R326 to R329). -/

namespace Sys2Proof.Machine

/-! Copies of physical stretches (R278, R280). -/

/-- Copy n bytes from one stretch to another, uncorrectable words with them; keeps the canonical form. -/
def Memory.copyRange (m : Memory) (src dst n : Nat) : Memory :=
  let inside : Nat → Nat → Bool := fun b a => decide (b ≤ a) && decide (a < b + n)
  let moved := m.cells.filter fun e => inside src e.1
  let rest := m.cells.filter fun e => !inside dst e.1
  { m with
    cells := moved.foldl (fun cs e => cellSet cs (e.1 - src + dst) e.2) rest
    bad := (m.bad.filter fun a => !inside dst a) ++ (m.bad.filter (inside src)).map fun a => a - src + dst }

/-- The flat address of a segment of a cluster (R278). -/
def segBase (pcn g : Nat) : Nat :=
  if g < 256 then clusterBase pcn + g * 4096 else coreBase pcn ((g - 256) / 12) + (g - 256) % 12 * 4096

/-- The segments of a cluster: its scratchpad, and the data areas of its live cores. -/
def State.segments (s : State) (pcn : Nat) : List Nat :=
  List.range 256 ++ (List.range 96).filterMap fun i => if s.live pcn (i / 12) then some (256 + i) else none

def State.copySegment (s : State) (d t g : Nat) : State := { s with mem := s.mem.copyRange (segBase d g) (segBase t g) 4096 }

/-- The tile context slots of a core position. -/
def State.copySlots (s : State) (d t p : Nat) : State := { s with mem := s.mem.copyRange (coreBase d p + 0xC000) (coreBase t p + 0xC000) 0x4000 }

/-! The clusters of a chiplet. -/

def State.inState (s : State) (c : Nat) (r : RotState) : List Nat := (List.range 64).filter fun k => (s.cluster (c * 64 + k)).rot == r
def State.setRot (s : State) (pcn : Nat) (r : RotState) : State := s.setCluster pcn { s.cluster pcn with rot := r }

/-- A cluster leaves service for its test of 75 ms. -/
def State.toTest (s : State) (pcn : Nat) : State := s.setCluster pcn { s.cluster pcn with rot := .test, testEnd := s.ptime + 75000000 }

/-- The clusters that are out of service. -/
def State.outCount (s : State) (c : Nat) : Nat := ((s.inState c .test) ++ s.inState c .shadow).length

/-- The next cluster in ascending k, cyclically, that is IN and neither moored nor halted (R276). -/
def State.nextDue (s : State) (c prev : Nat) : Option Nat :=
  ((List.range 64).map fun i => (prev + 1 + i) % 64).find? fun k =>
    let x := s.cluster (c * 64 + k)
    x.rot == .inService && !x.moored && !x.halted

/-- A cluster becomes due, where none is. DESIGN CHOICE (log 162): a step that takes another cluster than the due one, which is to be retired or evacuated, leaves the due one as it is, so the cyclic order goes on from it. -/
def State.chooseDue (s : State) (c : Nat) : State :=
  let prev := (s.chip c).due
  if (s.cluster (c * 64 + prev)).rot = .due then s
  else
    match s.nextDue c prev with
    | some k => (s.setRot (c * 64 + k) .due).setChip c { s.chip c with due := k, clean := [] }
    | none => s

/-- The cluster that leaves in the step under way. -/
def State.stepping (s : State) (c : Nat) : Option Nat :=
  ((s.inState c .draining ++ s.inState c .copying).map fun k => c * 64 + k).head?

/-- The messages that a shadow holds for these virtual clusters are on their way again, in their order, under the current stamps (R280). -/
def State.release (s : State) (vs : List Nat) : State :=
  { s with flight := s.flight.map fun a =>
      if a.stage = .forwarded ∧ a.gens.any (fun p => vs.contains p.1) then
        { a with stage := .issued, fwd := true, gens := a.gens.map fun p => if vs.contains p.1 then (p.1, (s.mapNow p.1).gen) else p }
      else a }

/-- The step under way is given up: its cluster is in service again, and takes the messages that it had sent to the shadow. -/
def State.cancelStep (s : State) (c : Nat) : State :=
  let s1 := match s.stepping c with
    | some d => (s.setRot d .inService).release (s.hosted d)
    | none => s
  s1.setChip c { s1.chip c with phase := 0, clean := [] }

/-- The steps that were to end on a cluster are given up (R283). -/
def State.cancelTo (s : State) (pcn : Nat) : State :=
  (s.chips.filter fun e => (e.2.phase == 1 || e.2.phase == 2) && e.2.dest == pcn).foldl (fun s e => s.cancelStep e.1) s

/-! Clusters elsewhere (R289). -/

/-- A free cluster of the panel, not on one chiplet. -/
def State.freeElsewhere (s : State) (c : Nat) : Option Nat := (List.range (48 * 64)).find? fun p => chipOf p != c && s.freeCluster p

/-- The resident context of lowest priority, the lowest ASID of equals. -/
def State.lowestResident (s : State) : Option Nat :=
  let cs := s.ctxs.filter fun e => e.2.resident
  let pr : Nat → Nat := fun a => match s.ctxPrio a with | some p => p + 1 | none => 0
  match cs with
  | [] => none
  | (a, _) :: t => some (t.foldl (fun b e => if pr e.1 < pr b then e.1 else b) a)

/-- No cluster is free: the lowest resident context makes room. -/
def State.makeRoom (s : State) : State := s.lowestResident.elim s s.preempt

/-! The step instant and the drain (R279). -/

/-- An evacuation that a step of its chiplet can make (R289). -/
def State.evacuation (s : State) (c : Nat) : Option Nat :=
  s.pubReqs.findSome? fun r => match r with
    | .evacuate v =>
      let e := s.mapNow v
      let x := s.cluster e.pcn
      if e.valid && !e.nonres && chipOf e.pcn == c && (x.rot == .inService || x.rot == .due) && !x.halted then some v else none
    | _ => none

/-- Evacuations of a chiplet that has four clusters out, and stays in service, are not needed any more. -/
def State.dropEvacuations (s : State) (c : Nat) : State :=
  if s.outCount c < 4 ∨ (s.chip c).retiredWhole then s
  else { s with pubReqs := s.pubReqs.filter fun r => match r with | .evacuate v => chipOf (s.host v) != c | _ => true }

/-- What the chiplet's next step moves: the cluster that is to be retired and hosts a context, moored or not (log 122), or else the due one, halted since or not (R284), or the one whose step was deferred. A cluster behind a dead router takes no step (R283). -/
def State.stepFrom (s : State) (c : Nat) : Option Nat :=
  let sick := ((List.range 64).map fun k => c * 64 + k).find? fun p =>
    let x := s.cluster p
    x.condemned && !x.halted && x.router && (x.rot == .inService || x.rot == .due) && !(s.hosted p).isEmpty
  let d := c * 64 + (s.chip c).due
  let x := s.cluster d
  sick.or (if x.router && (x.rot == .due || (x.rot == .inService && !x.moored && !x.halted)) then some d else none)

/-- The shadow, where its router answers. -/
def State.readyShadow (s : State) (c : Nat) : Option Nat := ((s.inState c .shadow).map fun k => c * 64 + k).find? fun p => (s.cluster p).router

/-- Pieces of L1 instructions that wait in the vector queues of a cluster are READY again: its task scheduler starts none. -/
def State.requeue (s : State) (d : Nat) : State :=
  let ps := (List.range 8).flatMap fun p => (s.coreAt (d * 8 + p)).vq.filterMap fun e => e.tile
  let s1 := s.unqueue ps.contains
  ps.foldl (fun s t => s.modLeaf t.1 t.2 fun l => { l with st := .ready, fail := none }) s1

/-- A step begins: d drains, t takes over; another cluster that is due stays due, and what has been patched for it is not d's. -/
def State.beginStep (s : State) (c d t : Nat) : State :=
  let x := s.chip c
  ((s.requeue d).setRot d .draining).setChip c { x with clean := if c * 64 + x.due = d then x.clean else [], phase := 1, stepAt := s.ptime, dest := t }

/-- ROTATION_STEP_INSTANT. After a boot that stopped, the dies are held in reset and take no step (R313). -/
def execRotationStepInstant (chip : Nat) (s : State) : Out :=
  let ch := s.chip chip
  if 48 ≤ chip ∨ s.chipAbsent chip ∨ s.trust.bootFail.isSome ∨ ch.phase ≠ 0 ∨ s.ptime % 25000000 ≠ chip * 500000 then .next s
  else
    let s1 := s.dropEvacuations chip
    let ev := s1.evacuation chip
    match ev, s1.freeElsewhere chip with
    | some v, some t => .next (s1.beginStep chip (s1.host v) t)
    | _, _ =>
      let s2 := if ev.isSome then s1.makeRoom else s1
      if ch.retiredWhole then .next s2
      else
        match s2.stepFrom chip, s2.readyShadow chip with
        | some d, some t => .next (s2.beginStep chip d t)
        | none, _ => .next (s2.chooseDue chip)
        | some _, none => .next s2

/-- A flat address lies in a cluster's own stores. -/
def inCluster (pcn a : Nat) : Bool :=
  (decide (clusterBase pcn ≤ a) && decide (a < clusterBase pcn + 2 ^ 20)) || (decide (coreBase pcn 0 ≤ a) && decide (a < coreBase pcn 8))

/-- A running strand stands at a boundary, or in a blocking instruction that it can leave. -/
def State.canLeave (s : State) (c : Core) : Bool :=
  let watching : Nat → Bool := fun id => match s.access? id with | some a => a.stage == .watching | none => false
  let (gateOk, held) := match c.gate with
    | .none => (true, 0)
    | .access id => (watching id, 1)
    | _ => (false, 0)
  let n := c.str.counts
  gateOk && c.stop.isNone && n.loads == held && n.stores == 0 && n.copies == 0 && n.cl == 0 && n.ch == 0 && n.pn == 0

/-- The engine operations that a cluster's cores have under way. -/
def State.enginesAt (s : State) (pcn : Nat) : Bool := s.engines.any fun e => e.core / 8 == pcn

/-- No claim stands at a bank of the cluster (R171). -/
def bankIn (pcn b : Nat) : Bool :=
  (decide (2 ^ 41 + pcn * 64 ≤ b) && decide (b < 2 ^ 41 + pcn * 64 + 64)) || (decide (2 ^ 40 + pcn * 8 * 512 ≤ b) && decide (b < 2 ^ 40 + (pcn * 8 + 8) * 512))

/-- Every drain condition holds. -/
def State.drainedAt (s : State) (d : Nat) : Bool :=
  let c := s.cluster d
  (List.range 8).all (fun p => let k := s.coreAt (d * 8 + p); k.run.isNone || s.canLeave k) &&
    (List.range 8).all (fun p => (s.coreAt (d * 8 + p)).vq.all fun e => e.tile.isSome) &&
    !s.enginesAt d && s.claims.all (fun x => !bankIn d x.bank) && !s.matrixBusy d && c.groups.isEmpty &&
    s.tiles.all fun r => r.leaves.all fun l => l.st != .staging || !(s.hosted d).contains l.vcn

/-- A strand leaves a blocking instruction: it will be executed again with RETRY, and its place at an event unit stays. -/
def Core.leaveBlocking (c : Core) : Core :=
  let blocked := c.retry || (match c.wait with | .block _ => true | _ => false) || c.gate != .none
  { c with
    retry := blocked, wait := .none, susp := .none, line := none
    gate := .none
    str := { c.str with counts := { c.str.counts with loads := 0 } } }

def State.leaveCore (s : State) (core : Nat) : State :=
  let c := s.coreAt core
  if c.run.isNone then s
  else
    match c.gate with
    | .access id =>
      let watched := s.watches.any fun w => w.access == id && inCluster (core / 8) w.addr
      let s1 : State := { s with flight := s.flight.filter fun a => a.id != id, watches := s.watches.filter fun w => w.access != id }
      let y := c.leaveBlocking
      s1.setCoreAt core { y with str := { y.str with passLatch := y.str.passLatch || watched } }
    | _ => s.setCoreAt core c.leaveBlocking

/-- The watches in a cluster's banks are dropped, with each watcher's pass latch set (R213). -/
def State.dropWatchesAt (s : State) (d : Nat) : State :=
  let hit := s.watches.filter fun w => inCluster d w.addr
  hit.foldl (fun s w => s.passWake w.sid) { s with watches := s.watches.filter fun w => !inCluster d w.addr }

/-- Requests that wait in a cluster's fault queues, or at its claims, go to the shadow first, in queue order (R279). -/
def State.forwardParked (s : State) (d : Nat) : State :=
  let vs := s.hosted d
  let mine : Access → Bool := fun a => (a.stage == .parked || a.stage == .held) && a.gens.any fun p => vs.contains p.1
  { s with flight := s.flight.map fun a => if mine a then { a with stage := .forwarded } else a }

/-- DRAIN_POINT, at most 200 µs after the step instant (R282). -/
def execDrainPoint (chip : Nat) (s : State) : Out :=
  match s.stepping chip with
  | none => .next s
  | some d =>
    let ch := s.chip chip
    if ch.phase ≠ 1 ∨ ch.stepAt + 200000 < s.ptime ∨ !(s.cluster d).router ∨ !s.drainedAt d then .next s
    else
      let s1 := (List.range 8).foldl (fun s p => s.leaveCore (d * 8 + p)) s
      let s2 := ((s1.dropWatchesAt d).setRot d .copying).forwardParked d
      .next (s2.setChip chip { s2.chip chip with phase := 2, stepAt := s.ptime })

/-- DRAIN_DEADLINE: the step is deferred. -/
def execDrainDeadline (chip : Nat) (s : State) : Out :=
  match s.stepping chip with
  | none => .next s
  | some d =>
    let ch := s.chip chip
    if ch.phase ≠ 1 ∨ s.ptime < ch.stepAt + 200000 then .next s
    else .next ((s.setRot d .inService).setChip chip { ch with phase := 0, defer := min 255 (ch.defer + 1) })

/-! The final copy and the publication (R280). -/

/-- What runs on the cores of D goes to those of S; a strand whose position is not live there becomes READY with its image. -/
def State.moveCore (s : State) (d t p : Nat) : State :=
  let c := s.coreAt (d * 8 + p)
  let s1 := (s.setCoreAt (t * 8 + p) c).setCoreAt (d * 8 + p) {}
  if c.run.isSome && !s.live t p then
    s1.onCore (t * 8 + p) fun u =>
      let img : StopImage := { words := u.recordImage u.cur.pc u.cur.retry, high := u.highRegs, bypass := u.cur.bypass, time := u.timeHere, core := p, tiles := u.counts.tiles }
      u.park fun x => { x with st := .ready, stop := some img, suspendedAt := s.ptime }
  else s1

/-- The pieces at L1 that wait at a position without a live core go to the lowest live one, which takes the strand as well (log 166). -/
def State.gatherPieces (s : State) (t : Nat) : State :=
  match (List.range 8).filter (s.live t) with
  | [] => s
  | low :: _ =>
    let dead := (List.range 8).filter fun p => !s.live t p
    let vs := dead.flatMap fun p => (s.coreAt (t * 8 + p)).vq
    let s1 := dead.foldl (fun s p => s.setCoreAt (t * 8 + p) { s.coreAt (t * 8 + p) with vq := [] }) s
    s1.setCoreAt (t * 8 + low) { s1.coreAt (t * 8 + low) with vq := (s1.coreAt (t * 8 + low)).vq ++ vs }

/-- The control state of a cluster that goes with its virtual cluster, the halt of its context among it (R264, R284). -/
def State.moveControl (s : State) (d t : Nat) : State :=
  let x := s.cluster d
  let s1 := s.setCluster t { s.cluster t with taskPass := x.taskPass, ready := x.ready, risen := x.risen, mpass := x.mpass, mready := x.mready, mrisen := x.mrisen, halted := x.halted, haltedFor := x.haltedFor }
  { s1.setCluster d { s1.cluster d with taskPass := 0, ready := [], risen := [], mpass := [], mready := [], mrisen := [], matrix := none, halted := false, haltedFor := 0, moored := false } with
    icache := s1.icache.filter fun e => e.1 != d }

/-- STEP records for the sessions of a context (R324). -/
def State.traceStep (s : State) (v d t : Nat) : State :=
  match s.ctxOfVcn v with
  | some (asid, _) => (s.queuesOf asid).foldl (fun s q => s.traceTo q (chipOf t) (traceRecord 0x06 v 0 (s.dieTime (chipOf t)) d t)) s
  | none => s

/-- The segments that the final copy takes: those not patched since; all of them where another cluster than the due one's shadow takes over. -/
def State.toCopy (s : State) (c d t : Nat) : List Nat :=
  let clean := if chipOf t = c then (s.chip c).clean else []
  (s.segments d).filter fun g => !clean.contains g

/-- Nanoseconds of the final copy: 1 µs and the bytes at 64 GB/s (R280, R282). -/
def State.copyNs (s : State) (c d t : Nat) : Nat :=
  1000 + ((s.toCopy c d t).length * 4096 + ((List.range 8).filter (s.live d)).length * 0x4000 + 63) / 64

/-- The cluster that takes over is still what the step took it for. -/
def State.destOk (s : State) (c t : Nat) : Bool :=
  let x := s.cluster t
  x.router && !x.dead && (if chipOf t = c then x.rot == .shadow else x.rot == .inService)

/-- The step publishes: what D holds goes to S, and D leaves service. A cluster that is to be retired is retired from its test, and a moored one, which never enters TEST, at this publication (R284, log 122). -/
def State.publishStep (s : State) (chip d : Nat) : State :=
  let ch := s.chip chip
  let t := ch.dest
  let vs := s.hosted d
  let s1 := (s.toCopy chip d t).foldl (fun s g => s.copySegment d t g) s
  let s2 := (List.range 8).foldl (fun s p => s.copySlots d t p) s1
  let gone := ch.retiredWhole || ((s.cluster d).condemned && (s.cluster d).moored)
  let s3 := if gone then (s2.setRot t .inService).setRot d .retired else (s2.setRot t .inService).toTest d
  let s4 := s3.publish (vs.map fun v => (v, { s3.mapNow v with pcn := t, grace := true, prevPcn := d, prevGen := (s3.mapNow v).gen }))
  let s5 := ((List.range 8).foldl (fun s p => s.moveCore d t p) (s4.moveControl d t)).gatherPieces t
  let s6 := if s.focus / 8 = d then s5.focusOn (t * 8 + s.focus % 8) else s5
  let s7 := vs.foldl (fun s v => match s.ctxOfVcn v with
    | some (asid, _) => ((s.takeCluster asid v t).placeStrands asid v t).traceStep v d t
    | none => s) s6
  let s8 := (s7.release vs).setChip chip { s7.chip chip with phase := 3, stepAt := s.ptime, steps := ch.steps + 1, graceVcn := vs.head?, gracePcn := d, clean := [] }
  let retire := if (s.cluster d).condemned && !ch.retiredWhole then [PubReq.retire d (some s.ptime)] else []
  ({ s8 with pubReqs := (s8.pubReqs.filter fun r => match r with | .evacuate v => !vs.contains v | _ => true) ++ retire } : State).chooseDue chip

/-- FINAL_COPY_DONE. Every step publishes, that of a cluster that hosts nothing too (log 156): LIVECORES changes with it (R25). -/
def execFinalCopyDone (chip : Nat) (s : State) : Out :=
  match s.stepping chip with
  | none => .next s
  | some d =>
    let ch := s.chip chip
    if ch.phase ≠ 2 then .next s
    else if !s.destOk chip ch.dest ∨ !(s.cluster d).router then .next (s.cancelStep chip)
    else if s.ptime < ch.stepAt + s.copyNs chip d ch.dest then .next s
    else .next (s.publishStep chip d)

/-- GRACE_WINDOW_CLOSE: 50 µs after the publication. -/
def execGraceWindowClose (chip : Nat) (s : State) : Out :=
  let ch := s.chip chip
  if ch.phase ≠ 3 ∨ s.ptime < ch.stepAt + 50000 then .next s
  else
    let s1 : State := { s with map := s.map.map fun e => (e.1, if e.2.grace && e.2.prevPcn == ch.gracePcn then { e.2 with grace := false } else e.2) }
    .next (s1.setChip chip { ch with phase := 0, graceVcn := none })

/-- PATCH: the dirty bit is cleared, then the segment is copied (R278). Patching ends at the step instant (R282). -/
def execPatch (chip seg : Nat) (s : State) : Out :=
  let ch := s.chip chip
  let d := chip * 64 + ch.due
  match s.inState chip .shadow with
  | k :: _ =>
    if (s.cluster d).rot = .due ∧ ch.phase ≠ 1 ∧ ch.phase ≠ 2 ∧ (s.segments d).contains seg ∧ !ch.clean.contains seg then
      .next ((s.setChip chip { ch with clean := seg :: ch.clean }).copySegment d (chip * 64 + k) seg)
    else .next s
  | [] => .next s

/-! Retirement (R283, R289). -/

/-- The virtual clusters that a chiplet hosts. -/
def State.chipVcns (s : State) (c : Nat) : List Nat := (s.map.filter fun e => e.2.valid && !e.2.nonres && chipOf e.2.pcn == c).map fun e => e.1

/-- A virtual cluster is to move to a free cluster of another chiplet; where none is free, the lowest resident context makes room. -/
def State.moveOff (s : State) (c v : Nat) : State :=
  let s1 : State := { s with pubReqs := s.pubReqs ++ [.evacuate v] }
  if (s1.freeElsewhere c).isSome then s1 else s1.makeRoom

/-- The free cluster of a chiplet with the highest number. -/
def State.spare (s : State) (c : Nat) : Option Nat := ((s.inState c .inService).reverse.map fun k => c * 64 + k).find? s.freeCluster

/-- Four clusters stay out: one in service that is free leaves it, or a virtual cluster is moved off. -/
def State.keepFourOut (s : State) (c : Nat) : State :=
  if 4 ≤ s.outCount c ∨ (s.chip c).retiredWhole then s
  else
    match s.spare c with
    | some p => s.toTest p
    | none =>
      let s1 : State := { s with pubReqs := s.pubReqs ++ [.fill c] }
      match (s.chipVcns c).filter fun v => !(s.mapNow v).moored with
      | v :: _ => s1.moveOff c v
      | [] => s1

/-- A chiplet with fewer than 16 clusters that are neither RETIRED nor moored is retired whole. -/
def State.retireChip (s : State) (c : Nat) : State :=
  let left := (List.range 64).filter fun k => let x := s.cluster (c * 64 + k); x.rot != .retired && !x.moored
  if 16 ≤ left.length ∨ (s.chip c).retiredWhole then s
  else
    let s0 := s.cancelStep c
    let s1 := s0.setChip c { s0.chip c with retiredWhole := true }
    let s2 := ((List.range 64).map fun k => c * 64 + k).foldl (fun s p => if (s.hosted p).isEmpty then s.setRot p .retired else s) s1
    (s2.chipVcns c).foldl (fun s v => s.moveOff c v) s2

/-- A cluster is RETIRED, with a publication that changes no entry. A step that it is part of is given up. -/
def State.retireCluster (s : State) (pcn : Nat) : State :=
  let c := chipOf pcn
  let x := s.cluster pcn
  let s0 := s.cancelTo pcn
  let s1 := (s0.setCluster pcn { x with rot := .retired, condemned := false }).publish []
  let s2 := match x.rot with
    | .due => s1.chooseDue c
    | .draining | .copying => (s1.cancelStep c).chooseDue c
    | _ => s1
  (s2.keepFourOut c).retireChip c

/-- Error records of a suspect cluster. -/
def State.suspect (s : State) (pcn failed : Nat) : State :=
  let x := s.cluster pcn
  (if x.hosts.isEmpty then [0] else x.hosts).foldl (fun s a => s.errRecord 0x0004 a pcn 0 x.lastPass 0 failed) s

/-- The retirement of a cluster is decided, and still to be published. -/
def State.retiring (s : State) (pcn : Nat) : Bool := s.pubReqs.any fun r => match r with | .retire p _ => p == pcn | _ => false

/-- The cluster of a chiplet that has been in TEST longest, the lowest of equals; one that has failed is none. -/
def State.longestOut (s : State) (c : Nat) : Option Nat :=
  match ((s.inState c .test).map fun k => c * 64 + k).filter fun p => !s.retiring p with
  | [] => none
  | p :: t => some (t.foldl (fun b q => if (s.cluster q).testEnd < (s.cluster b).testEnd then q else b) p)

/-- SELF_TEST_DONE: after 75 ms of test (R276, R289). The cluster that has been out longest becomes the shadow when its chiplet has none; DESIGN CHOICE (log 156): no other cluster leaves TEST by passing. -/
def execSelfTestDone (pcn : Nat) (result : TestResult) (s : State) : Out :=
  let x := s.cluster pcn
  let c := chipOf pcn
  if 48 * 64 ≤ pcn ∨ s.trust.bootFail.isSome ∨ x.rot ≠ .test ∨ s.ptime < x.testEnd ∨ s.retiring pcn then .next s
  else if result = .failed ∨ x.condemned then .next { s with pubReqs := s.pubReqs ++ [.retire pcn (some s.ptime)] }
  else if (s.inState c .shadow).isEmpty ∧ s.longestOut c = some pcn then
    .next ((s.setCluster pcn { x with rot := .shadow, lastPass := s.ptime, hosts := [], margin := if result = .reduced then min 255 (x.margin + 1) else x.margin }).setChip c { s.chip c with clean := [] })
  else .next s

/-- What the firmware can publish now: a mooring waits while its cluster is due or in a step (R284); a chiplet that wants another cluster out waits until one is free. -/
def State.publishable (s : State) : PubReq → Bool
  | .moor v _ => let r := (s.cluster (s.host v)).rot; (s.mapNow v).valid && !(s.mapNow v).nonres && r != .due && r != .draining && r != .copying
  | .retire p _ => (s.hosted p).isEmpty
  | .fill c => decide (4 ≤ s.outCount c) || (s.chip c).retiredWhole || (s.spare c).isSome
  | .evacuate _ => false

/-- MAP_PUBLICATION: the firmware's oldest request that can be published (R273). -/
def execMapPublication (s : State) : Out :=
  match (if s.cpRuns then s.pubReqs.find? s.publishable else none) with
  | none => .next s
  | some r =>
    let s1 : State := { s with pubReqs := s.pubReqs.erase r }
    match r with
    | .moor v on =>
      let p := s.host v
      let k := s.cluster p
      .next (((s1.setCluster p { k with moored := on || k.halted }).publish [(v, { s.mapNow v with moored := on || k.halted })]).retireChip (chipOf p))
    | .retire pcn failed =>
      let s2 := s1.retireCluster pcn
      (match failed with
       | some t => .next (s2.suspect pcn t)
       | none => .next s2)
    | .fill c =>
      (match (if 4 ≤ s.outCount c ∨ (s.chip c).retiredWhole then none else s.spare c) with
       | some p => .next ((s1.toTest p).publish [])
       | none => .next s1)
    | .evacuate _ => .next s

/-- PUBLICATION_ARRIVAL: the oldest publication that has not reached a router reaches it. -/
def execPublicationArrival (router : Nat) (s : State) : Out :=
  match s.pubs.find? (s.unseen router) with
  | none => .next s
  | some p => .next { s with pubs := s.pubs.map fun q => if q.seq = p.seq then { q with reached := router :: q.reached } else q }

/-- CLUSTER_REINSTATEMENT: RETIRED to TEST, recorded by a publication (R273, R276). DESIGN CHOICE (log 156): where four clusters are out already, the shadow, which has been out longest, returns to service at the same publication, so that four stay out (R16); the reinstatement waits until there is a shadow and its chiplet takes no step. -/
def execClusterReinstatement (pcn : Nat) (s : State) : Out :=
  let x := s.cluster pcn
  let c := chipOf pcn
  if 48 * 64 ≤ pcn ∨ !s.cpRuns ∨ x.rot ≠ .retired ∨ !s.present pcn ∨ s.chipAbsent c ∨ (s.chip c).retiredWhole ∨ !x.router then .next s
  else
    let back := (s.setCluster pcn { x with condemned := false }).toTest pcn
    if s.outCount c < 4 then .next (back.publish [])
    else
      match s.inState c .shadow with
      | k :: _ => if (s.chip c).phase = 1 ∨ (s.chip c).phase = 2 then .next s else .next (((back.setRot (c * 64 + k) .inService).setChip c { s.chip c with clean := [] }).publish [])
      | [] => .next s

/-- ROUTER_DEAD (R283): a step that takes its cluster out is cancelled. -/
def execRouterDead (pcn : Nat) (s : State) : Out :=
  if 48 * 64 ≤ pcn then .next s
  else
    let s1 := s.setCluster pcn { s.cluster pcn with router := false }
    .next (if s.stepping (chipOf pcn) = some pcn then s1.cancelStep (chipOf pcn) else s1)

/-- Every context with a virtual cluster on these physical clusters is lost. -/
def State.loseHosted (s : State) (on : Nat → Bool) (f : State → Nat → Nat → State) : State :=
  let hit := s.ctxs.filterMap fun e => (e.2.vcns.find? fun v => (s.mapNow v).valid && !(s.mapNow v).nonres && on (s.mapNow v).pcn).map fun v => (e.1, v)
  hit.foldl (fun s e => f s e.1 e.2) s

/-- DEAD_ROUTER_RETIREMENT. -/
def execDeadRouterRetirement (pcn : Nat) (s : State) : Out :=
  let x := s.cluster pcn
  if x.router ∨ x.rot = .retired then .next s
  else .next ((s.loseHosted (fun p => p == pcn) fun s a v => s.loseContext a 0x0003 v 0 0 pcn).retireCluster pcn)

/-! Health and ageing (R286, R287). -/

def Cluster.risk (c : Cluster) : Nat := min 255 (c.corr / 1024 + 16 * c.resid + 64 * c.margin)

/-- The clusters whose risk the monitor forms: in service or SHADOW. -/
def State.watched (s : State) (pcn : Nat) : Bool := inService (s.cluster pcn).rot || (s.cluster pcn).rot == .shadow

/-- The highest risk, and the lowest cluster that has it. -/
def State.worstRisk (s : State) : Nat × Nat :=
  let top := (s.clusters.filter fun e => s.watched e.1).foldl (fun b e => max b e.2.risk) 0
  (top, ((List.range (48 * 64)).find? fun p => s.watched p && (s.cluster p).risk == top).getD 0)

/-- A cluster that is to be retired as if it had failed its self-test (R287): from service at once where it hosts nothing, and otherwise from the test that its chiplet's next step takes it to. -/
def State.condemn (s : State) (pcn : Nat) : State :=
  if (s.hosted pcn).isEmpty ∧ (s.cluster pcn).rot ≠ .draining ∧ (s.cluster pcn).rot ≠ .copying then
    (if s.retiring pcn then s else { s with pubReqs := s.pubReqs ++ [.retire pcn (some s.ptime)] })
  else s.setCluster pcn { s.cluster pcn with condemned := true }

/-- HEALTH_SWEEP, once in 1.6 s. -/
def execHealthSweep (s : State) : Out :=
  let h := s.hostIf
  if !s.cpRuns ∨ s.ptime < h.sweepAt + 1600000000 then .next s
  else
    let w := s.worstRisk
    let bad := (s.clusters.filter fun e => s.watched e.1 && (e.2.risk == 255 || decide (4 ≤ e.2.resid) || e.2.condemned)).map fun e => e.1
    let rises := decide (h.riskIrq < w.1) && decide (h.risk ≤ h.riskIrq)
    let s1 : State := { s with
      hostIf := { h with risk := w.1, worst := w.2, sweepAt := s.ptime, secureIv := max 60 (3600 / 2 ^ (w.1 / 32)), events := if rises then h.events ++ [w.1] else h.events }
      clusters := s.clusters.map fun e => (e.1, { e.2 with resid := 0 }) }
    let s2 := if rises then s1.msix 1 else s1
    .next (bad.foldl State.condemn s2)

/-- The ageing counters as the trust die's store keeps them. -/
def State.saveAgeing (s : State) : State :=
  { s with hostIf := { s.hostIf with ageStore := s.clusters.map fun e => (e.1, BitVec.ofNat 64 e.2.ageing) } }

/-- AGEING_SAVE: hourly; clusters in service have served an hour more. -/
def execAgeingSave (s : State) : Out :=
  if !s.cpRuns ∨ s.ptime < s.hostIf.agedAt + 3600000000000 then .next s else
  let cs := (List.range (48 * 64)).map fun p => let x := s.cluster p; (p, if inService x.rot then { x with hours := (x.hours + 1) % 2 ^ 32 } else x)
  .next ({ s with clusters := cs, hostIf := { s.hostIf with agedAt := s.ptime } }.saveAgeing)

/-- ORDERLY_SHUTDOWN. -/
def execOrderlyShutdown (s : State) : Out := if s.cpRuns then .next s.saveAgeing else .next s

/-! Junctions and lost dies (R328, R329). -/

/-- JUNCTION_THROTTLE. -/
def execJunctionThrottle (chip : Nat) (s : State) : Out :=
  if chip < 48 then .next (s.setChip chip { s.chip chip with throttled := true }) else .next s

/-- JUNCTION_RECOVER: a chiplet, or the trust die, has fallen below 95 °C. -/
def execJunctionRecover (chip : Nat) (s : State) : Out :=
  if chip < 48 then .next (s.setChip chip { s.chip chip with throttled := false })
  else if chip = 0x202 then .next { s with trust := { s.trust with cooled := true } }
  else .next s

/-- The clusters of a die stop, and are RETIRED at a publication; a step that was to end on one of them is given up. -/
def State.stopChip (s : State) (c : Nat) : State :=
  let s0 := ((List.range 64).map fun k => c * 64 + k).foldl State.cancelTo s
  let s1 := s0.setChip c { s0.chip c with lost := true, phase := 0, throttled := false }
  (((List.range 64).map fun k => c * 64 + k).foldl (fun s p => s.setCluster p { s.cluster p with rot := .retired, dead := true, router := false }) s1).publish []

/-- Records for the affected contexts, or one with ASID 0, where the command processor still runs. -/
def State.dieRecords (s : State) (asids : List Nat) (die temp : Nat) : State :=
  if !s.cpRuns then s
  else (if asids.isEmpty then [0] else asids).foldl (fun s a => s.errRecord 0x0006 a die 0 temp 0 s.ptime) s

/-- A context goes without a record: the command processor has stopped. -/
def State.dropContexts (s : State) : State :=
  (s.ctxs.map fun e => e.1).foldl (fun s a => (((s.discardContext a).killQueues a).freeClusters a).modCtx a fun c => { c with resident := false, evicting := false, saving := false, stopReq := false, stopped := false }) s

def State.portsDown (s : State) (first : Nat) : State := (List.range 8).foldl (fun s i => s.portDown (first + i) 0) s

/-- The north link die stops. -/
def State.northLost (s : State) : State :=
  let s1 := (s.dropContexts).portsDown 0
  { s1 with hostIf := { s1.hostIf with up := false, width := 0 } }

/-- The hot trust die holds every other die in reset. -/
def State.holdAll (s : State) : State :=
  { s with
    lostDies := List.range 48 ++ (List.range 24).map (fun h => 0x100 + h) ++ [0x200, 0x201]
    trust := { s.trust with hot := true, cooled := false }, chips := (List.range 48).map fun c => (c, { s.chip c with lost := true }) }

/-- DIE_OVERTEMP: temp in units of 0.25 °C. -/
def execDieOvertemp (die temp : Nat) (s : State) : Out :=
  if temp ≤ 440 ∨ s.lostDies.contains die then .next s
  else
    let s0 : State := { s with lostDies := s.lostDies ++ [die] }
    if die < 48 then
      let hit := s.ctxs.any fun e => e.2.vcns.any fun v => (s.mapNow v).valid && !(s.mapNow v).nonres && chipOf (s.mapNow v).pcn == die
      let s1 := s0.loseHosted (fun p => chipOf p == die) fun s a _ => s.loseContext a 0x0006 die 0 temp 0
      .next ((if hit then s1 else s1.dieRecords [] die temp).stopChip die)
    else if 0x100 ≤ die ∧ die < 0x118 then
      .next (s0.dieRecords ((s.ctxs.filter fun e => e.2.ptroot / 2 ^ 36 == die - 0x100).map fun e => e.1) die temp)
    else if die = 0x200 then .next s0.northLost
    else if die = 0x201 then .next ((s0.portsDown 8).dieRecords [] die temp)
    else if die = 0x202 then
      .next ((s.northLost).portsDown 8).holdAll
    else .next s

/-! Time and counters (R310, R311, R326). -/

/-- BEACON_EXCHANGE: a die's offset is measured, and its 100 beacons count anew (R310, R311, logs 124, 139). -/
def execBeaconExchange (die : Nat) (offset : Int) (s : State) : Out :=
  if !counterDies.contains die ∨ s.lostDies.contains die then .next s
  else
    let h := s.hostIf
    .next { s with hostIf := { h with
      beacons := h.beacons + 1, maxSeen := max h.maxSeen (min 0xFFFF offset.natAbs), beaconAt := h.beaconAt.set die s.ptime } }

end Sys2Proof.Machine
end

