-- ==== Sys2Proof/Machine/Mailbox.lean ====
section
/-! DEFINITION. The management mailbox: migrations, moorings, peers, context stops, reverse stepping, breakpoints, trace sessions, keys, the debug unlock (R180 to R182, R233, R284, R295, R303, R305, R316 to R325, R476). -/

namespace Sys2Proof.Machine

/-! Requests (R295, R318). -/

def Inst.other : Inst → Inst
  | .host => .side
  | .side => .host

def Mailbox.waits (m : Mailbox) : Bool := m.st == 1 && !m.taken

/-- The arguments of the request of an instance, where it is the one that the firmware takes next and names this operation. -/
def State.request (s : State) (i : Inst) (op : Nat) : Option (List Nat) :=
  let m := s.mbox i
  let o := s.mbox (Inst.other i)
  if s.cpRuns && m.waits && m.reqOp == op && !(o.waits && decide (o.order < m.order)) then some (m.req.map BitVec.toNat) else none

/-- A write of MBCMD. -/
def Mailbox.command (m : Mailbox) (v : Word) (order : Nat) : Mailbox :=
  let op := bitsOf v 7 0
  if bitsOf v 8 8 = 1 ∧ m.st ≠ 1 then { m with op := op, st := 1, code := 0, reqOp := op, req := m.args, taken := false, order := order }
  else { m with op := op }

/-- Serve a request: its answer ends it. -/
def State.serveMbox (s : State) (i : Inst) (op : Nat) (f : (Nat → Nat) → State) : Out :=
  match s.request i op with
  | some a => .next (f fun k => a.getD k 0)
  | none => .next s

def State.mboxDone (s : State) (i : Inst) (results : List Word := []) : State := s.finishMbox i 2 0 results
def State.badArg (s : State) (i : Inst) : State := s.finishMbox i 3 0x02
def State.refused (s : State) (i : Inst) : State := s.finishMbox i 3 0x03
def State.takeMbox (s : State) (i : Inst) : State := s.setMbox i { s.mbox i with taken := true }

/-- UNKNOWN_MAILBOX_OP. -/
def execUnknownMailboxOp (i : Inst) (s : State) : Out :=
  let op := (s.mbox i).reqOp
  if (decide (1 ≤ op) && decide (op ≤ 6)) || (decide (0x10 ≤ op) && decide (op ≤ 0x1D)) then .next s
  else s.serveMbox i op fun _ => s.finishMbox i 3 0x01

/-! Migration (R180 to R182). -/

/-- The physical address of the entry of a leaf: level, table address. -/
def State.leafAt (s : State) (va : Nat) : Nat → Nat → Option Nat
  | 0, t => some (t + 8 * (va / 2 ^ 16 % 32))
  | k + 1, t =>
    let a := t + 8 * (if k = 3 then va / 2 ^ 48 % 256 else va / 2 ^ (12 + 9 * (k + 1)) % 512)
    match s.tableWord a with
    | none => none
    | some w => if bitsOf w 1 1 = 1 then some a else s.leafAt va k (bitsOf w 40 8 * 2 ^ 8)

def movable (tt : Nat) : Bool := tt == 0x2 || tt == 0x3 || tt == 0x8

/-- A place of the map is resident. -/
def State.placed? (s : State) (l : Loc) : Bool :=
  match l.vcn? with
  | some v => (s.mapNow v).valid && !(s.mapNow v).nonres
  | none => true

/-- The migration that a request asks for; none where an argument is outside its limit. -/
def State.migrationOf (s : State) (i : Inst) (asid va : Nat) (leaf : Word) : Option Migration :=
  match s.ctx? asid with
  | none => none
  | some c =>
    if 2 ^ 56 ≤ va then none
    else
      match s.walkFrom c va 4 c.ptroot with
      | .error _ => none
      | .ok p =>
        if (p.size = 2 ^ 16 ∨ p.size = 2 ^ 21) ∧ movable (bitsOf p.leaf 11 8) ∧ movable (bitsOf leaf 11 8) ∧ bitsOf leaf 1 0 = 3
            ∧ leafOk c leaf p.size then
          some { mid := s.nextId, asid := asid, va := p.base, size := p.size, old := placeOf p p.base 0 0
                 new := placeOf { p with leaf := leaf } p.base 0 0, leaf := leaf, inst := i }
        else none

/-- A claim is held on the page. -/
def State.pageClaimed (s : State) (l : Loc) (n : Nat) : Bool :=
  s.claims.any fun c => decide (c.lo < s.flatOf l + n) && decide (s.flatOf l ≤ c.hi)

/-- The pages of two migrations meet. -/
def State.migMeets (s : State) (a b : Migration) : Bool :=
  [a.old, a.new].any fun x => [b.old, b.new].any fun y => overlaps (s.flatOf x) a.size (s.flatOf y) b.size

/-- MIGRATE: the start waits until no claim is held on the page. -/
def execMigrate (i : Inst) (s : State) : Out :=
  s.serveMbox i 0x01 fun a =>
    match s.migrationOf i (a 0) (a 1) (BitVec.ofNat 64 (a 2)) with
    | none => s.badArg i
    | some m =>
      if overlaps (s.flatOf m.old) m.size (s.flatOf m.new) m.size then s.badArg i
      else if !s.placed? m.old || !s.placed? m.new || s.migrations.any (s.migMeets m) then s.refused i
      else if s.pageClaimed m.old m.size then s
      else { s.takeMbox i with migrations := s.migrations ++ [m], nextId := s.nextId + 1 }

def State.modMigration (s : State) (mid : Nat) (f : Migration → Migration) : State :=
  { s with migrations := s.migrations.map fun m => if m.mid = mid then f m else m }

/-- MIGRATION_BLOCK_COPY: the next 64-byte block; ok: no error of the transfer. -/
def execMigrationBlockCopy (mid : Nat) (ok : Bool) (s : State) : Out :=
  match s.migrations.find? fun m => m.mid == mid with
  | none => .next s
  | some m =>
    if m.forward || decide (m.size ≤ 64 * m.copied) then .next s
    else
      let a := s.flatOf m.old + 64 * m.copied
      let b := s.flatOf m.new + 64 * m.copied
      let bs := (s.mem.read a 64).map some
      if !ok || (readErr s.mem s.lostDies (s.keyOf m.old) 64 a 64).isSome || (writeErr s.mem s.lostDies (s.keyOf m.new) 64 b bs).isSome then
        .next (s.endMigration mid 3 0x04)
      else .next ((s.putBytes (s.keyOf m.new) b bs).modMigration mid fun m => { m with copied := m.copied + 1 })

/-- Watched words of the page are watched at their new home (R180, R213). -/
def State.moveWatches (s : State) (m : Migration) : State :=
  let a := s.flatOf m.old
  { s with watches := s.watches.map fun w =>
      if a ≤ w.addr ∧ w.addr < a + m.size then { w with addr := w.addr - a + s.flatOf m.new, bank := bankOf (w.addr - a + s.flatOf m.new) } else w }

/-- MIGRATION_FLIP: FORWARD, the new leaf entry, and the ASGEN that ends it. -/
def execMigrationFlip (mid : Nat) (s : State) : Out :=
  match s.migrations.find? fun m => m.mid == mid with
  | none => .next s
  | some m =>
    match s.ctx? m.asid with
    | none => .next (s.endMigration mid 3 0x04)
    | some c =>
      if m.forward && !c.asgens.contains (.migration mid) then .next (s.endMigration mid 3 0x04)
      else if m.forward || decide (64 * m.copied < m.size) then .next s
      else
        match s.leafAt m.va 4 c.ptroot with
        | none => .next (s.endMigration mid 3 0x04)
        | some e =>
          let s1 := s.modMigration mid fun m => { m with forward := true, asgen := true }
          let s2 : State := { s1 with mem := s1.mem.write e ((wordLe m.leaf).map some) }
          let s3 := (if c.asgens.isEmpty then s2.raiseGen m.asid else s2).moveWatches m
          .next (s3.modCtx m.asid fun c => { c with asgens := c.asgens ++ [.migration mid] })

/-! Moorings, peers, ports (R284, R295, R303, R305). -/

/-- The moorings of a chiplet at the driver's request, those to be published among them. -/
def State.driverMoorings (s : State) (c : Nat) : Nat :=
  ((List.range 64).filter fun k => let x := s.cluster (c * 64 + k); x.moored && !x.halted).length +
    (s.pubReqs.filter fun r => match r with | .moor v on => on && !(s.mapNow v).moored && chipOf (s.host v) == c | _ => false).length

def State.moorAs (s : State) (i : Inst) (v : Nat) (on : Bool) : State :=
  let e := s.mapNow v
  if 4096 ≤ v ∨ !e.valid then s.badArg i
  else if e.nonres then s.refused i
  else if on && !e.moored && decide (8 ≤ s.driverMoorings (chipOf e.pcn)) then s.refused i
  else ({ s with pubReqs := s.pubReqs ++ [.moor v on] } : State).mboxDone i

def execMoor (i : Inst) (s : State) : Out := s.serveMbox i 0x02 fun a => s.moorAs i (a 0) true
def execUnmoor (i : Inst) (s : State) : Out := s.serveMbox i 0x03 fun a => s.moorAs i (a 0) false

/-- PEERSET. -/
def execPeerset (i : Inst) (s : State) : Out :=
  s.serveMbox i 0x04 fun a =>
    if a 0 < 256 ∧ a 2 < 2 ^ 16 ∧ 1 ≤ a 3 ∧ a 3 < 4096 then
      ({ s with peers := s.peers.set (a 0) { remote := BitVec.ofNat 64 (a 1), ports := a 2, asid := a 3 } } : State).mboxDone i
    else s.badArg i

/-- PEERCLR. -/
def execPeerclr (i : Inst) (s : State) : Out :=
  s.serveMbox i 0x05 fun a => if a 0 < 256 then ({ s with peers := s.peers.drop (a 0) } : State).mboxDone i else s.badArg i

/-- RETRAIN: every lane is tested again (R303). -/
def execRetrain (i : Inst) (s : State) : Out :=
  s.serveMbox i 0x06 fun a =>
    if 16 ≤ a 0 then s.badArg i
    else
      let x := s.port (a 0)
      if !x.enable ∨ !s.linkDie (a 0) then s.refused i
      else (s.setPort (a 0) { x.discard with dead := 0, st := 1, width := 0 }).mboxDone i

/-! Stops of a context (R319, R321). -/

/-- CTXSTOP. -/
def execCtxstop (i : Inst) (s : State) : Out :=
  s.serveMbox i 0x10 fun a =>
    match s.ctx? (a 0) with
    | none => s.badArg i
    | some c =>
      if !c.resident then s.refused i
      else (s.modCtx (a 0) Ctx.stopAsked).takeMbox i

/-- The stopped state of R233. -/
def State.isStill (s : State) (asid : Nat) : Bool :=
  s.quiet asid && s.tiles.all (fun r => r.asid != asid) && s.strands.all fun e => e.2.asid != asid || !e.2.rollbackDue

/-- The requests that wait for a context to stop. -/
def State.stopRequests (s : State) (asid : Nat) : List Inst :=
  [Inst.host, Inst.side].filter fun i => let m := s.mbox i; m.st == 1 && m.taken && m.reqOp == 0x10 && (m.req.getD 0 0).toNat == asid

/-- CTXSTOP_COMPLETE: of a CTXSTOP or of a superstep stop. -/
def execCtxstopComplete (asid : Nat) (s : State) : Out :=
  let rs := s.stopRequests asid
  let past : State → Nat → Nat → State := fun t st code => rs.foldl (fun t i => t.finishMbox i st code) t
  match s.ctx? asid with
  | none => .next (past s 3 0x03)
  | some c =>
    if !c.resident ∨ !(c.stopReq || c.stopped) then .next (past s 3 0x03)
    else if c.stopped then .next (past s 2 0)
    else if s.isStill asid then
      .next (past (s.modCtx asid fun c => { c with stopReq := false, stopped := true, stoppedAt := s.ptime, preempt := false }) 2 0)
    else .next s

/-- Withheld releases go to their waiters. -/
def State.releaseWithheld (s : State) (c : Ctx) : State :=
  (c.vcns.flatMap fun v => (s.vc v).bars.filterMap fun b => b.2.withheld.map fun w => (v, b.1, w)).foldl
    (fun s x => s.reopenBar x.1 x.2.1 (.value x.2.2)) s

/-- CTXGO. -/
def execCtxgo (i : Inst) (s : State) : Out :=
  s.serveMbox i 0x11 fun a =>
    match s.ctx? (a 0) with
    | none => s.badArg i
    | some c =>
      let held : Kernel → Nat := fun k => if c.stopped then s.ptime - max c.stoppedAt k.timer else 0
      let s1 := s.modCtx (a 0) fun c => { c with stopReq := false, stopped := false }
      let s2 : State := { s1 with kernels := s1.kernels.map fun k => if k.2.asid = a 0 then (k.1, { k.2 with timer := k.2.timer + held k.2 }) else k }
      (s2.releaseWithheld c).mboxDone i

/-- SSTOP arms one stop for a context. -/
def execSstop (i : Inst) (s : State) : Out :=
  s.serveMbox i 0x15 fun a =>
    if (s.ctx? (a 0)).isNone ∨ 2 ^ 15 ≤ a 1 ∨ 2 ^ 32 ≤ a 2 then s.badArg i
    else (s.modCtx (a 0) fun c => { c with armed := some (a 1 % 4096, a 1 / 4096, BitVec.ofNat 32 (a 2)) }).mboxDone i

/-! Reverse stepping (R233, R476). -/

/-- The stamp of an entry (R223); one of WIN 0 is recovered from the instant of the stop. -/
def Entry.stamp (l : UndoLog) (stop : Nat) (e : Entry) : Nat :=
  if e.kind = 5 then leNat e.data
  else if e.win = 0 then stop - (stop + 2 ^ 32 - e.dstamp) % 2 ^ 32
  else l.opens.getD e.win 0 + e.dstamp

/-- Where an entry stands in ring order, from the head. -/
def UndoLog.ringPos (l : UndoLog) (off : Nat) : Nat := (off + l.size - l.head) % l.size

/-- The newest entry that can be undone. -/
def State.newestEntry (s : State) (asid stop : Nat) : Option Entry :=
  let l := s.log asid
  let before : Entry → Entry → Bool := fun a b =>
    let (x, y) := (a.stamp l stop, b.stamp l stop)
    decide (x < y) || (x == y && decide (l.ringPos a.off ≤ l.ringPos b.off))
  match (s.ringEntries asid).filter fun e => !e.void && e.kind != 6 && e.kind != 7 with
  | [] => none
  | e :: t => some (t.foldl (fun b x => if before b x then x else b) e)

/-- The strand whose current window a MARK opened. -/
def State.markOwner (s : State) (asid : Nat) (e : Entry) : Option (Nat × Strand) :=
  s.strands.find? fun x => x.2.asid == asid && x.2.vcn == e.loc % 4096 && x.2.recIdx == e.loc / 4096 % 16384
    && x.2.window.st != .none && x.2.window.num == e.win

/-- A waiter that no strand is. -/
def nobody (w : Waiter) : Waiter := { w with sid := 2 ^ 60 }

/-- The strand is no waiter of any episode any more; its arrivals stay counted. -/
def State.dropArrivals (s : State) (sid : Nat) : State :=
  let f : BarArrival → BarArrival := fun a =>
    match a.waiter with
    | some w => if w.sid = sid then { a with waiter := some (nobody w) } else a
    | none => a
  { s with vcs := s.vcs.map fun v => (v.1, { v.2 with bars := v.2.bars.map fun b => (b.1, { b.2 with arrivals := b.2.arrivals.map f, held := b.2.held.map f }) }) }

/-- A grant latch that holds a result is handed back. -/
def State.handBack (s : State) (x : Strand) : State :=
  match x.grant, s.xlate .device x.asid x.vcn x.pos .rd x.grantVa.toNat with
  | some (.value _), .ok (.event v off) =>
    match evReg off with
    | .line e => s.addSignals v e 1
    | .mutex m =>
      match ((s.vc v).mutexes.getD m {}).waiters with
      | [] => s.setMutex v m { holder := none, waiters := [] }
      | w :: t => (s.setMutex v m { holder := some w.sid, waiters := t }).grantTo w (.value 1)
    | _ => s
  | _, _ => s

/-- The window that a MARK records as the one before it. -/
def State.markedWindow (s : State) (asid : Nat) (data : List Byte) : Window :=
  let n := field data 72 4
  let code := field data 76 1
  let w : Window := { num := n, stamp := (s.log asid).opens.getD n 0 }
  if code = 1 ∨ code = 2 then { w with st := .fixed } else if code = 4 then { w with st := .truncated } else {}

/-- A MARK step (R476). -/
def State.markStep (s : State) (sid : Nat) (x : Strand) (e : Entry) : State :=
  let img := bytesWords 8 e.data
  let w0 := img.getD 0 0
  let s1 := (s.dropPlaces sid).dropArrivals sid
  let s2 := (s1.handBack x).stripStrand sid
  let s3 := if x.st = .ready then s2.unready sid else s2
  let y := { x with
    counts := {}, slot := none, saved := none, wakeLatch := false, passLatch := false, grant := none
    window := s.markedWindow x.asid e.data, stop := none, high := none, yielded := false, blockOn := .other
    pinned := bitsOf w0 62 62 == 1, pos := if bitsOf w0 62 62 = 1 then bitsOf w0 60 58 else x.pos }
  let s4 : State := { s3 with strands := s3.strands.set sid y, watches := s3.watches.filter fun w => w.sid != sid }
  (s4.putRecord y (recWord0 (recPc w0) false none false y.pinned y.pos :: img.drop 1)).makeReady sid

/-- One step: the state, or the reason why it is refused and the ring offset. -/
def State.stepBack (s : State) (asid stop : Nat) : Except (Nat × Option Nat) (State × Nat) :=
  match s.newestEntry asid stop with
  | none => .error (if (s.log asid).lost then (2, some (s.log asid).head) else (3, none))
  | some e =>
    if e.kind = 5 then .error (1, some e.off)
    else if e.kind = 0 then
      match s.markOwner asid e with
      | none => .error (4, some e.off)
      | some (sid, x) => if x.trapMark || x.frame.isSome then .error (5, some e.off) else .ok ((s.markStep sid x e).voidEntry asid e, e.off)
    else .ok ((s.restoreEntry asid e []).voidEntry asid e, e.off)

/-- Up to n steps: the state, the steps done, the reason, the offset of the last entry undone or of the stopping one. fuel: at least the entries of the ring and one. -/
def State.stepsBack (s : State) (asid stop n done last : Nat) : Nat → State × Nat × Nat × Nat
  | 0 => (s, done, 0, last)
  | fuel + 1 =>
    if done = n then (s, done, 0, last)
    else
      match s.stepBack asid stop with
      | .error (why, at_) => (s, done, why, at_.getD last)
      | .ok (s1, off) => s1.stepsBack asid stop n (done + 1) off fuel

/-- RSTEP. -/
def execRstep (i : Inst) (s : State) : Out :=
  s.serveMbox i 0x12 fun a =>
    match s.ctx? (a 0) with
    | none => s.badArg i
    | some c =>
      if a 1 = 0 ∨ 2 ^ 32 ≤ a 1 then s.badArg i
      else if !c.stopped then s.refused i
      else
        let r := s.stepsBack (a 0) c.stoppedAt (a 1) 0 0 ((s.ringEntries (a 0)).length + 1)
        r.1.mboxDone i [BitVec.ofNat 64 r.2.1, BitVec.ofNat 64 r.2.2.1, BitVec.ofNat 64 r.2.2.2]

/-! Breakpoints of queues (R320). -/

/-- PKTBRK: a fifth breakpoint is refused. -/
def execPktbrk (i : Inst) (s : State) : Out :=
  s.serveMbox i 0x13 fun a =>
    if 1024 ≤ a 0 ∨ 2 ^ 32 ≤ a 1 ∨ 2 ≤ a 2 then s.badArg i
    else
      let x := s.queue (a 0)
      let rest := x.breaks.filter (· != a 1)
      if a 2 = 1 ∧ !x.breaks.contains (a 1) ∧ 4 ≤ x.breaks.length then s.refused i
      else (s.setQueue (a 0) { x with breaks := if a 2 = 1 then a 1 :: rest else rest }).mboxDone i

/-- PKTGO: the held packet is processed, or skipped by the COND before it. -/
def execPktgo (i : Inst) (s : State) : Out :=
  s.serveMbox i 0x14 fun a =>
    if 1024 ≤ a 0 then s.badArg i
    else
      let x := s.queue (a 0)
      if x.st = .stopped ∧ x.code = 0x07 then
        ((s.setQueue (a 0) { x with st := .idle, code := 0, passBreak := true }).skipAll (a 0)).mboxDone i
      else s.mboxDone i

/-! Trace sessions (R322 to R325). -/

/-- The pages of a ring are TT 0x8. -/
def State.ringOk (s : State) (asid : Nat) (c : Ctx) (ring n : Nat) : Bool :=
  (pagePieces (n / 2 ^ 16 + 2) ring n).all fun p =>
    match s.page .device asid c p.1 with
    | .ok g => bitsOf g.leaf 11 8 == 0x8
    | .error _ => false

/-- TRACEOPEN. -/
def execTraceopen (i : Inst) (s : State) : Out :=
  s.serveMbox i 0x16 fun a =>
    let x := s.queue (a 0)
    let lg := a 2 % 32
    match (if a 0 < 1024 then x.asid else none).bind fun n => (s.ctx? n).map fun c => (n, c) with
    | none => s.badArg i
    | some (asid, c) =>
      if 2 ^ 7 ≤ a 2 ∨ lg < 12 ∨ 30 < lg ∨ 2 ^ 56 ≤ a 1 ∨ a 1 % 2 ^ lg ≠ 0 ∨ 2 ^ 56 ≤ a 3 ∨ a 3 % 64 ≠ 0 ∨ !s.ringOk asid c (a 1) (2 ^ lg) then s.badArg i
      else if x.trace.isSome then s.refused i
      else
        (s.setQueue (a 0) { x with trace := some {
            asid := asid, ring := BitVec.ofNat 56 (a 1), logsz := lg, wrap := a 2 / 2 ^ 5 % 2 == 1, imbal := a 2 / 2 ^ 6 % 2 == 1
            status := BitVec.ofNat 56 (a 3) } }).mboxDone i

/-- TRACECLOSE: with no session it ends DONE with no effect. -/
def execTraceclose (i : Inst) (s : State) : Out :=
  s.serveMbox i 0x17 fun a => if a 0 < 1024 then (s.traceCloseQ (a 0) 1).mboxDone i else s.badArg i

/-- TRACE_FLUSH of a chiplet's buffers. -/
def execTraceFlush (chip : Nat) (s : State) : Out := .next ((s.queues.map fun e => e.1).foldl (fun s q => s.traceFlushQ q chip) s)

/-! Keys and the debug unlock (R315 to R318). -/

/-- KEYGEN: a fresh key, loaded into every stack; a BLANK part has test keys only (R315). -/
def execKeygen (i : Inst) (s : State) : Out :=
  s.serveMbox i 0x18 fun a =>
    if 256 ≤ a 0 then s.badArg i
    else ({ s with keys := s.keys.set (a 0) s.newKey, keyCtr := s.keyCtr + 1 } : State).mboxDone i

/-- KEYWIPE. -/
def execKeywipe (i : Inst) (s : State) : Out :=
  s.serveMbox i 0x19 fun a => if 256 ≤ a 0 then s.badArg i else ({ s with keys := s.keys.drop (a 0) } : State).mboxDone i

/-- DBGCHAL: a fresh nonce. -/
def execDbgchal (i : Inst) (s : State) : Out :=
  s.serveMbox i 0x1A fun _ =>
    let (ws, s1) := s.freeWords 4
    ({ s1 with trust := { s1.trust with nonce := some (s.ptime, wordsBytes ws) } } : State).mboxDone i ws

/-- NONCE_EXPIRY: after 60 s. -/
def execNonceExpiry (s : State) : Out :=
  match s.trust.nonce with
  | some (t, _) => if t + 60000000000 ≤ s.ptime then .next { s with trust := { s.trust with nonce := none } } else .next s
  | none => .next s

def tokenBytes : Nat := 5269

/-- The bytes of the token; none where it cannot be read. -/
def State.tokenAt (s : State) (a : Nat) (host : Bool) : Option (List Byte) :=
  if host then some (s.mem.read (hostBase + a) tokenBytes)
  else if s.physRange a tokenBytes then some (s.mem.read a tokenBytes) else none

/-- The nonce is valid, and the token opens panel debug (R317 step 6). -/
def State.tokenOk (s : State) (t : List Byte) : Bool :=
  match s.trust.nonce with
  | none => false
  | some (at_, n) =>
    let msg := shake256 (n ++ toLe 8 s.panelId ++ wordLe s.fuses.serial ++ t.take 8)
    let pub := (t.drop 8).take 1952
    decide (s.ptime < at_ + 60000000000) && field t 0 8 == 1 && shake256 pub == s.fuses.ownerDigest && Config.mldsaVerify pub msg (t.drop 1960)

/-- DBGUNLOCK. -/
def execDbgunlock (i : Inst) (s : State) : Out :=
  s.serveMbox i 0x1B fun a =>
    let host := a 1 == 1
    if 2 ≤ a 1 ∨ (!host ∧ hbmEnd < a 0 + tokenBytes) then s.badArg i
    else
      let no := ({ s with trust := { s.trust with nonce := none } } : State).refused i
      match s.tokenAt (a 0) host with
      | none => no
      | some t =>
        if s.fuses.lifecycle ≠ 1 ∨ !s.fuses.debugEnable ∨ !s.tokenOk t ∨ s.queues.any (fun q => q.2.enable) then no
        else
          ({ s with keys := [], ctxs := s.ctxs.map fun c => (c.1, { c.2 with saveKey := 0 })
                    trust := { s.trust with debugOpen := true, tokenDigest := shake256 t } } : State).mboxDone i

/-- Panel debug is open (R315, R317). -/
def State.panelDebug (s : State) : Bool := s.trust.debugOpen || s.fuses.lifecycle != 1

/-- PHYSRD: the ciphertext that the stack holds (R183); of a block that nothing has written since power-on it is free (log 2). -/
def execPhysrd (i : Inst) (s : State) : Out :=
  s.serveMbox i 0x1C fun a =>
    if a 0 % 8 ≠ 0 ∨ hbmEnd ≤ a 0 then s.badArg i
    else if !s.panelDebug ∨ stackLost s.lostDies (a 0) then s.refused i
    else
      match s.mem.blockKey.get? (a 0 / 64) with
      | some k =>
        let c := cipherBlock k (a 0 / 64 * 64) (s.mem.read (a 0 / 64 * 64) 64)
        s.mboxDone i [BitVec.ofNat 64 (ofLeBytes ((c.drop (a 0 % 64)).take 8))]
      | none =>
        let (w, s1) := s.free
        s1.mboxDone i [w]

/-- FWSTATE: the words are the firmware's own, and free (log 2). -/
def execFwstate (i : Inst) (s : State) : Out :=
  s.serveMbox i 0x1D fun a =>
    if 4 ≤ a 0 then s.badArg i
    else if !s.panelDebug then s.refused i
    else
      let (ws, s1) := s.freeWords 4
      s1.mboxDone i ws

end Sys2Proof.Machine
end

