-- ==== Sys2Proof/Machine/Host.lean ====
section
/-! DEFINITION. Register writes, the HBM aperture, power-on and the host port (R4, R5, R237, R286, R287, R291 to R296, R304, R313). -/

namespace Sys2Proof.Machine

/-! Register writes (R292). -/

/-- A write to a queue block. -/
def State.writeQueueReg (s : State) (q off : Nat) (v : Word) : State :=
  let x := s.queue q
  match off with
  | 0x00 =>
    let r := bitsOf v 63 58
    if x.enable then s else s.setQueue q { x with base := v.truncate 56, rsize := if 4 ≤ r ∧ r ≤ 16 then r else x.rsize }
  | 0x08 => s.writeQctl q v
  | 0x10 => s.writeTail q v
  | 0x30 => if x.enable then s else s.setQueue q { x with desc := bitsOf v 55 7 * 128 }
  | _ => s

/-- A write to a mailbox. -/
def State.writeMbox (s : State) (i : Inst) (off : Nat) (v : Word) : State :=
  let m := s.mbox i
  if off = 0x40 then { s.setMbox i (m.command v s.mbOrder) with mbOrder := s.mbOrder + 1 }
  else if off < 0x68 then s.setMbox i { m with args := m.args.set ((off - 0x48) / 8) v }
  else s

def HostIf.writeApctl (h : HostIf) (v : Word) : HostIf :=
  { h with apStack := if bitsOf v 4 0 ≤ 23 then bitsOf v 4 0 else h.apStack, apKey := bitsOf v 15 8, apEnable := bitsOf v 16 16 == 1 }

def HostIf.writeErrhead (h : HostIf) (v : Nat) : HostIf := if h.errHead ≤ v ∧ v ≤ h.errTail then { h with errHead := v } else h

/-- An aligned 8-byte write from one side. -/
def State.writeReg (s : State) (i : Inst) (off : Nat) (v : Word) : State :=
  let h := s.hostIf
  if off % 8 ≠ 0 ∨ !s.cpRuns then s
  else if off = 0x20 then { s with hostIf := { h with riskIrq := bitsOf v 39 32 } }
  else if 0x40 ≤ off ∧ off < 0x70 then s.writeMbox i off v
  else if off = 0x80 then { s with hostIf := h.writeApctl v }
  else if 0x10000 ≤ off ∧ off < 0x20000 then s.writeQueueReg ((off - 0x10000) / 0x40) (off % 0x40) v
  else if 0x20000 ≤ off ∧ off < 0x21000 ∧ off % 0x100 = 0 then s.writeSxctl ((off - 0x20000) / 0x100) v
  else if off = 0x30000 then { s with hostIf := h.writeErrhead v.toNat }
  else if 0x80000 ≤ off ∧ off < 0x88000 then { s with hostIf := { h with msixTable := h.msixTable.set ((off - 0x80000) / 8) v } }
  else s

/-- REGISTER_WRITE of the host: one of 4 bytes is ignored, one of another size than 4 or 8 is answered with Unsupported Request, PCIe completion status 1 (log 60). -/
def execRegisterWrite (off : Nat) (v : HostWord) (s : State) : Out :=
  .next (s.inOrder fun s => if v.size = 8 then s.writeReg .host off v.val else if v.size = 4 then s else s.reply [1])

/-- ERRHEAD_WRITE. -/
def execErrheadWrite (v : Word) (s : State) : Out := .next (s.inOrder fun s => s.writeReg .host 0x30000 v)

/-! The aperture (R293). -/

/-- APERTURE_READ, behind the writes that came before it: all-ones where the aperture is shut; bytes that cannot be read are free (log 2). -/
def execApertureRead (off n : Nat) (s : State) : Out :=
  if !s.cpRuns then .next s
  else
    .next (s.inOrder fun s =>
      match s.aperture off n false with
      | (none, s1) => s1.reply (List.replicate n 0xFF)
      | (some l, s1) =>
        let a := s1.homeFlat l
        match readErr s1.mem s1.lostDies (s1.homeKey l) n a n with
        | none => s1.reply (s1.mem.read a n)
        | some _ =>
          let (bs, s2) := s1.freeBytes n
          s2.reply bs)

/-- APERTURE_WRITE: it waits while a claim stands on its bytes (R197), and behind the writes that came before it; it is not logged. -/
def execApertureWrite (off : Nat) (bytes : List Byte) (s : State) : Out :=
  if !s.cpRuns then .next s
  else .next ({ s with hostIf := { s.hostIf with held := s.hostIf.held ++ [(off, bytes)] } } : State).drainHeld

/-! Power-on (R313). -/

/-- The measurement slot of a die that is not a chiplet (R314). -/
def dieSlot (die : Nat) : Nat := if die = 0x202 then 1 else if die = 0x200 then 2 else if die = 0x201 then 3 else 5

/-- The slot at which boot stops. -/
def bootStop (badDies : List Nat) : Option Nat :=
  ((badDies.filter fun d => decide (48 ≤ d)).map dieSlot).foldl (fun o k => match o with | some j => some (min j k) | none => some k) none

/-- A cluster with the ageing counter that the trust die has kept (R286). -/
def Cluster.aged (c : Cluster) (w : Word) : Cluster :=
  { c with corr := bitsOf w 15 0, resid := bitsOf w 23 16, margin := bitsOf w 31 24, hours := bitsOf w 63 32 }

/-- The panel after power-on: fuses, the trust die's store and host memory are as they were. -/
def State.powerOn (s : State) (badDies : List Nat) : State :=
  let absent := badDies.filter fun d => decide (d < 48)
  let s0 : State := { State.reset with
    fuses := s.fuses, freeCtr := s.freeCtr, keyCtr := s.keyCtr, sched := s.sched
    mem := { cells := s.mem.cells.filter fun c => isHost c.1 }
    trust := { bootFail := bootStop badDies, absent := absent }
    hostIf := { ageStore := s.hostIf.ageStore, msix := s.hostIf.msix, replies := s.hostIf.replies, events := s.hostIf.events, sideErrors := s.hostIf.sideErrors }
    chips := absent.map fun c => (c, ({ lost := true } : Chiplet)) }
  let aged := s.hostIf.ageStore.map fun e => (e.1, (s0.cluster0 e.1).aged e.2)
  let off := absent.flatMap fun c => (List.range 64).map fun k => c * 64 + k
  off.foldl (fun s p => s.setCluster p { s.cluster p with rot := .retired, dead := true }) { s0 with clusters := aged }

/-- POWER_ON_RESET: badDies are the dies whose measurement does not match. A trust die that has not fallen below 95 °C since it was too hot goes on to hold every other die in reset (R329). -/
def execPowerOnReset (badDies : List Nat) (s : State) : Out :=
  if s.trust.hot && !s.trust.cooled then .next (s.powerOn badDies).holdAll else .next (s.powerOn badDies)

/-! The host port (R291, R297). -/

def execHostPortDown (s : State) : Out := .next { s with hostIf := { s.hostIf with up := false, width := 0 } }

/-- HOST_PORT_UP: after a failed boot the port never trains. -/
def execHostPortUp (width : Nat) (s : State) : Out :=
  if (width = 16 ∨ width = 8 ∨ width = 4) ∧ s.cpRuns then .next { s with hostIf := { s.hostIf with up := true, width := width } } else .next s

end Sys2Proof.Machine
end

