-- ==== Sys2Proof/Machine/Auto.lean ====
section
/-! DEFINITION. With an empty schedule, what moves when the focused core can only wait (log 1): every access, engine operation, tile task and strand that can move on does, in a fixed order. -/

namespace Sys2Proof.Machine

/-- The focused core can only wait. -/
def State.mustWait (s : State) : Bool :=
  s.cur.run.isNone || s.cur.stop.isSome || (!s.called && (s.cur.str.rollbackDue || s.cur.gate != .none || s.cur.susp != .none || s.cur.wait != .none))

/-- The state that an event leads to. -/
def State.after (s : State) (f : State → Out) : State := match f s with | .next t => t | _ => s

def State.afterAll (s : State) (fs : List (State → Out)) : State := fs.foldl State.after s

/-- An access reaches its home or its unit, is logged, and is answered. -/
def autoAccess (id : Nat) : List (State → Out) :=
  [execHomeAccess id, execEventLineLoad id, execEventLineStore id, execBarcfgStore id, execBarrierArrival id, execMutexAcquire id
   , execMutexRelease id, execWakeArrival id, execSpawnArrival id, execQpushArrival id, execLogEntryAccept id, execFaultQueueReplay id
   , execForwardedMessage id, execStaleResend id, execAccessResponse id]

def autoEngine (id : Nat) : List (State → Out) := [execClaimRelease id, (fun s => .next (s.farDone id)), execArrival id, execEngineCompletion id]

def autoLeaf (pcn seq leaf : Nat) : List (State → Out) :=
  [execStagingStart seq leaf, execStagingDone seq leaf, execMatrixGrant pcn, execKblockDone seq leaf true, execChildCompletion seq leaf]

/-- The pieces of a tile instruction, and the lane groups of its cluster. -/
def autoTile (s : State) (r : TileRoot) : List (State → Out) :=
  execTileDecompose r.seq :: r.leaves.flatMap fun l => autoLeaf (s.host l.vcn) r.seq l.idx

def autoLanes (pcn : Nat) : List (State → Out) :=
  [execMatrixGrant pcn, execLaneGroupGrant pcn] ++ (List.range 8).map fun g => execLaneGroupRelease pcn g

def autoCtx (e : Nat × Ctx) : List (State → Out) :=
  [execAsgenDone e.1, execCsrwCompletion e.1] ++ (List.range e.2.chain.length).map fun j => execFrameSlotGrant e.1 j

def autoKernel (e : Nat × Kernel) : List (State → Out) :=
  (e.2.messages.map fun v => execLaunchMessage e.1 v) ++ [execQuiescence e.1] ++ ((List.range e.2.hdr.vccount).map fun v => execQuiescenceArrival e.1 (e.2.hdr.vcbase + v)) ++ [execKernelCompletion e.1]

def autoCore (core : Nat) : List (State → Out) :=
  [execPublicationArrival (core / 8), execCountWaitMet core, execTrapStop core, execTileEvictionDone core, execTileRestoreDone core, execSuspensionThreshold core, execSuspensionDrain core]

/-- The focused core tries its instruction again. -/
def State.retryHead (s : State) : State :=
  if s.cur.gate = .none ∧ s.cur.susp = .none then { s with cur := { s.cur with wait := .none } } else s

/-! What package time is measured from. -/

/-- As package time is about to pass: since when a packet has been processable, since when a context has waited for physical clusters, and what was ready in this clock (R236, R249, R250, R253). -/
def State.clockEnds (s : State) : State :=
  let since : Bool → Option Nat → Option Nat := fun b t => if b then some (t.getD s.ptime) else none
  s.arbiters.foldl State.clockArbiter { s with
    queues := s.queues.map fun e => (e.1, { e.2 with readySince := since (s.processable e.1) e.2.readySince })
    ctxs := s.ctxs.map fun e => (e.1, { e.2 with waitingSince := since (s.waits e) e.2.waitingSince }) }

/-- Package time passes, on each die by its own counter. -/
def State.elapse (s : State) (dt : Nat) : State :=
  if dt = 0 then s
  else { s.clockEnds with ptime := s.ptime + dt, hostIf := { s.hostIf with offsets := counterDies.map fun d => (d, s.drifted dt d) } }

/-- What waits moves on; package time passes, so that what waits for a time goes too. -/
def State.progress (s0 : State) : State :=
  let s : State := (s0.elapse 46).drainHeld
  let s1 := s.afterAll (s.flight.flatMap fun a => autoAccess a.id)
  let s2 := s1.afterAll (s1.engines.flatMap fun e => autoEngine e.id)
  let s3 := s2.afterAll (s2.tiles.flatMap (autoTile s2) ++ autoLanes s2.pcn)
  let s4 := s3.afterAll ((s3.releases.map fun x => execBarrierRelease x.1 x.2.1) ++ s3.parentArrivals.map fun x => execBarrierParentArrival x.1 x.2.1)
  let s5 := s4.afterAll ((s4.asyncFlight.map fun x => execAsyncTrapArrival x.1) ++ (s4.watches.map fun w => execWatchTimeout w.access) ++ s4.ctxs.flatMap autoCtx ++ s4.kernels.flatMap autoKernel)
  let s6 := s5.afterAll (autoCore s5.focus)
  let s7 := s6.afterAll (s6.cur.run.toList.map execRollbackDone ++ s6.strands.flatMap fun e => [execRecordWritten e.1, execRollbackDone e.1])
  (s7.after (execDispatch s7.focus)).retryHead

end Sys2Proof.Machine
end

