-- ==== Sys2Proof/Machine/Chance.lean ====
section
/-! DEFINITION. What befalls the panel without a row of the opcode table: corrected and uncorrectable errors of memory, errors of control state, the advance of a new generation to a table (R178, R184, R185, R264, R290, R472). -/

namespace Sys2Proof.Machine

/-- The cluster whose scratchpads hold a flat address. -/
def clusterAt (a : Nat) : Option Nat :=
  if isHbm a then none else if a < 2 ^ 45 then some ((a - 2 ^ 44) / 2 ^ 19) else if a < 2 ^ 46 then some ((a - 2 ^ 45) / 2 ^ 20) else none

/-- An access corrects a single error: CORR of the cluster counts a scratchpad word, the error log of the stack an HBM block, which is then being rewritten as it was (R185, R203, R286, R472). -/
def State.corrected (s : State) (a : Nat) : State :=
  if isHbm a then
    { s with stackErrs := s.stackErrs.set (a / 2 ^ 36) (s.stackErrs.getD (a / 2 ^ 36) 0 + 1)
             mem := { s.mem with rewrites := if s.mem.rewrites.contains (errUnit a) then s.mem.rewrites else s.mem.rewrites ++ [errUnit a] } }
  else
    match clusterAt a with
    | some p => s.setCluster p { s.cluster p with corr := min 0xFFFF ((s.cluster p).corr + 1) }
    | none => s

/-- A word or a block holds an error that cannot be corrected (R185, R472). -/
def State.spoilUnit (s : State) (a : Nat) : State :=
  if isHost a ∨ s.mem.bad.contains (errUnit a) then s else { s with mem := { s.mem with bad := errUnit a :: s.mem.bad, rewrites := s.mem.rewrites.filter (· != errUnit a) } }

/-- A corrected block has been written back (R185, R203). -/
def State.rewritten (s : State) (a : Nat) : State := { s with mem := { s.mem with rewrites := s.mem.rewrites.filter (· != errUnit a) } }

/-- The control state of a cluster fails, its strand table, its hold table or a fault queue: the cluster halts (R264, R290). The record names the strand's context and virtual cluster where it is that of a strand, or else those that the cluster hosts. -/
def State.controlFails (s : State) (pcn : Nat) (sid : Option Nat) : State :=
  let v := match sid.bind s.strand? with
    | some x => if s.host x.vcn = pcn then some x.vcn else none
    | none => (s.hosted pcn).head?
  match v.bind fun v => (s.ctxOfVcn v).map fun e => (v, e.1) with
  | some (v, asid) => if (s.hosted pcn).contains v then s.haltCluster asid v 0 else s
  | none => s

/-- The newest generation of a context reaches one table (R178). -/
def State.genReaches (s : State) (asid table : Nat) : State :=
  s.modCtx asid fun c => if c.genSeen.contains table then c else { c with genSeen := c.genSeen ++ [table] }

/-- What befalls the panel (log 142). -/
def State.befall (s : State) : Chance → State
  | .single a => s.corrected a
  | .double a => s.spoilUnit a
  | .rewritten a => s.rewritten a
  | .control pcn sid => s.controlFails pcn sid
  | .genTable asid table => s.genReaches asid table

end Sys2Proof.Machine
end

