-- ==== Sys2Proof/Machine/Control.lean ====
section
/-! DEFINITION. Format H, but for TACK, TRET and UWSEAL (R125, R350, R356, R367 to R369, R382, R384, R393, R399, R461). -/

namespace Sys2Proof.Machine

def execNop (s : State) : Out := .next s.advance
def execPin (s : State) : Out := .next (s.setStr fun x => { x with pinned := true }).advance
def execQuiet (s : State) : Out := .next (s.setStr fun x => { x with holding := false }).advance
def execBrk (n : BitVec 4) (s : State) : Out := .next (s.raiseAfter 0x0B n.toNat)

/-- EXIT (R51, R356); of a handler, TRET 1. -/
def execExit (s : State) : Out :=
  if s.handler then s.tret true
  else if !s.counts.zero then .next (s.waiting .stall)
  else .next ((s.happen s.vcn 0x02 1).freeEntry (s.cur.run.getD 0))

/-- Reach a suspension point with the next head as the resume PC; rel discards the tile registers once the vector queue is empty and the counts are zero (R399, R461). -/
def State.suspendAt (s : State) (k : Susp) (rel : Bool) : Out :=
  if !s.counts.zero ∨ !s.cur.vq.isEmpty then .next (s.waiting .stall)
  else
    let s1 := if rel then s.releaseSlot else s
    .next (({ s1 with cur := { s1.cur with wait := .none, susp := k } } : State).happen s.vcn 0x02 1)

def execYield (s : State) : Out := s.suspendAt .yield false
def execYieldRel (s : State) : Out := s.suspendAt .yield true
def execSuspend (s : State) : Out := s.suspendAt .suspend false
def execSuspendRel (s : State) : Out := s.suspendAt .suspend true
/-- The core that the strand leaves stops its clock (R367). -/
def execIdle (s : State) : Out := s.suspendAt .idle false

/-- IFENCE empties the cluster's instruction cache and what the core has fetched (R368). -/
def execIfence (s : State) : Out :=
  if s.counts.stores ≠ 0 then .next (s.waiting .stall)
  else
    let s1 := s.advance
    .next { s1 with icache := s.icache.filter fun e => e.1 != s.pcn, cur := { s1.cur with line := none } }

end Sys2Proof.Machine
end

