-- ==== Sys2Proof/Machine/Int.lean ====
section
/-! DEFINITION. Integer registers and immediates, branches, jumps, LIM, LOOP and WID (R338 to R340, R346 to R349, R370, R371, R375, R376, R380, R381, R383, R459, R460). None but JALR traps. -/

namespace Sys2Proof.Machine

/-- sD := f(sA, sB), then the next head. -/
def State.op2 (s : State) (f : Word → Word → Word) (d a b : Reg) : Out := .next (s.result d (f (s.reg a) (s.reg b)))

/-- Two's-complement quotient truncated toward zero, with the fixed results of R339. -/
def divSigned (a b : Word) : Word := if b = 0 then -1 else BitVec.ofInt 64 (a.toInt.tdiv b.toInt)
def remSigned (a b : Word) : Word := if b = 0 then a else BitVec.ofInt 64 (a.toInt.tmod b.toInt)
def divUnsigned (a b : Word) : Word := if b = 0 then -1 else BitVec.ofNat 64 (a.toNat / b.toNat)
def remUnsigned (a b : Word) : Word := if b = 0 then a else BitVec.ofNat 64 (a.toNat % b.toNat)

/-- Shift counts are sB[5:0] (R381). -/
def shiftCount (b : Word) : Nat := b.toNat % 64

def ofBool (p : Bool) : Word := if p then 1 else 0

/-- Zero bits above the highest 1 and below the lowest 1 (R338), and the number of 1 bits (R380). -/
def clzWord (a : Word) : Word := BitVec.ofNat 64 (64 - bitLen a.toNat)
def ctzFrom (a : Nat) : Nat → Nat → Nat
  | 0, k => k
  | n + 1, k => if a / 2 ^ k % 2 = 1 then k else ctzFrom a n (k + 1)
def ctzWord (a : Word) : Word := BitVec.ofNat 64 (ctzFrom a.toNat 64 0)
def popWord (a : Word) : Word := BitVec.ofNat 64 ((List.range 64).foldl (fun n k => n + a.toNat / 2 ^ k % 2) 0)

def execAdd (d a b : Reg) (s : State) : Out := s.op2 (· + ·) d a b
def execSub (d a b : Reg) (s : State) : Out := s.op2 (· - ·) d a b
def execMul (d a b : Reg) (s : State) : Out := s.op2 (· * ·) d a b
def execMulh (d a b : Reg) (s : State) : Out := s.op2 (fun x y => BitVec.ofInt 64 (x.toInt * y.toInt / 2 ^ 64)) d a b
def execMulhu (d a b : Reg) (s : State) : Out := s.op2 (fun x y => BitVec.ofNat 64 (x.toNat * y.toNat / 2 ^ 64)) d a b
def execDiv (d a b : Reg) (s : State) : Out := s.op2 divSigned d a b
def execDivu (d a b : Reg) (s : State) : Out := s.op2 divUnsigned d a b
def execRem (d a b : Reg) (s : State) : Out := s.op2 remSigned d a b
def execRemu (d a b : Reg) (s : State) : Out := s.op2 remUnsigned d a b
def execAnd (d a b : Reg) (s : State) : Out := s.op2 (· &&& ·) d a b
def execOr (d a b : Reg) (s : State) : Out := s.op2 (· ||| ·) d a b
def execXor (d a b : Reg) (s : State) : Out := s.op2 (· ^^^ ·) d a b
def execShl (d a b : Reg) (s : State) : Out := s.op2 (fun x y => x <<< shiftCount y) d a b
def execShr (d a b : Reg) (s : State) : Out := s.op2 (fun x y => x >>> shiftCount y) d a b
def execSha (d a b : Reg) (s : State) : Out := s.op2 (fun x y => x.sshiftRight (shiftCount y)) d a b
def execSlt (d a b : Reg) (s : State) : Out := s.op2 (fun x y => ofBool (x.slt y)) d a b
def execSltu (d a b : Reg) (s : State) : Out := s.op2 (fun x y => ofBool (x.ult y)) d a b
def execMin (d a b : Reg) (s : State) : Out := s.op2 (fun x y => if y.slt x then y else x) d a b
def execMinu (d a b : Reg) (s : State) : Out := s.op2 (fun x y => if y.ult x then y else x) d a b
def execMax (d a b : Reg) (s : State) : Out := s.op2 (fun x y => if x.slt y then y else x) d a b
def execMaxu (d a b : Reg) (s : State) : Out := s.op2 (fun x y => if x.ult y then y else x) d a b
def execClz (d a : Reg) (s : State) : Out := .next (s.result d (clzWord (s.reg a)))
def execCtz (d a : Reg) (s : State) : Out := .next (s.result d (ctzWord (s.reg a)))
def execPopc (d a : Reg) (s : State) : Out := .next (s.result d (popWord (s.reg a)))
def execSel (d a b c : Reg) (s : State) : Out := .next (s.result d (if s.reg c ≠ 0 then s.reg a else s.reg b))

def sext16 (i : BitVec 16) : Word := i.signExtend 64

def execAddi (d a : Reg) (imm : BitVec 16) (s : State) : Out := .next (s.result d (s.reg a + sext16 imm))
def execAndi (d a : Reg) (imm : BitVec 16) (s : State) : Out := .next (s.result d (s.reg a &&& sext16 imm))
def execOri (d a : Reg) (imm : BitVec 16) (s : State) : Out := .next (s.result d (s.reg a ||| imm.zeroExtend 64))
def execXori (d a : Reg) (imm : BitVec 16) (s : State) : Out := .next (s.result d (s.reg a ^^^ sext16 imm))
def execShli (d a : Reg) (e : BitVec 6) (s : State) : Out := .next (s.result d (s.reg a <<< e.toNat))
def execShri (d a : Reg) (e : BitVec 6) (s : State) : Out := .next (s.result d (s.reg a >>> e.toNat))
def execShai (d a : Reg) (e : BitVec 6) (s : State) : Out := .next (s.result d ((s.reg a).sshiftRight e.toNat))
def execSlti (d a : Reg) (imm : BitVec 16) (s : State) : Out := .next (s.result d (ofBool ((s.reg a).slt (sext16 imm))))

/-- Bits p + w1 to p of a word, w1 one less than the width (R348). -/
def bitField (x : Word) (p w1 : Nat) : Nat := x.toNat / 2 ^ p % 2 ^ (w1 + 1)

def execBfx (d a : Reg) (p w1 : BitVec 6) (s : State) : Out :=
  .next (s.result d (BitVec.ofInt 64 (sextInt (w1.toNat + 1) (bitField (s.reg a) p.toNat w1.toNat))))
def execBfxu (d a : Reg) (p w1 : BitVec 6) (s : State) : Out :=
  .next (s.result d (BitVec.ofNat 64 (bitField (s.reg a) p.toNat w1.toNat)))
/-- BFI keeps the other bits of sD (R349). -/
def execBfi (d a : Reg) (p w1 : BitVec 6) (s : State) : Out :=
  let m : Word := BitVec.ofNat 64 ((2 ^ (w1.toNat + 1) - 1) * 2 ^ p.toNat)
  .next (s.result d ((s.reg d &&& ~~~m) ||| ((s.reg a <<< p.toNat) &&& m)))

/-- WID reads the header of the running kernel; a handler has none (R459). -/
def widValue (h : Header) (x : Word) (i : Nat) : WidKind → Word
  | .field => BitVec.ofNat 64 (x.toNat / 2 ^ (h.widths.take i).sum % 2 ^ h.widths.getD i 0)
  | .group => BitVec.ofNat 64 (x.toNat / 2 ^ (h.widths.take i).sum)
  | .extent => BitVec.ofNat 64 (h.extents.getD i 1)
  | .pos => BitVec.ofNat 64 (h.widths.take i).sum

def execWid (d a : Reg) (i : Fin 6) (k : WidKind) (s : State) : Out :=
  .next (s.result d (match s.kernelHere with | some kn => widValue kn.hdr (s.reg a) i.val k | none => 0))

/-- A taken branch goes to its target; the target line is checked when it is entered (R347). -/
def State.branch (s : State) (taken : Bool) (imm : BitVec 16) : Out :=
  .next (if taken then s.jump (target16 s.cur.pc imm) (imm.extractLsb' 0 5 == 31) else s.advance)

def execBeq (a b : Reg) (imm : BitVec 16) (s : State) : Out := s.branch (s.reg a == s.reg b) imm
def execBne (a b : Reg) (imm : BitVec 16) (s : State) : Out := s.branch (s.reg a != s.reg b) imm
def execBlt (a b : Reg) (imm : BitVec 16) (s : State) : Out := s.branch ((s.reg a).slt (s.reg b)) imm
def execBge (a b : Reg) (imm : BitVec 16) (s : State) : Out := s.branch (!(s.reg a).slt (s.reg b)) imm
def execBltu (a b : Reg) (imm : BitVec 16) (s : State) : Out := s.branch ((s.reg a).ult (s.reg b)) imm
def execBgeu (a b : Reg) (imm : BitVec 16) (s : State) : Out := s.branch (!(s.reg a).ult (s.reg b)) imm

/-- LOOP counts sD down and branches while it is not zero (R376); with s0 the written value is discarded, and the branch tests what was computed. -/
def execLoop (d : Reg) (imm : BitVec 16) (s : State) : Out :=
  let v := s.reg d - 1
  (s.setReg d v).branch (v != 0) imm

def execJmp (imm : BitVec 32) (s : State) : Out := .next (s.jump (target32 s.cur.pc imm) (imm.extractLsb' 0 5 == 31))
def execJal (d : Reg) (imm : BitVec 32) (s : State) : Out :=
  .next ((s.setReg d (s.nextPc.zeroExtend 64)).jump (target32 s.cur.pc imm) (imm.extractLsb' 0 5 == 31))

/-- JALR checks bits [5:0] of its target, then bits [63:56], before it links (R107, R371). -/
def execJalr (d a : Reg) (s : State) : Out :=
  let t := s.reg a
  if bitsOf t 0 0 = 1 ∨ bitsOf t 5 1 = 0 then .next (s.raise 0x02 0x06 t)
  else if bitsOf t 63 56 ≠ 0 then .next (s.raise 0x03 0x05 t)
  else .next ((s.setReg d (s.nextPc.zeroExtend 64)).jump (t.truncate 56))

/-- LIM (R375). -/
def execLim (hi : Bool) (d : Reg) (imm : BitVec 32) (s : State) : Out :=
  .next (s.result d (if hi then imm ++ (s.reg d).extractLsb' 0 32 else imm.signExtend 64))

end Sys2Proof.Machine
end

