-- ==== Sys2Proof/Machine/RowMem.lean ====
section
/-! DEFINITION. Row memory: VLD, VLDS, VST, VGATH, VSCAT (R444, R445, R447 to R449). They leave the vector queue at once, for the core's memory port. -/

namespace Sys2Proof.Machine

/-! Addresses. -/

/-- Check a range of n bytes from an address, aligned to al, in targets that ok admits (R332). size: the bytes of the access that it is part of. -/
def State.checkRange (s : State) (k : AKind) (need : Need) (ok : Loc → Bool) (a : Int) (n al : Nat) (size : Nat := n) : Except Fail (List Seg) :=
  if a < 0 ∨ (2 ^ 56 : Nat) < a + n then .error { cause := 0x03, sub := 0x05, addr := BitVec.ofInt 64 a }
  else if a.toNat % al ≠ 0 then .error { cause := 0x03, sub := 0x01, addr := BitVec.ofInt 64 a }
  else
    match s.xlateAll s.agent s.asid s.vcn s.pos need (pagePieces (n + 1) a.toNat n) with
    | .error f => .error f
    | .ok segs =>
      match segs.find? fun g => !ok g.loc with
      | some g => .error { cause := 0x03, sub := 0x02, addr := g.va.zeroExtend 64 }
      | none =>
        match s.firstRefusal s.pcn s.holdsSlot k size segs with
        | some f => .error f
        | none => .ok segs

/-- Check several ranges in this order; the pieces of each, with its number. -/
def State.checkRanges (s : State) (k : AKind) (need : Need) (ok : Loc → Bool) (n al : Nat) (l : List (Nat × Int)) (size : Nat := n) : Except Fail (List (Nat × List Seg)) :=
  match l with
  | [] => .ok []
  | (i, a) :: t =>
    match s.checkRange k need ok a n al size with
    | .error f => .error f
    | .ok segs =>
      match s.checkRanges k need ok n al t size with
      | .error f => .error f
      | .ok r => .ok ((i, segs) :: r)

/-- Pieces all in the own slot are moved at once, in order with the strand's rows (R92). -/
def inOwnSlot (segs : List Seg) : Bool := (segs.flatMap Seg.atSlots).all Seg.inSlots

/-- Row memory operations stand in the vector queue with the row operations, and leave it in their order, for the core's memory port (R248, R428): one issues when no older operation waits there. -/
def State.portBusy (s : State) : Bool := !s.cur.vq.isEmpty

/-- The bytes of the pieces that lie in the own slot, as they stand; none for each byte that lies elsewhere. -/
def slotBytesOf (m : Nat → Nat → List Byte) : List Seg → List (Option Byte)
  | [] => []
  | g :: t =>
    (match g.inSlots, g.loc with
     | true, .core _ _ off _ => (m off g.n).map some
     | _, _ => List.replicate g.n none) ++ slotBytesOf m t

/-- Where the bytes of a row come from, with the pieces in the own slot taken out: those bytes, and the indexes among the others. -/
def splitFrom (known : List (Option Byte)) (from_ : List (Option Nat)) : List (Option Byte) × List (Option Nat) :=
  (from_.map fun o => o.bind fun k => known.getD k none,
   from_.map fun o => o.bind fun k => if (known.getD k none).isSome then none else some ((known.take k).countP Option.isNone))

/-- Read pieces into a row: into the bypass and the tile register, or, transient, into the bypass. What lies in the own slot is read at once (R92); the rest comes with the response. -/
def State.loadRow (s : State) (segs : List Seg) (x : Bool) (rd : RowId) (from_ : List (Option Nat)) : Out :=
  if s.portBusy ∨ s.slotBusy segs then .next (s.waiting .stall)
  else s.withSlot fun t =>
    if t.full true [] then .next (t.waiting .stall)
    else if inOwnSlot segs then
      match t.readSegs segs with
      | .ok bs => .next (t.deliverWith t.cur.pc (.row rd x from_) .load bs 0).advance
      | .error f => .next (t.asyncHere f.cause f.sub f.addr).advance
    else
      let gs := segs.flatMap Seg.atSlots
      let mine := gs.filter Seg.inSlots
      match t.readSegs mine with
      | .error f => .next (t.asyncHere f.cause f.sub f.addr).advance
      | .ok _ =>
        if mine.isEmpty then .next (t.issue .load segs [] (.row rd x from_)).advance
        else
          let known := slotBytesOf (fun off n => t.mem.read (coreBase t.pcn t.pos + off) n) gs
          .next (t.issue .load (gs.filter fun g => !g.inSlots) [] (.row rd x (splitFrom known from_).2 (splitFrom known from_).1)).advance

/-- Byte i of a row lies in an active slot of the 4-byte mask (R427). -/
def byteActive (c : Reg) (mask : Word) (i : Nat) : Bool := active c mask 64 (i / 4)

def rowBytesFrom (c : Reg) (mask : Word) : List (Option Nat) := (List.range 256).map fun i => if byteActive c mask i then some i else none

def execVld (x : Bool) (w : BitVec 2) (a c : Reg) (rd : RowId) (disp : BitVec 16) (s : State) : Out :=
  if s.classBusy w then .next (s.waiting .stall)
  else
    match s.checkRange .load .rd (fun _ => true) ((s.reg a).toNat + disp16 disp) 256 8 with
    | .error f => .next (s.raiseFail f)
    | .ok segs => s.loadRow segs x rd (rowBytesFrom c (s.reg c))

/-- The pieces in the order of their numbers, 0 to n − 1. -/
def inOrder (n : Nat) (ps : List (Nat × List Seg)) : List Seg := (List.range n).flatMap fun i => (ps.lookup i).getD []

def execVlds (x : Bool) (w : BitVec 2) (a b c : Reg) (rd : RowId) (disp : BitVec 16) (s : State) : Out :=
  if s.classBusy w then .next (s.waiting .stall)
  else
    let base : Int := (s.reg a).toNat + disp16 disp
    let stride := (s.reg b).toInt
    if stride % 8 ≠ 0 then .next (s.raise 0x03 0x01 (BitVec.ofInt 64 base))
    else
      let words : List (Nat × Int) := (List.range 32).map fun j => (j, base + j * stride)
      let asc := if stride < 0 then words.reverse else words
      -- an 8-byte word of TT 0x4 or 0x5 is refused as the row access that it is part of
      match s.checkRanges .load .rd (fun _ => true) 8 8 asc 256 with
      | .error f => .next (s.raiseFail f)
      | .ok ps => s.loadRow (inOrder 32 ps) x rd (rowBytesFrom c (s.reg c))

/-- Send a row's bytes: those for the own slot are written at once, in order with the strand's rows (R92). -/
def State.storeRow (s : State) (segs : List Seg) : Out :=
  if s.portBusy ∨ s.slotBusy segs then .next (s.waiting .stall)
  else if inOwnSlot segs then .next (s.slotStore segs).advance
  else if segs.any Seg.inSlots then
    let gs := segs.flatMap Seg.atSlots
    s.sendWrite .store (gs.filter fun g => !g.inSlots) .none false fun t => t.slotStore (gs.filter Seg.inSlots)
  else s.sendWrite .store segs .none false

def execVst (w : BitVec 2) (a c : Reg) (rd : RowId) (disp : BitVec 16) (s : State) : Out :=
  if s.classBusy w then .next (s.waiting .stall)
  else
    match s.checkRange .store .wr (fun _ => true) ((s.reg a).toNat + disp16 disp) 256 8 with
    | .error f => .next (s.raiseFail f)
    | .ok segs =>
      let bs := (rowBytes (s.row rd)).mapIdx fun i b => if byteActive c (s.reg c) i then some b else none
      s.storeRow (withData segs bs)

/-! Gather and scatter. -/

/-- The active elements of an index row with their addresses (R444). -/
def State.elemAddrs (s : State) (f : Fmt) (a c : Reg) (rb : RowId) (disp : BitVec 16) : List (Nat × Int) :=
  let w := f.bits
  let base : Int := (s.reg a).toNat + disp16 disp
  ((rowElems (s.row rb) w).zipIdx.filter fun p => active c (s.reg c) (perRow w) p.2).map fun p => (p.2, base + p.1 * (w / 8 : Nat))

/-- The targets of R445. -/
def gatherTarget : Loc → Bool
  | .event .. | .window _ => false
  | _ => true

/-- For each byte of the row, the loaded byte that replaces it: element i is the k-th that was loaded. -/
def gatherFrom (n : Nat) (idx : List Nat) : List (Option Nat) :=
  (List.range 256).map fun b => (idx.findIdx? (· == b / n)).map fun k => k * n + b % n

def execVgath (x : Bool) (w : BitVec 2) (f : Fmt) (a c : Reg) (rd rb : RowId) (disp : BitVec 16) (s : State) : Out :=
  if s.classBusy w then .next (s.waiting .stall)
  else
    let n := f.bits / 8
    let es := s.elemAddrs f a c rb disp
    match s.checkRanges .load .rd gatherTarget n n es with
    | .error f => .next (s.raiseFail f)
    | .ok ps => s.loadRow (ps.flatMap fun p => p.2) x rd (gatherFrom n (es.map fun e => e.1))

/-- The part of R222 that holds an element, whole (R445). -/
def State.scatPart (s : State) (g : Seg) : List Part :=
  if loggedAt (s.log s.asid).mode g.loc then
    let p := s.flatOf g.loc
    let u := match g.loc with | .cluster .. => 32 | .chiplet .. => 64 | _ => 8
    [partAt g p (p / u * u) u]
  else []

/-- The elements of a scatter whose words it writes whole, all together (R472). -/
def State.wholeWords (s : State) (segs : List Seg) : List Seg :=
  let hit : Nat → Bool := fun b => segs.any fun g => decide (s.flatOf g.loc ≤ b) && decide (b < s.flatOf g.loc + g.n)
  segs.map fun g => { g with whole := (List.range 8).all fun i => hit (s.flatOf g.loc / 8 * 8 + i) }

/-- The elements of a scatter issue, each an access of its own; together they count once in STORES, and once in each class (R445). -/
def State.issueElements (s : State) (segs : List Seg) : State :=
  if segs.isEmpty then s
  else
    { (s.setCounts fun c => c.issue false (s.classes segs)) with
      flight := s.flight ++ segs.mapIdx fun i g =>
        { s.newAccess .store [g] (s.classes [g]) .none (s.segsReq [g]) with id := s.nextId + i, group := some s.nextId }
      nextId := s.nextId + segs.length }

def execVscat (w : BitVec 2) (f : Fmt) (a c : Reg) (rd rb : RowId) (disp : BitVec 16) (s : State) : Out :=
  if s.classBusy w then .next (s.waiting .stall)
  else
    let n := f.bits / 8
    let es := s.elemAddrs f a c rb disp
    match s.checkRanges .store .wr gatherTarget n n es with
    | .error f => .next (s.raiseFail f)
    | .ok ps =>
      let segs := ps.flatMap fun p => p.2.map fun g =>
        let h := { g with data := (toLe n (rowElem (s.row rd) f.bits p.1)).map some }
        { h with parts := s.scatPart h }
      if s.portBusy ∨ s.slotBusy segs then .next (s.waiting .stall)
      else if inOwnSlot segs then .next (s.slotStore segs).advance
      else
        let out := segs.filter fun g => !g.inSlots
        if s.full false (s.classes out) then .next (s.waiting .stall)
        else
          match s.reserve s.asid (s.segsReq out) with
          | none => .next (s.raise 0x09 0x03)
          | some s1 => .next ((s1.slotStore (segs.filter Seg.inSlots)).issueElements (s1.wholeWords out)).advance

end Sys2Proof.Machine
end

