-- ==== Sys2Proof/Machine/Side.lean ====
section
/-! DEFINITION. The side-band: MCTP control, PLDM sensors, SPDM attestation, vendor-defined requests (R272, R296 to R298, R314, R315). Replies stand as bytes in `replies`; their framing is the model's (log 60). -/

namespace Sys2Proof.Machine

/-! MCTP control. -/

/-- ENDPOINT_ID_ASSIGNMENT. -/
def execEndpointIdAssignment (eid : Nat) (s : State) : Out := .next (({ s with trust := { s.trust with eid := eid % 256 } } : State).reply [BitVec.ofNat 8 eid])

/-- VERSION_DISCOVERY: the versions are not stated, and free. -/
def execVersionDiscovery (s : State) : Out :=
  let (w, s1) := s.free
  .next (s1.reply (wordLe w))

/-- MESSAGE_TYPE_DISCOVERY: the codes of MCTP control, PLDM, SPDM, and vendor-defined messages. -/
def execMessageTypeDiscovery (s : State) : Out := .next (s.reply [0x00, 0x01, 0x05, 0x7E])

/-! PLDM. -/

/-- The dies in the order of their temperature sensors. -/
def sensorDies : List Nat := List.range 48 ++ (List.range 24).map (fun h => 0x100 + h) ++ [0x200, 0x201, 0x202]

/-- NUMERIC_SENSOR_READ: 0 package power, 1 to 75 die temperatures, 76 RISK, 77 to 92 the states of the ports; a die that is lost is reported as such. -/
def execNumericSensorRead (sensor : Nat) (s : State) : Out :=
  if sensor = 76 then .next (s.reply (0 :: toLe 8 s.hostIf.risk))
  else if 77 ≤ sensor ∧ sensor < 93 then .next (s.reply (0 :: toLe 8 (s.ports.getD (sensor - 77) {}).st))
  else if sensor < 76 then
    let gone := decide (1 ≤ sensor) && s.lostDies.contains (sensorDies.getD (sensor - 1) 0)
    let (w, s1) := s.free
    .next (s1.reply ((if gone then 1 else 0) :: wordLe w))
  else .next s

/-! SPDM (R297, R314, R315). -/

/-- An attestation is answered: the trust die is not hot, the part is not RETURNED; after a failed boot the answer is the failing slot (R313), but for slot 7, which can still be read (R328). -/
def State.attest (s : State) (bs : List Byte) (always : Bool := false) : State :=
  if s.trust.hot || s.fuses.lifecycle == 2 then s
  else
    match s.trust.bootFail with
    | some k => if always then s.reply bs else s.reply [BitVec.ofNat 8 k]
    | none => s.reply bs

def bytesOf256 (d : BitVec 256) : List Byte := toLe 32 d.toNat

/-- A measurement slot. -/
def State.measurement (s : State) (slot : Nat) : BitVec 256 :=
  let rom : Nat → List Byte := fun d => bytesOf256 (Config.romDigest d)
  match slot with
  | 1 => Config.romDigest 0x202
  | 2 => Config.romDigest 0x200
  | 3 => Config.romDigest 0x201
  | 4 => shake256 ((List.range 48).flatMap fun c => if s.trust.absent.contains c then List.replicate 32 0 else rom c)
  | 5 => shake256 ((List.range 24).flatMap fun h => rom (0x100 + h))
  | 6 =>
    shake256 (((List.range 48).flatMap fun c => toLe 8 (s.fuses.pres.getD c (2 ^ 64 - 1))) ++ ((List.range (48 * 64)).flatMap fun p => toLe 1 (s.liveMask p))
      ++ toLe 1 s.fuses.stepping)
  | _ => shake256 ([BitVec.ofNat 8 s.fuses.lifecycle, if s.panelDebug then 1 else 0] ++ (if s.trust.debugOpen then bytesOf256 s.trust.tokenDigest else []))

/-- GET_VERSION: SPDM 1.3. -/
def execGetVersion (s : State) : Out := .next (s.attest [0x13])

/-- GET_CAPABILITIES: the flags are not stated, and free. -/
def execGetCapabilities (s : State) : Out :=
  let (w, s1) := s.free
  .next (s1.attest (wordLe w))

/-- NEGOTIATE_ALGORITHMS: ML-DSA-65 with SHAKE256 alone. -/
def execNegotiateAlgorithms (mlDsa shake : Bool) (s : State) : Out :=
  if mlDsa && shake && !s.trust.hot && s.fuses.lifecycle != 2 then .next (({ s with trust := { s.trust with negotiated := true } } : State).attest [1])
  else .next (s.attest [0])

/-- GET_DIGESTS. -/
def execGetDigests (s : State) : Out := .next (s.attest (bytesOf256 (shake256 Config.certificate)))

/-- GET_CERTIFICATE. -/
def execGetCertificate (s : State) : Out := .next (s.attest Config.certificate)

/-- CHALLENGE: signed by the identity key. -/
def execChallenge (nonce : List Byte) (s : State) : Out := .next (s.attest (Config.identitySign nonce))

/-- GET_MEASUREMENTS of a slot, signed by the identity key. -/
def execGetMeasurements (slot : Nat) (nonce : List Byte) (s : State) : Out :=
  if 1 ≤ slot ∧ slot ≤ 7 then
    let m := bytesOf256 (s.measurement slot)
    .next (s.attest (m ++ Config.identitySign (nonce ++ m)) (slot == 7))
  else .next (s.attest [])

/-! Vendor-defined requests (R297). -/

/-- A hot trust die answers none of these (R329); after a failed boot the answer is the failing slot (R313). -/
def State.vendor (s : State) (f : State → State) : Out :=
  .next (if s.trust.hot then s else match s.trust.bootFail with
    | some k => s.reply [BitVec.ofNat 8 k]
    | none => f s)

/-- REGRD; an access of another size has no answer. -/
def execRegrd (off n : Nat) (s : State) : Out :=
  s.vendor fun s => match s.readBlock .side off n with | some bs => s.reply bs | none => s

/-- The registers that REGWR reaches: QCTL, RISKIRQ, ERRHEAD, the side-band's mailbox. -/
def sideWrites (off : Nat) : Bool :=
  (decide (0x10000 ≤ off) && decide (off < 0x20000) && off % 0x40 == 0x08) || off == 0x20 || off == 0x30000 || (decide (0x40 ≤ off) && decide (off < 0x70))

/-- REGWR. -/
def execRegwr (off : Nat) (v : Word) (s : State) : Out := s.vendor fun s => if sideWrites off then s.writeReg .side off v else s

/-- SIDEBAND_MAPRD. -/
def execSidebandMaprd (vcn : Nat) (s : State) : Out := s.vendor fun s => s.reply (wordLe (entryWord (s.mapNow (vcn % 4096)) s.mapSeq))

/-- ERRRD of a record that the ring holds. -/
def execErrrd (idx : Nat) (s : State) : Out :=
  s.vendor fun s =>
    let h := s.hostIf
    if idx < h.errTail ∧ h.errTail ≤ idx + 256 then s.reply (h.errRing.getD (idx % 256) []) else s

/-- UNSUPPORTED_MESSAGE is discarded. -/
def execUnsupportedMessage (_ty : Nat) (s : State) : Out := .next s

end Sys2Proof.Machine
end

