-- ==== Sys2Proof/Machine/Pmc.lean ====
section
/-! DEFINITION. The performance counters of a virtual cluster (R326, R327): what they count, and when. -/

namespace Sys2Proof.Machine

/-- A counter counts events of a code. -/
def Pmc.counts (p : Pmc) (code : Nat) : Bool := p.cfg.getLsbD 8 && (p.cfg.extractLsb' 0 8).toNat == code && decide (1 ≤ code) && decide (code ≤ 0x0C)

/-- Counter i takes n events: it wraps, sets OVF, and signals its line where SIGEN is set. -/
def State.countPmc (s : State) (v i n : Nat) : State :=
  let x := s.vc v
  let p := x.pmc.getD i {}
  let sum := p.cnt.toNat + n
  let y := { x with pmc := x.pmc.set i { p with cnt := BitVec.ofNat 48 sum } }
  if 2 ^ 48 ≤ sum then
    let s1 := s.setVc v { y with pmOvf := x.pmOvf ||| BitVec.ofNat 8 (2 ^ i) }
    if p.cfg.getLsbD 9 then s1.addSignals v (p.cfg.extractLsb' 10 5).toNat 1 else s1
  else s.setVc v y

/-- The counters of a virtual cluster take n events of a code. -/
def State.countEvents (s : State) (v code n : Nat) : State :=
  (List.range 8).foldl (fun s i => if ((s.vc v).pmc.getD i {}).counts code then s.countPmc v i n else s) s

/-- The codes whose events a step of the model makes (State.happen). -/
def steppedCodes : List Nat := [0x02, 0x03, 0x04, 0x06, 0x07, 0x08, 0x09, 0x0B, 0x0C]

/-- No event of a virtual cluster is left to count. -/
def State.clearDue (s : State) (v : Nat) : State := { s with events := s.events.filter fun e => e.1 / 16 != v }

/-- The counters take all events that have happened before, as an access to one of them finds it (R327). -/
def State.countDue (s : State) (v : Nat) : State := (steppedCodes.foldl (fun t code => t.countEvents v code (s.due v code)) s).clearDue v

/-- COUNT of counter i with the events that have happened, before it wraps. -/
def State.pmcSum (s : State) (v i : Nat) : Nat :=
  let p := (s.vc v).pmc.getD i {}
  p.cnt.toNat + ((steppedCodes.filter p.counts).map (s.due v)).sum

/-- PMOVF with the wraps of those events. -/
def State.pmcOvf (s : State) (v : Nat) : BitVec 8 :=
  (List.range 8).foldl (fun w i => if 2 ^ 48 ≤ s.pmcSum v i then w ||| BitVec.ofNat 8 (2 ^ i) else w) (s.vc v).pmOvf

/-- n events of a code may be counted now: so many have happened; clocks pass, and misses of the translation caches come, while the virtual cluster is resident; and accesses wait at a hold table while one does. How many clocks or misses they are is free (log 67). -/
def State.countable (s : State) (v code n : Nat) : Bool :=
  if code = 0x01 ∨ code = 0x0A then s.ctxs.any fun e => e.2.hasVcn v && e.2.resident
  else if code = 0x05 then s.flight.any fun a => a.vcn == v && a.stage == .held
  else decide (code ≤ 0x0C) && decide (n ≤ s.due v code)

/-- PMC_EVENT: n events of a code are counted (R326). -/
def execPmcEvent (vcn code n : Nat) (s : State) : Out :=
  if !s.countable vcn code n then .next s
  else .next (({ s with events := if s.due vcn code = 0 then s.events else s.events.set (eventKey vcn code) (s.due vcn code - n) } : State).countEvents vcn code n)

end Sys2Proof.Machine
end

