-- ==== Sys2Proof/Machine/System.lean ====
section
/-! DEFINITION. System instructions: TRAP, CSRs, ASGEN, MAPRD, TREC (R178, R220, R221, R326, R345, R351 to R353, R378, R420, R421). -/

namespace Sys2Proof.Machine

def execTrap (a : Reg) (s : State) : Out := .next (s.raiseAfter 0x0C (bitsOf (s.reg a) 7 0) (s.reg a))

/-- MAPRD reads the own router's copy of the map (R378). -/
def execMaprd (d a : Reg) (s : State) : Out :=
  let v := bitsOf (s.reg a) 11 0
  let q := s.seqAt s.pcn
  let mine := ((s.ctx? s.asid).map fun c => c.hasVcn v).getD false
  .next (s.answer d (if mine then entryWord (s.entryAt s.pcn v) q else BitVec.ofNat 64 (q.toNat * 2 ^ 32)))

/-- TREC seals the window, then hands its record over (R421). -/
def execTrec (a b : Reg) (s : State) : Out :=
  match s.sealWindow none with
  | .full => .next (s.raise 0x09 0x03)
  | .refused s1 t => .next (s1.pend t).advance
  | .done s1 =>
    let x := s.cur.str
    let s2 := match s.queueOf x with
      | some q => s1.traceTo q s.chipHere (traceRecord 0x03 x.vcn x.recIdx s.timeHere (s.reg a).toNat (s.reg b).toNat)
      | none => s1
    .next s2.advance

/-! CSRs (R220, R326, R352). -/

inductive Csr where
  | undoctl | logbase | loghead | logtail | uwnext
  | pmcfg (i : Nat) | pmcnt (i : Nat) | pmovf
  deriving DecidableEq, Repr

def csrOf (n : Nat) : Option Csr :=
  if n = 0x0100 then some .undoctl else if n = 0x0101 then some .logbase else if n = 0x0102 then some .loghead
  else if n = 0x0103 then some .logtail else if n = 0x0104 then some .uwnext
  else if 0x0200 ≤ n ∧ n ≤ 0x0207 then some (.pmcfg (n - 0x0200))
  else if 0x0208 ≤ n ∧ n ≤ 0x020F then some (.pmcnt (n - 0x0208))
  else if n = 0x0210 then some .pmovf
  else none

/-- CSRR of these is refused outside a handler (R352). -/
def Csr.priv : Csr → Bool
  | .logbase | .loghead => true
  | _ => false

def UndoLog.ctlWord (l : UndoLog) : Nat := l.mode % 4 + bit l.recycle 2 + l.logsz % 64 * 2 ^ 8

def State.csrValue (s : State) (c : Csr) : Word :=
  let l := s.log s.asid
  let v := s.vc s.vcn
  BitVec.ofNat 64 (match c with
    | .undoctl => l.ctlWord
    | .logbase => l.base.toNat
    | .loghead => l.head % 2 ^ 40
    | .logtail => l.tail % 2 ^ 40
    | .uwnext => l.next.toNat
    | .pmcfg i => (v.pmc.getD i {}).cfg.toNat
    | .pmcnt i => s.pmcSum s.vcn i % 2 ^ 48
    | .pmovf => (s.pmcOvf s.vcn).toNat)

def execCsrr (d a : Reg) (s : State) : Out :=
  let n := bitsOf (s.reg a) 15 0
  match csrOf n with
  | none => .next (s.raise 0x03 0x02 (BitVec.ofNat 64 n))
  | some c => if c.priv && !s.handler then .next (s.raise 0x01 0x04) else .next (s.answer d (s.csrValue c))

/-- The current windows of a context's strands in these states take a new one. -/
def State.setWins (s : State) (asid : Nat) (from_ : List WinState) (st : WinState) : State :=
  (s.allStrands.filter fun e => e.2.asid == asid && from_.contains e.2.window.st).foldl (fun s e => s.setWin e.1 st) s

/-- The ring is emptied and every window TRUNCATED (R221). -/
def State.emptyRing (s : State) (asid : Nat) : State :=
  (s.setWins asid [.opened, .fixed] .truncated).modLog asid fun l =>
    { l with head := 0, tail := 0, used := 0, skip := [], wins := [], fills := [], places := [], opens := [], lost := true
             writers := l.writers.map fun e => (e.1, { e.2 with chunk := none, fill := 0 }) }

/-- The LOGSZ that a write of UNDOCTL leaves (R220). -/
def UndoLog.newSize (l : UndoLog) (w : Word) : Nat := if 16 ≤ bitsOf w 13 8 ∧ bitsOf w 13 8 ≤ 40 then bitsOf w 13 8 else l.logsz

/-- A write of UNDOCTL (R220, R221). -/
def State.writeUndoctl (s : State) (asid : Nat) (w : Word) : State :=
  let l := s.log asid
  let mode := if bitsOf w 1 0 = 3 then l.mode else bitsOf w 1 0
  let sz' := l.newSize w
  let s1 := if mode < l.mode then s.setWins asid [.opened] .fixed else s
  let s2 := if sz' ≠ l.logsz then s1.emptyRing asid else s1
  s2.modLog asid fun l => { l with mode := mode, recycle := bitsOf w 2 2 == 1, logsz := sz' }

/-- A write of LOGBASE (R221). -/
def State.writeLogbase (s : State) (asid : Nat) (w : Word) : State :=
  let b : BitVec 56 := w.truncate 56
  if b = (s.log asid).base then s else (s.emptyRing asid).modLog asid fun l => { l with base := b }

/-- A write of LOGHEAD frees whole chunks between the head and the tail (R221). -/
def State.writeLoghead (s : State) (asid : Nat) (w : Word) : State :=
  let l := s.log asid
  let v := bitsOf w 39 0
  if v % chunkSize ≠ 0 ∨ l.size ≤ v then s
  else if v = l.tail then s.freeChunksFrom asid (l.used / chunkSize)
  else
    let d := (v + l.size - l.head) % l.size
    if d ≤ l.used then s.freeChunksFrom asid (d / chunkSize) else s

/-- Event codes (R326). -/
def pmEventOk (n : Nat) : Bool := decide (1 ≤ n) && decide (n ≤ 0x0C)

def Pmc.writeCfg (p : Pmc) (w : Word) : Pmc :=
  let ev := bitsOf w 7 0
  { p with cfg := BitVec.ofNat 15 ((if pmEventOk ev then ev else p.cfg.toNat % 256) + bitsOf w 14 8 * 2 ^ 8) }

/-- Write a CSR. A counter register takes the value once the events before it have been counted (R327). -/
def State.csrWrite (s : State) (c : Csr) (w : Word) : State :=
  let u := s.countDue s.vcn
  let v := u.vc s.vcn
  match c with
  | .undoctl => s.writeUndoctl s.asid w
  | .logbase => s.writeLogbase s.asid w
  | .loghead => s.writeLoghead s.asid w
  | .logtail | .uwnext => s
  | .pmcfg i => u.setVc s.vcn { v with pmc := v.pmc.set i ((v.pmc.getD i {}).writeCfg w) }
  | .pmcnt i => u.setVc s.vcn { v with pmc := v.pmc.set i { v.pmc.getD i {} with cnt := w.truncate 48 } }
  | .pmovf => u.setVc s.vcn { v with pmOvf := v.pmOvf &&& ~~~(w.truncate 8) }

def Csr.perContext : Csr → Bool
  | .pmcfg _ | .pmcnt _ | .pmovf => false
  | _ => true

/-- The write moves the ring or changes its size. -/
def UndoLog.ringChanges (l : UndoLog) (c : Csr) (w : Word) : Bool :=
  match c with
  | .undoctl => l.newSize w != l.logsz
  | .logbase => w.truncate 56 != l.base
  | _ => false

/-- Logged writes of a context have issued whose entries no log writer has taken. -/
def State.entriesDue (s : State) (asid : Nat) : Bool :=
  s.flight.any (fun a => a.asid == asid && !a.rsv.isEmpty && !a.stage.past) ||
    s.engines.any (fun e => e.asid == asid && !e.moved && e.moves.any fun m => !m.dst.parts.isEmpty) ||
    s.tiles.any fun r => r.asid == asid && r.st != .faulted && !r.rsv.isEmpty

/-- CSRW: a write that moves or resizes the ring waits for the entries of the writes that issued before it, for which the ring stays as it is (R221); DESIGN CHOICE (log 170). A context CSR takes its value at the command processor, and the strand stands until every log writer holds it (R353). -/
def execCsrw (a b : Reg) (s : State) : Out :=
  let n := bitsOf (s.reg a) 15 0
  match csrOf n with
  | none => .next (s.raise 0x03 0x02 (BitVec.ofNat 64 n))
  | some c =>
    if (s.log s.asid).ringChanges c (s.reg b) && s.entriesDue s.asid then .next (s.waiting .stall) else
    let s1 := s.csrWrite c (s.reg b)
    if c.perContext then
      let s2 := s1.modCtx s.asid fun c => { c with csrws := c.csrws ++ [s.cur.run.getD 0] }
      .next { s2 with cur := { s2.cur with gate := .unit, wait := .stall } }
    else .next s1.advance

/-- ASGEN: one at a time for a context; the strand stands until it completes (R178, R345). -/
def execAsgen (d : Reg) (s : State) : Out :=
  let first := ((s.ctx? s.asid).map fun c => c.asgens.isEmpty).getD true
  let s1 := if first then s.raiseGen s.asid else s
  let s2 := s1.modCtx s.asid fun c => { c with asgens := c.asgens ++ [.strand (s.cur.run.getD 0) d] }
  .next { s2 with cur := { s2.cur with gate := .unit, wait := .stall } }

end Sys2Proof.Machine
end

