-- ==== Sys2Proof/Machine/Dispatch.lean ====
section
/-! DEFINITION. One arm per constructor of Instr: a direct call of its meaning, or its rejection by name. -/

namespace Sys2Proof.Machine

def exec (i : Instr) (s : State) : Host.Outcome State Fault Refusal :=
  match i with
  | .nop => Sys2Proof.Machine.execNop s
  | .exit => Sys2Proof.Machine.execExit s
  | .yield => Sys2Proof.Machine.execYield s
  | .yieldRel => Sys2Proof.Machine.execYieldRel s
  | .suspend => Sys2Proof.Machine.execSuspend s
  | .suspendRel => Sys2Proof.Machine.execSuspendRel s
  | .pin => Sys2Proof.Machine.execPin s
  | .quiet => Sys2Proof.Machine.execQuiet s
  | .brk n => Sys2Proof.Machine.execBrk n s
  | .tack => Sys2Proof.Machine.execTack s
  | .tretResume => Sys2Proof.Machine.execTretResume s
  | .tretAbandon => Sys2Proof.Machine.execTretAbandon s
  | .idle => Sys2Proof.Machine.execIdle s
  | .uwseal => Sys2Proof.Machine.execUwseal s
  | .ifence => Sys2Proof.Machine.execIfence s
  | .add d a b => Sys2Proof.Machine.execAdd d a b s
  | .sub d a b => Sys2Proof.Machine.execSub d a b s
  | .mul d a b => Sys2Proof.Machine.execMul d a b s
  | .mulh d a b => Sys2Proof.Machine.execMulh d a b s
  | .mulhu d a b => Sys2Proof.Machine.execMulhu d a b s
  | .div d a b => Sys2Proof.Machine.execDiv d a b s
  | .divu d a b => Sys2Proof.Machine.execDivu d a b s
  | .rem d a b => Sys2Proof.Machine.execRem d a b s
  | .remu d a b => Sys2Proof.Machine.execRemu d a b s
  | .and d a b => Sys2Proof.Machine.execAnd d a b s
  | .or d a b => Sys2Proof.Machine.execOr d a b s
  | .xor d a b => Sys2Proof.Machine.execXor d a b s
  | .shl d a b => Sys2Proof.Machine.execShl d a b s
  | .shr d a b => Sys2Proof.Machine.execShr d a b s
  | .sha d a b => Sys2Proof.Machine.execSha d a b s
  | .slt d a b => Sys2Proof.Machine.execSlt d a b s
  | .sltu d a b => Sys2Proof.Machine.execSltu d a b s
  | .min d a b => Sys2Proof.Machine.execMin d a b s
  | .minu d a b => Sys2Proof.Machine.execMinu d a b s
  | .max d a b => Sys2Proof.Machine.execMax d a b s
  | .maxu d a b => Sys2Proof.Machine.execMaxu d a b s
  | .clz d a => Sys2Proof.Machine.execClz d a s
  | .ctz d a => Sys2Proof.Machine.execCtz d a s
  | .popc d a => Sys2Proof.Machine.execPopc d a s
  | .sel d a b c => Sys2Proof.Machine.execSel d a b c s
  | .fadd p d a b => Sys2Proof.Machine.execFadd p d a b s
  | .fsub p d a b => Sys2Proof.Machine.execFsub p d a b s
  | .fmul p d a b => Sys2Proof.Machine.execFmul p d a b s
  | .ffma p d a b c => Sys2Proof.Machine.execFfma p d a b c s
  | .fdiv p d a b => Sys2Proof.Machine.execFdiv p d a b s
  | .fsqrt p d a => Sys2Proof.Machine.execFsqrt p d a s
  | .fmin p d a b => Sys2Proof.Machine.execFmin p d a b s
  | .fmax p d a b => Sys2Proof.Machine.execFmax p d a b s
  | .fcmp p d a b => Sys2Proof.Machine.execFcmp p d a b s
  | .fclass p d a => Sys2Proof.Machine.execFclass p d a s
  | .fsgn p m d a b => Sys2Proof.Machine.execFsgn p m d a b s
  | .fcvt p src d a => Sys2Proof.Machine.execFcvt p src d a s
  | .fcvtSint src d a => Sys2Proof.Machine.execFcvtSint src d a s
  | .fcvtUint src d a => Sys2Proof.Machine.execFcvtUint src d a s
  | .jalr d a => Sys2Proof.Machine.execJalr d a s
  | .wake a => Sys2Proof.Machine.execWake a s
  | .waitc d a b => Sys2Proof.Machine.execWaitc d a b s
  | .spawn d a b => Sys2Proof.Machine.execSpawn d a b s
  | .ltrig => Sys2Proof.Machine.execLtrig s
  | .qpush d a b => Sys2Proof.Machine.execQpush d a b s
  | .qpop d a b => Sys2Proof.Machine.execQpop d a b s
  | .evsig a => Sys2Proof.Machine.execEvsig a s
  | .fenceL1 => Sys2Proof.Machine.execFenceL1 s
  | .fenceL2 => Sys2Proof.Machine.execFenceL2 s
  | .fenceL3 => Sys2Proof.Machine.execFenceL3 s
  | .fenceL4 => Sys2Proof.Machine.execFenceL4 s
  | .fenceL5 => Sys2Proof.Machine.execFenceL5 s
  | .fencei l5 d => Sys2Proof.Machine.execFencei l5 d s
  | .fencew l5 a => Sys2Proof.Machine.execFencew l5 a s
  | .get w d a b c => Sys2Proof.Machine.execGet w d a b c s
  | .put w d a b c => Sys2Proof.Machine.execPut w d a b c s
  | .tcpy w a b c => Sys2Proof.Machine.execTcpy w a b c s
  | .tcpya w d a b c => Sys2Proof.Machine.execTcpya w d a b c s
  | .armw w op d a b => Sys2Proof.Machine.execArmw w op d a b s
  | .trap a => Sys2Proof.Machine.execTrap a s
  | .csrr d a => Sys2Proof.Machine.execCsrr d a s
  | .csrw a b => Sys2Proof.Machine.execCsrw a b s
  | .asgen d => Sys2Proof.Machine.execAsgen d s
  | .maprd d a => Sys2Proof.Machine.execMaprd d a s
  | .uwopen d => Sys2Proof.Machine.execUwopen d s
  | .uwnum d => Sys2Proof.Machine.execUwnum d s
  | .trec a b => Sys2Proof.Machine.execTrec a b s
  | .aadd w n d a b imm => Sys2Proof.Machine.execAadd w n d a b imm s
  | .amin w n d a b imm => Sys2Proof.Machine.execAmin w n d a b imm s
  | .amax w n d a b imm => Sys2Proof.Machine.execAmax w n d a b imm s
  | .aminu w n d a b imm => Sys2Proof.Machine.execAminu w n d a b imm s
  | .amaxu w n d a b imm => Sys2Proof.Machine.execAmaxu w n d a b imm s
  | .aand w n d a b imm => Sys2Proof.Machine.execAand w n d a b imm s
  | .aor w n d a b imm => Sys2Proof.Machine.execAor w n d a b imm s
  | .axor w n d a b imm => Sys2Proof.Machine.execAxor w n d a b imm s
  | .aswp w n d a b imm => Sys2Proof.Machine.execAswp w n d a b imm s
  | .acas w n d a b imm => Sys2Proof.Machine.execAcas w n d a b imm s
  | .afaddF32 w d a b imm => Sys2Proof.Machine.execAfaddF32 w d a b imm s
  | .afaddF64 w d a b imm => Sys2Proof.Machine.execAfaddF64 w d a b imm s
  | .waita w d a b imm => Sys2Proof.Machine.execWaita w d a b imm s
  | .addi d a imm => Sys2Proof.Machine.execAddi d a imm s
  | .andi d a imm => Sys2Proof.Machine.execAndi d a imm s
  | .ori d a imm => Sys2Proof.Machine.execOri d a imm s
  | .xori d a imm => Sys2Proof.Machine.execXori d a imm s
  | .shli d a e => Sys2Proof.Machine.execShli d a e s
  | .shri d a e => Sys2Proof.Machine.execShri d a e s
  | .shai d a e => Sys2Proof.Machine.execShai d a e s
  | .slti d a imm => Sys2Proof.Machine.execSlti d a imm s
  | .bfx d a p w1 => Sys2Proof.Machine.execBfx d a p w1 s
  | .bfxu d a p w1 => Sys2Proof.Machine.execBfxu d a p w1 s
  | .bfi d a p w1 => Sys2Proof.Machine.execBfi d a p w1 s
  | .wid d a ix k => Sys2Proof.Machine.execWid d a ix k s
  | .beq a b imm => Sys2Proof.Machine.execBeq a b imm s
  | .bne a b imm => Sys2Proof.Machine.execBne a b imm s
  | .blt a b imm => Sys2Proof.Machine.execBlt a b imm s
  | .bge a b imm => Sys2Proof.Machine.execBge a b imm s
  | .bltu a b imm => Sys2Proof.Machine.execBltu a b imm s
  | .bgeu a b imm => Sys2Proof.Machine.execBgeu a b imm s
  | .loop d imm => Sys2Proof.Machine.execLoop d imm s
  | .ld w n d a imm => Sys2Proof.Machine.execLd w n d a imm s
  | .ldp w d a b imm => Sys2Proof.Machine.execLdp w d a b imm s
  | .st w n d a imm => Sys2Proof.Machine.execSt w n d a imm s
  | .stp w d a b imm => Sys2Proof.Machine.execStp w d a b imm s
  | .jmp imm => Sys2Proof.Machine.execJmp imm s
  | .jal d imm => Sys2Proof.Machine.execJal d imm s
  | .lim hi d imm => Sys2Proof.Machine.execLim hi d imm s
  | .vadd x f c rd ra rb => Sys2Proof.Machine.execVadd x f c rd ra rb s
  | .vsub x f c rd ra rb => Sys2Proof.Machine.execVsub x f c rd ra rb s
  | .vmul x f c rd ra rb => Sys2Proof.Machine.execVmul x f c rd ra rb s
  | .vfma x f c rd ra rb => Sys2Proof.Machine.execVfma x f c rd ra rb s
  | .vdiv x f c rd ra rb => Sys2Proof.Machine.execVdiv x f c rd ra rb s
  | .vmin x f c rd ra rb => Sys2Proof.Machine.execVmin x f c rd ra rb s
  | .vmax x f c rd ra rb => Sys2Proof.Machine.execVmax x f c rd ra rb s
  | .vabs x f c rd ra => Sys2Proof.Machine.execVabs x f c rd ra s
  | .vsgn x f c rd ra rb => Sys2Proof.Machine.execVsgn x f c rd ra rb s
  | .vand x f c rd ra rb => Sys2Proof.Machine.execVand x f c rd ra rb s
  | .vor x f c rd ra rb => Sys2Proof.Machine.execVor x f c rd ra rb s
  | .vxor x f c rd ra rb => Sys2Proof.Machine.execVxor x f c rd ra rb s
  | .vshl x f a c rd ra rb => Sys2Proof.Machine.execVshl x f a c rd ra rb s
  | .vshr x f a c rd ra rb => Sys2Proof.Machine.execVshr x f a c rd ra rb s
  | .vsha x f a c rd ra rb => Sys2Proof.Machine.execVsha x f a c rd ra rb s
  | .vcmp x f a c rd ra rb => Sys2Proof.Machine.execVcmp x f a c rd ra rb s
  | .vsel x f c rd ra rb => Sys2Proof.Machine.execVsel x f c rd ra rb s
  | .vcvt x df sf a c rd ra => Sys2Proof.Machine.execVcvt x df sf a c rd ra s
  | .vrcp x f c rd ra => Sys2Proof.Machine.execVrcp x f c rd ra s
  | .vrsq x f c rd ra => Sys2Proof.Machine.execVrsq x f c rd ra s
  | .vexp2 x f c rd ra => Sys2Proof.Machine.execVexp2 x f c rd ra s
  | .vlog2 x f c rd ra => Sys2Proof.Machine.execVlog2 x f c rd ra s
  | .vrsum f a c ra => Sys2Proof.Machine.execVrsum f a c ra s
  | .vrmax f a c ra => Sys2Proof.Machine.execVrmax f a c ra s
  | .vrmin f a c ra => Sys2Proof.Machine.execVrmin f a c ra s
  | .vscan x f a c rd ra => Sys2Proof.Machine.execVscan x f a c rd ra s
  | .vperm x f c rd ra rb => Sys2Proof.Machine.execVperm x f c rd ra rb s
  | .vbcast x f a c rd => Sys2Proof.Machine.execVbcast x f a c rd s
  | .vext x f a c rd ra rb => Sys2Proof.Machine.execVext x f a c rd ra rb s
  | .viota x f a c rd => Sys2Proof.Machine.execViota x f a c rd s
  | .vbfpq x df sf a c rd ra => Sys2Proof.Machine.execVbfpq x df sf a c rd ra s
  | .vbfpd x df sf a c rd ra => Sys2Proof.Machine.execVbfpd x df sf a c rd ra s
  | .vld x w a c rd disp => Sys2Proof.Machine.execVld x w a c rd disp s
  | .vst w a c rd disp => Sys2Proof.Machine.execVst w a c rd disp s
  | .vlds x w a b c rd disp => Sys2Proof.Machine.execVlds x w a b c rd disp s
  | .vgath x w f a c rd rb disp => Sys2Proof.Machine.execVgath x w f a c rd rb disp s
  | .vscat w f a c rd rb disp => Sys2Proof.Machine.execVscat w f a c rd rb disp s
  | .tmov l w d a => Sys2Proof.Machine.execTmov l w d a s
  | .tadd l w d a b c => Sys2Proof.Machine.execTadd l w d a b c s
  | .tmul l w d a b c => Sys2Proof.Machine.execTmul l w d a b c s
  | .tcvt l w d a c => Sys2Proof.Machine.execTcvt l w d a c s
  | .tbaq l w d a b c => Sys2Proof.Machine.execTbaq l w d a b c s
  | .tsortc l snap w d a c => Sys2Proof.Machine.execTsortc l snap w d a c s
  | .tcompact l snap w d a b c => Sys2Proof.Machine.execTcompact l snap w d a b c s
  | .tred l w d a c => Sys2Proof.Machine.execTred l w d a c s
  | .ttrans l w d a c => Sys2Proof.Machine.execTtrans l w d a c s
  | .tfill l w d a c => Sys2Proof.Machine.execTfill l w d a c s
  | .tmmaFloat l w fa fb d a b c => Sys2Proof.Machine.execTmmaFloat l w fa fb d a b c s
  | .tmmaBlock l w fa fb d a b c => Sys2Proof.Machine.execTmmaBlock l w fa fb d a b c s
  | .tmmagFloat l snap w fa fb d a b c => Sys2Proof.Machine.execTmmagFloat l snap w fa fb d a b c s
  | .tmmagBlock l snap w fa fb d a b c => Sys2Proof.Machine.execTmmagBlock l snap w fa fb d a b c s
  | .lineFetch => Sys2Proof.Machine.execLineFetch s
  | .powerOnReset badDies => Sys2Proof.Machine.execPowerOnReset badDies s
  | .qtailWrite q v => Sys2Proof.Machine.execQtailWrite q v s
  | .queueEnable q v => Sys2Proof.Machine.execQueueEnable q v s
  | .queueDisable q v => Sys2Proof.Machine.execQueueDisable q v s
  | .queueReset q v => Sys2Proof.Machine.execQueueReset q v s
  | .queuePreempt q v => Sys2Proof.Machine.execQueuePreempt q v s
  | .registerWrite off v => Sys2Proof.Machine.execRegisterWrite off v s
  | .errheadWrite v => Sys2Proof.Machine.execErrheadWrite v s
  | .apertureRead off n => Sys2Proof.Machine.execApertureRead off n s
  | .apertureWrite off bytes => Sys2Proof.Machine.execApertureWrite off bytes s
  | .nopPacket q => Sys2Proof.Machine.execNopPacket q s
  | .launch q => Sys2Proof.Machine.execLaunch q s
  | .launchi q => Sys2Proof.Machine.execLaunchi q s
  | .loopPacket q => Sys2Proof.Machine.execLoopPacket q s
  | .condPacket q => Sys2Proof.Machine.execCondPacket q s
  | .waitPacket q => Sys2Proof.Machine.execWaitPacket q s
  | .signalPacket q => Sys2Proof.Machine.execSignalPacket q s
  | .queueUnblock q => Sys2Proof.Machine.execQueueUnblock q s
  | .waitReread q => Sys2Proof.Machine.execWaitReread q s
  | .queueStarvation q => Sys2Proof.Machine.execQueueStarvation q s
  | .launchMessage k vcn => Sys2Proof.Machine.execLaunchMessage k vcn s
  | .kernelCompletion k => Sys2Proof.Machine.execKernelCompletion k s
  | .dispatch core => Sys2Proof.Machine.execDispatch core s
  | .suspensionThreshold core => Sys2Proof.Machine.execSuspensionThreshold core s
  | .suspensionDrain core => Sys2Proof.Machine.execSuspensionDrain core s
  | .recordWritten sid => Sys2Proof.Machine.execRecordWritten sid s
  | .wakeArrival id => Sys2Proof.Machine.execWakeArrival id s
  | .spawnArrival id => Sys2Proof.Machine.execSpawnArrival id s
  | .qpushArrival id => Sys2Proof.Machine.execQpushArrival id s
  | .quiescence k => Sys2Proof.Machine.execQuiescence k s
  | .quiescenceArrival k vcn => Sys2Proof.Machine.execQuiescenceArrival k vcn s
  | .tileEvictionDone core => Sys2Proof.Machine.execTileEvictionDone core s
  | .tileRestoreDone core => Sys2Proof.Machine.execTileRestoreDone core s
  | .residencyArbitration asid victim => Sys2Proof.Machine.execResidencyArbitration asid victim s
  | .residencyQuantum asid => Sys2Proof.Machine.execResidencyQuantum asid s
  | .contextEviction asid => Sys2Proof.Machine.execContextEviction asid s
  | .saveAcknowledged asid => Sys2Proof.Machine.execSaveAcknowledged asid s
  | .makeResident asid pcns => Sys2Proof.Machine.execMakeResident asid pcns s
  | .tileDecompose seq => Sys2Proof.Machine.execTileDecompose seq s
  | .stagingStart seq leaf => Sys2Proof.Machine.execStagingStart seq leaf s
  | .stagingDone seq leaf => Sys2Proof.Machine.execStagingDone seq leaf s
  | .matrixGrant pcn => Sys2Proof.Machine.execMatrixGrant pcn s
  | .kblockDone seq leaf residueOk => Sys2Proof.Machine.execKblockDone seq leaf residueOk s
  | .laneGroupGrant pcn => Sys2Proof.Machine.execLaneGroupGrant pcn s
  | .laneGroupRelease pcn group => Sys2Proof.Machine.execLaneGroupRelease pcn group s
  | .childCompletion seq leaf => Sys2Proof.Machine.execChildCompletion seq leaf s
  | .taskSteal vcn => Sys2Proof.Machine.execTaskSteal vcn s
  | .stealDone seq leaf => Sys2Proof.Machine.execStealDone seq leaf s
  | .pageWalkDone w asid va => Sys2Proof.Machine.execPageWalkDone w asid va s
  | .asgenDone asid => Sys2Proof.Machine.execAsgenDone asid s
  | .homeAccess id => Sys2Proof.Machine.execHomeAccess id s
  | .accessResponse id => Sys2Proof.Machine.execAccessResponse id s
  | .atomicMerge ids => Sys2Proof.Machine.execAtomicMerge ids s
  | .claimRelease id => Sys2Proof.Machine.execClaimRelease id s
  | .engineCompletion id => Sys2Proof.Machine.execEngineCompletion id s
  | .faultQueueReplay id => Sys2Proof.Machine.execFaultQueueReplay id s
  | .faultQueueResend id => Sys2Proof.Machine.execFaultQueueResend id s
  | .eventLineLoad id => Sys2Proof.Machine.execEventLineLoad id s
  | .eventLineStore id => Sys2Proof.Machine.execEventLineStore id s
  | .barcfgStore id => Sys2Proof.Machine.execBarcfgStore id s
  | .barrierArrival id => Sys2Proof.Machine.execBarrierArrival id s
  | .barrierParentArrival vcn bar => Sys2Proof.Machine.execBarrierParentArrival vcn bar s
  | .barrierRelease vcn bar => Sys2Proof.Machine.execBarrierRelease vcn bar s
  | .mutexAcquire id => Sys2Proof.Machine.execMutexAcquire id s
  | .mutexRelease id => Sys2Proof.Machine.execMutexRelease id s
  | .arrival id => Sys2Proof.Machine.execArrival id s
  | .watchTimeout id => Sys2Proof.Machine.execWatchTimeout id s
  | .logEntryAccept id => Sys2Proof.Machine.execLogEntryAccept id s
  | .residueReject core back => Sys2Proof.Machine.execResidueReject core back s
  | .rollbackDone sid => Sys2Proof.Machine.execRollbackDone sid s
  | .watchdogLimit k => Sys2Proof.Machine.execWatchdogLimit k s
  | .watchdogTrap k => Sys2Proof.Machine.execWatchdogTrap k s
  | .watchdogKill k => Sys2Proof.Machine.execWatchdogKill k s
  | .countWaitMet core => Sys2Proof.Machine.execCountWaitMet core s
  | .trapStop core => Sys2Proof.Machine.execTrapStop core s
  | .asyncTrapArrival sid => Sys2Proof.Machine.execAsyncTrapArrival sid s
  | .frameSlotGrant asid chain => Sys2Proof.Machine.execFrameSlotGrant asid chain s
  | .mapPublication => Sys2Proof.Machine.execMapPublication s
  | .publicationArrival router => Sys2Proof.Machine.execPublicationArrival router s
  | .rotationStepInstant chip => Sys2Proof.Machine.execRotationStepInstant chip s
  | .drainPoint chip => Sys2Proof.Machine.execDrainPoint chip s
  | .drainDeadline chip => Sys2Proof.Machine.execDrainDeadline chip s
  | .finalCopyDone chip => Sys2Proof.Machine.execFinalCopyDone chip s
  | .forwardedMessage id => Sys2Proof.Machine.execForwardedMessage id s
  | .staleResend id => Sys2Proof.Machine.execStaleResend id s
  | .graceWindowClose chip => Sys2Proof.Machine.execGraceWindowClose chip s
  | .selfTestDone pcn result => Sys2Proof.Machine.execSelfTestDone pcn result s
  | .patch chip seg => Sys2Proof.Machine.execPatch chip seg s
  | .routerDead pcn => Sys2Proof.Machine.execRouterDead pcn s
  | .deadRouterRetirement pcn => Sys2Proof.Machine.execDeadRouterRetirement pcn s
  | .healthSweep => Sys2Proof.Machine.execHealthSweep s
  | .ageingSave => Sys2Proof.Machine.execAgeingSave s
  | .hartRestart queues => Sys2Proof.Machine.execHartRestart queues s
  | .migrate ix => Sys2Proof.Machine.execMigrate ix s
  | .migrationBlockCopy mid ok => Sys2Proof.Machine.execMigrationBlockCopy mid ok s
  | .migrationFlip mid => Sys2Proof.Machine.execMigrationFlip mid s
  | .moor ix => Sys2Proof.Machine.execMoor ix s
  | .unmoor ix => Sys2Proof.Machine.execUnmoor ix s
  | .peerset ix => Sys2Proof.Machine.execPeerset ix s
  | .peerclr ix => Sys2Proof.Machine.execPeerclr ix s
  | .retrain ix => Sys2Proof.Machine.execRetrain ix s
  | .ctxstop ix => Sys2Proof.Machine.execCtxstop ix s
  | .ctxstopComplete asid => Sys2Proof.Machine.execCtxstopComplete asid s
  | .ctxgo ix => Sys2Proof.Machine.execCtxgo ix s
  | .rstep ix => Sys2Proof.Machine.execRstep ix s
  | .pktbrk ix => Sys2Proof.Machine.execPktbrk ix s
  | .pktgo ix => Sys2Proof.Machine.execPktgo ix s
  | .sstop ix => Sys2Proof.Machine.execSstop ix s
  | .traceopen ix => Sys2Proof.Machine.execTraceopen ix s
  | .traceclose ix => Sys2Proof.Machine.execTraceclose ix s
  | .traceFlush chip => Sys2Proof.Machine.execTraceFlush chip s
  | .keygen ix => Sys2Proof.Machine.execKeygen ix s
  | .keywipe ix => Sys2Proof.Machine.execKeywipe ix s
  | .dbgchal ix => Sys2Proof.Machine.execDbgchal ix s
  | .dbgunlock ix => Sys2Proof.Machine.execDbgunlock ix s
  | .nonceExpiry => Sys2Proof.Machine.execNonceExpiry s
  | .physrd ix => Sys2Proof.Machine.execPhysrd ix s
  | .fwstate ix => Sys2Proof.Machine.execFwstate ix s
  | .unknownMailboxOp ix => Sys2Proof.Machine.execUnknownMailboxOp ix s
  | .endpointIdAssignment eid => Sys2Proof.Machine.execEndpointIdAssignment eid s
  | .versionDiscovery => Sys2Proof.Machine.execVersionDiscovery s
  | .messageTypeDiscovery => Sys2Proof.Machine.execMessageTypeDiscovery s
  | .numericSensorRead sensor => Sys2Proof.Machine.execNumericSensorRead sensor s
  | .getVersion => Sys2Proof.Machine.execGetVersion s
  | .getCapabilities => Sys2Proof.Machine.execGetCapabilities s
  | .negotiateAlgorithms mlDsa shake => Sys2Proof.Machine.execNegotiateAlgorithms mlDsa shake s
  | .getDigests => Sys2Proof.Machine.execGetDigests s
  | .getCertificate => Sys2Proof.Machine.execGetCertificate s
  | .challenge nonce => Sys2Proof.Machine.execChallenge nonce s
  | .getMeasurements slot nonce => Sys2Proof.Machine.execGetMeasurements slot nonce s
  | .regrd off n => Sys2Proof.Machine.execRegrd off n s
  | .regwr off v => Sys2Proof.Machine.execRegwr off v s
  | .sidebandMaprd vcn => Sys2Proof.Machine.execSidebandMaprd vcn s
  | .errrd idx => Sys2Proof.Machine.execErrrd idx s
  | .unsupportedMessage ty => Sys2Proof.Machine.execUnsupportedMessage ty s
  | .sxctlEnable p => Sys2Proof.Machine.execSxctlEnable p s
  | .sxctlReset p => Sys2Proof.Machine.execSxctlReset p s
  | .portTrained p width remote => Sys2Proof.Machine.execPortTrained p width remote s
  | .flitReceive p flit => Sys2Proof.Machine.execFlitReceive p flit s
  | .nakReceive p ack => Sys2Proof.Machine.execNakReceive p ack s
  | .replayTimeout p => Sys2Proof.Machine.execReplayTimeout p s
  | .laneDeath p lane => Sys2Proof.Machine.execLaneDeath p lane s
  | .retrainDone p => Sys2Proof.Machine.execRetrainDone p s
  | .shadexWrite p => Sys2Proof.Machine.execShadexWrite p s
  | .readreq p => Sys2Proof.Machine.execReadreq p s
  | .readdata p => Sys2Proof.Machine.execReaddata p s
  | .response p => Sys2Proof.Machine.execResponse p s
  | .peerRetry id => Sys2Proof.Machine.execPeerRetry id s
  | .gatewayReduction asid k block => Sys2Proof.Machine.execGatewayReduction asid k block s
  | .hostReadCompletion id => Sys2Proof.Machine.execHostReadCompletion id s
  | .beaconExchange die offset => Sys2Proof.Machine.execBeaconExchange die offset s
  | .pmcEvent vcn code n => Sys2Proof.Machine.execPmcEvent vcn code n s
  | .junctionThrottle chip => Sys2Proof.Machine.execJunctionThrottle chip s
  | .junctionRecover chip => Sys2Proof.Machine.execJunctionRecover chip s
  | .dieOvertemp die temp => Sys2Proof.Machine.execDieOvertemp die temp s
  | .clusterReinstatement pcn => Sys2Proof.Machine.execClusterReinstatement pcn s
  | .orderlyShutdown => Sys2Proof.Machine.execOrderlyShutdown s
  | .cpReadRetry q => Sys2Proof.Machine.execCpReadRetry q s
  | .hostPortDown => Sys2Proof.Machine.execHostPortDown s
  | .hostPortUp width => Sys2Proof.Machine.execHostPortUp width s
  | .csrwCompletion asid => Sys2Proof.Machine.execCsrwCompletion asid s

end Sys2Proof.Machine
end

