-- ==== Sys2Proof/Machine/Step.lean ====
section
/-! DEFINITION. One step: the schedule's next agent moves. A core fetches, decodes and executes; any other agent takes the step that its event names. -/

namespace Sys2Proof.Machine

/-- The focused core moves. -/
def State.coreStep (s : State) : Out :=
  match s.turn with
  | .rest s' => .next s'
  | .run s' i => exec i s'
  | .either t s' i =>
    match exec i s' with
    | .next u => .next (if u.faultsAt s' then u else t)
    | o => o

/-- One step (log 1): with an empty schedule the focused core moves, or, where it can only wait, what it waits for. -/
def step (s : State) : Host.Outcome State Fault Refusal :=
  match s.sched with
  | [] => if s.mustWait then .next s.progress else s.coreStep
  | (dt, p) :: rest =>
    let s1 := ({ s with sched := rest } : State).elapse dt
    match p with
    | .core c => if coreExists c then (s1.focusOn c).coreStep else .fault .noSuchCore
    | .event i => if i.isEvent then exec i s1 else .next s1
    | .chance c => .next (s1.befall c)

/-- Place the instruction of a table word where the next step fetches it. -/
def State.withFetchWord (s : State) (nbits w : Nat) : State :=
  s.placed (tableWords nbits w).1 (tableWords nbits w).2

end Sys2Proof.Machine
end

