-- ==== Sys2Proof/Safety.lean ====
section
/-! DEFINITION. What a safe run is: no step faults and none is refused; the invariant of memory; and the terms in which claims speak of a strand at a boundary and of what an instruction leaves alone. -/

namespace Sys2Proof

/-- The privileged heads (R124). -/
def Privileged : Instr → Bool
  | .tack | .tretResume | .tretAbandon | .idle | .csrw .. | .asgen .. => true
  | _ => false

namespace Machine

/-- A step that goes on. -/
def Goes (s : State) : Prop := ∃ t, step s = .next t

/-- The memory keeps its canonical form. -/
def MemInv (s : State) : Prop := s.mem.wf = true

/-- Every core that the schedule picks exists. -/
def SchedOk (s : State) : Prop := ∀ p ∈ s.sched, match p.2 with | .core c => coreExists c = true | .event _ | .chance _ => True

/-- The focused core's strand stands at a boundary with nothing to wait for, in a cluster that works, and the schedule names nobody else (log 1). -/
structure AtBoundary (s : State) : Prop where
  sched : s.sched = []
  stop : s.cur.stop = none
  runs : s.clusterRuns = true
  gate : s.cur.gate = .none
  wait : s.cur.wait = .none
  susp : s.cur.susp = .none
  pending : s.cur.str.pending = []
  rollback : s.cur.str.rollbackDue = false
  reserved : s.cur.str.window.st = .opened → s.cur.str.window.rsv ≠ none

/-- Nothing differs but what going on changes (R104): the PC, the core's own record of where the strand stands, and the events that counters have to count (R326). Scalar registers may differ. -/
def OnlyRegsAndPc (s t : State) : Prop :=
  { t with events := s.events, cur := { t.cur with
      regs := s.cur.regs, pc := s.cur.pc, wait := s.cur.wait, retry := s.cur.retry, past := s.cur.past, recent := s.cur.recent } } = s

/-- A row operation wrote one row (R89, R94, R428): the row reads as the value, through the bypass and, unless the result is transient, in the tile register; every byte of memory outside that row of the strand's slot reads as before; the vector queue holds the instruction's entry more; nothing else differs but what going on changes. The scalar registers are left to the statement. -/
structure RowWritten (s t : State) (i : Instr) (clocks : Nat) (x : Bool) (rd : RowId) (v : Row) : Prop where
  row : t.row rd = v
  kept : x = false → t.slotRow rd = v
  transient : x = true → t.mem = s.mem
  outside : ∀ a, (∀ k, s.cur.str.slot = some k → a < s.slotAddr k (rowOff rd) ∨ s.slotAddr k (rowOff rd) + 256 ≤ a) → t.mem.byte a = s.mem.byte a
  pc : t.cur.pc = s.nextPc
  queue : t.cur.vq = s.cur.vq ++ [rowEntry i clocks s.cur.pc]
  rest : { t with mem := s.mem, events := s.events, cur := { t.cur with
    regs := s.cur.regs, bypass := s.cur.bypass, vq := s.cur.vq, pc := s.cur.pc, wait := s.cur.wait, retry := s.cur.retry, past := s.cur.past, recent := s.cur.recent } } = s

/-- A row operation of the focused strand finds room in the vector queue, and the strand's tile registers are live. -/
def RowReady (s : State) : Prop := s.mem.wf = true ∧ s.cur.vq.length < 8 ∧ ∃ k, s.cur.str.slot = some k

/-- A row operation wrote its active slots (R88, R427): element i of the row rd, of the container width of f, becomes g i where C names no register or its bit for the slot is set, and keeps its value elsewhere; everything else is as RowWritten says. -/
def RowOp (s t : State) (i : Instr) (clocks : Nat) (x : Bool) (c : Reg) (f : Fmt) (rd : RowId) (g : Nat → Nat) : Prop :=
  ∃ v, RowWritten s t i clocks x rd v ∧ t.cur.regs = s.cur.regs ∧
    ∀ i, i < perRow f.bits → rowElem v f.bits i =
      if c = 0 ∨ (s.reg c).getLsbD (i * 64 / perRow f.bits) = true then g i % 2 ^ f.bits else rowElem (s.row rd) f.bits i

/-- An L0 tile instruction wrote the first n elements, of width w, of tile d (R402, R403): in every row that holds one of them, element i becomes g i below n and keeps its value from n on; no byte of memory outside those rows changes; the vector queue holds the entry e more; nothing else differs but what going on changes. -/
structure TileWritten (s t : State) (d : Reg) (w n : Nat) (e : VqEntry) (g : Nat → Nat) : Prop where
  elems : ∀ i, i < 4 * perRow w → i / perRow w * perRow w < n → (t.tileElems d w).getD i 0 = if i < n then g i % 2 ^ w else (s.tileElems d w).getD i 0
  outside : ∀ a, (∀ k r, s.cur.str.slot = some k → r < 4 → r * perRow w < n → a < s.slotAddr k (rowOff (tileRow0 d r)) ∨ s.slotAddr k (rowOff (tileRow0 d r)) + 256 ≤ a) →
    t.mem.byte a = s.mem.byte a
  pc : t.cur.pc = s.nextPc
  regs : t.cur.regs = s.cur.regs
  queue : t.cur.vq = s.cur.vq ++ [e]
  rest : { t with mem := s.mem, events := s.events, cur := { t.cur with
    bypass := s.cur.bypass, vq := s.cur.vq, pc := s.cur.pc, wait := s.cur.wait, retry := s.cur.retry, past := s.cur.past, recent := s.cur.recent } } = s

/-- A tile instruction at L1 or above passes its checks at issue (R64, R65, R401, R404): nothing older holds it back, its descriptors and records are read and agree, its operands lie in its level's targets, the banks have room for its claims and the ring for its entries; r is its root record. -/
structure TileAdmitted (s : State) (w : BitVec 2) (t : TileArgs) (d : Desc) (a b c : Option Desc) (gs : List (Nat × Nat)) (gb ks : Nat) (r : TileRoot) : Prop where
  wait : s.classBusy w = false
  stores : s.counts.stores = 0
  room : s.counts.tiles < 63
  value : t.badValue (s.reg t.c) = false
  addrs : ∀ x ∈ t.addrRegs, (s.reg x).toNat < 2 ^ 56
  descD : s.readDesc t (s.reg t.d).toNat = .ok d
  descA : s.readDescIf t t.hasA t.a = .ok a
  descB : s.readDescIf t t.hasB t.b = .ok b
  descC : s.readDescIf t t.hasC t.c = .ok c
  peers : t.level = 5 → ∃ x, s.ctx? s.asid = some x ∧ x.peers ≠ 0
  fmts : descFmtsOk t.kind d a b c = true
  residual : t.level = 5 → t.kind = .baq → ∀ x, b = some x → x.fmt = .f32
  record : s.readRec t (a.getD d).rows = .ok (gs, gb, ks)
  dims : descDimsOk t.kind (redAxis (s.reg t.c)) d a b c = true
  root : r = s.tileRoot t d a b c gs gb ks
  targets : s.levelFault t.level (r.operandPieces.map fun p => (p.1, p.2.1, if p.2.2 then .wr else .rd)) = none
  staging : 2 ≤ t.level → ∃ x, s.ctx? s.asid = some x ∧ x.stage2 ≠ none ∧ (3 ≤ t.level → x.stage3 ≠ none)
  claims : s.claimsWait (s.tileClaims r.seq (s.operandsOf r)) ((s.operandsOf r).flatMap fun o => placesOfOperand o.1 o.2) = false
  mask : ∃ m, s.snapMask t r = .ok m
  ring : ∃ u, s.reserve s.asid (s.tileReq r) = some u ∧ (t.level = 5 → ∃ v, u.sealWindow (some (true, r.seq)) = .done v)

/-- A new access is on its way and the strand has gone on (R191): nothing has been read or written yet, no register has changed. -/
structure Sent (s t : State) (op : AccOp) (segs : List Seg) (dest : Dest) : Prop where
  flight : ∃ a, t.flight = s.flight ++ [a] ∧ a.id = s.nextId ∧ a.sid = s.cur.run.getD 0 ∧ a.pc = s.cur.pc ∧ a.op = op ∧ a.segs = segs ∧ a.dest = dest ∧ a.stage = .issued
  loads : t.counts.loads = s.counts.loads + (if op.isLoad then 1 else 0)
  stores : t.counts.stores = s.counts.stores + (if op.isLoad then 0 else 1)
  copies : t.counts.copies = s.counts.copies ∧ t.counts.tiles = s.counts.tiles
  mem : t.mem = s.mem
  regs : t.cur.regs = s.cur.regs

/-- An access of n bytes by the running strand passes every check of R332 and reaches the place l at the address ad, behind no wait class. -/
structure Reached (s : State) (w : BitVec 2) (k : AKind) (need : Need) (base : Word) (disp : Int) (n ad : Nat) (l : Loc) : Prop where
  range : 0 ≤ (base.toNat : Int) + disp ∧ (base.toNat : Int) + disp < 2 ^ 56
  addr : (base.toNat : Int) + disp = ad
  wait : s.classBusy w = false
  aligned : ad % n = 0
  place : s.xlate s.agent s.asid s.vcn s.pos need ad = .ok l
  admitted : s.refuses s.pcn s.holdsSlot k n l = none
  sized : sizeRefuses n l = false

/-- An engine instruction with the plan p and the arrival operand c may issue (R93, R196, R198, R364, R386, R410): nothing older holds it back, no range meets a slot, the banks have room for its claims and the ring for its entries and, where it seals, for the seal; arrs: the piece that its arrival names, where it names one that passes its checks. -/
structure EngineReady (s : State) (w : BitVec 2) (p : Plan) (c : Word) (far : Option Nat) (arrs : List Seg) (seals : Bool) : Prop where
  wait : s.classBusy w = false
  stores : s.counts.stores = 0
  copies : s.counts.copies < 63
  slots : ∀ e ∈ p.fails, e.2.precise = false
  arrival : arrs = if c = 0 then [] else match s.arrivalPlace c far with | .ok g => [s.withEngParts g] | .error _ => []
  claims : s.claimsWait (s.claimsFor s.nextId false p.claims) p.claims = false
  ring : ∃ u, s.reserve s.asid (s.segsReq ((p.moves.map fun m => s.withEngParts m.dst) ++ arrs)) = some u ∧ (seals = true → ∃ v, u.sealWindow (some (false, s.nextId)) = .done v)

/-- An engine operation is on its way and the strand has gone on (R191, R196): COPIES is one higher, its claims stand, nothing has been moved. -/
structure EngineSent (s t : State) (kind : EngKind) (bytes : Nat) (moves : List EMove) (moved : Bool) (claims : List Claim) : Prop where
  engine : ∃ e, t.engines = s.engines ++ [e] ∧ e.id = s.nextId ∧ e.sid = s.cur.run.getD 0 ∧ e.pc = s.cur.pc ∧ e.kind = kind ∧ e.bytes = bytes ∧ e.moves = moves ∧ e.moved = moved
  claims : t.claims = s.claims ++ claims
  copies : t.counts.copies = s.counts.copies + 1
  others : t.counts.loads = s.counts.loads ∧ t.counts.stores = s.counts.stores ∧ t.counts.tiles = s.counts.tiles
  pc : t.cur.pc = s.nextPc
  regs : t.cur.regs = s.cur.regs

/-- An access stands where its stamp routes it (R188, R203, R274, R281): nothing older of its strand goes to the same bank, its home is in service and the core position that it names is live. -/
structure ArrivesHere (s : State) (id : Nat) (a : Access) : Prop where
  found : s.access? id = some a
  may : s.mayArrive a = true
  here : s.arrive a = .here
  core : s.noPlace a = none

/-- A queue has come to the packet p, which obeys the limits of its OP, and it is its turn (R240 to R242, R253). -/
structure AtPacket (s : State) (q : Nat) (p : List Byte) : Prop where
  here : (s.queue q).atPacket = true
  turn : s.turnOf q = true
  owed : (s.queue q).failNext = none
  armed : (s.queue q).armed = false
  packet : s.packetOf q = .bytes p
  form : badPacket p (s.queue q).rsize = false

/-- The request of a mailbox instance has ended: its state and its error code (R295, R318). -/
def Answered (t : State) (i : Inst) (st code : Nat) : Prop := (t.mbox i).st = st ∧ (t.mbox i).code = code ∧ (t.mbox i).taken = false

/-- A place of ordinary memory: no event unit, no mapped window, no part of the own tile slots. -/
def Ordinary (l : Loc) (n : Nat) : Prop := (∀ v o, l ≠ .event v o) ∧ (∀ o, l ≠ .window o) ∧ l.inSlots n = false

end Machine

end Sys2Proof
end

