-- ==== Sys2Proof/Certificates/Slice0/Obligations.lean ====
section
/-! DEFINITION. The statements for the provers. -/

open Sys2Proof Sys2Proof.Machine

/-- The decoder reads the words that the reference gives for one instruction of every family of strand instructions as the instruction, with its operands, that the assembly beside them names. -/
def Obligations.DecodedWords : Prop :=
  decode false 0x0000 0 = .instr .nop ∧ decode false 0x4134 0x5000 = .instr (.add 3 4 5) ∧ decode false 0x4134 0x5618 = .instr (.sel 3 4 5 6)
  ∧ decode false 0x8604 0xFFA45001 = .instr (.bne 4 5 0xFFA4) ∧ decode false 0x8234 0x00C80008 = .instr (.bfx 3 4 8 3)
  ∧ decode false 0xE330 0x123456780002 = .instr (.lim false 3 0x12345678) ∧ decode false 0x4907 0 = .instr (.jalr 0 7)
  ∧ decode false 0xA204 0x0B10400F = .instr (.vcmp false .f32 4 0 4 8 12) ∧ decode false 0xE370 0x00A00001 = .instr (.jal 7 0xA0)

/-- For every well-formed instruction of a strand, with every operand at every value that its encoding admits, the decoder reads the encoder's head and tail as that instruction in a handler strand, and outside one too unless the instruction is one of the privileged TACK, TRET, IDLE, CSRW and ASGEN. -/
def Obligations.DecodeEncodeRoundTrip : Prop :=
  ∀ (i : Instr) (h : BitVec 16) (t : BitVec 48), WellFormed i = true → encode i = some (h, t) →
    decode true h t = .instr i ∧ (Privileged i = false → decode false h t = .instr i)

/-- If a head and a tail within the length that the head's TL gives decode to an instruction, that instruction is well formed, is an instruction of a strand, and its encoding is exactly that head and tail. -/
def Obligations.DecodingIsEncodingsInverse : Prop :=
  ∀ (k : Bool) (h : BitVec 16) (t : BitVec 48) (i : Instr), decode k h t = .instr i → t.toNat < 2 ^ (16 * (hTl h).toNat) →
    WellFormed i = true ∧ i.isEvent = false ∧ encode i = some (h, t)

/-- The words of TACK, of both forms of TRET, of IDLE, of CSRW and of ASGEN with any operands decode to the illegal reason PRIV in a strand that is not a handler; the core's turn at such a head raises ILLEGAL (cause 0x01) with subcode 0x04 at the head's own PC, and which registers CSRR may read outside a handler is as the CSR chapters say: LOGBASE and LOGHEAD are refused, the others are not. -/
def Obligations.PrivilegedHeadsOutsideAHandler : Prop :=
  (∀ (i : Instr) (h : BitVec 16) (t : BitVec 48), Privileged i = true → encode i = some (h, t) → decode false h t = .illegal .priv)
  ∧ (∀ (s : State) (sid : Nat), AtBoundary s → s.cur.run = some sid → s.enterLine.cur.stop = none → s.enterLine.decoded = some (.illegal .priv) →
      step s = .next (s.enterLine.raise 0x01 0x04) ∧ (s.enterLine.raise 0x01 0x04).cur.stop
        = some { trap := { cause := 0x01, sub := 0x04, fpc := s.cur.pc }, resume := s.cur.pc })
  ∧ (∀ (s : State) (d a : Reg) (c : Csr), csrOf (bitsOf (s.reg a) 15 0) = some c → s.handler = false →
      exec (.csrr d a) s = .next (if c = .logbase ∨ c = .loghead then s.raise 0x01 0x04 else s.answer d (s.csrValue c)))

/-- At a boundary of the focused core's strand, with an empty schedule, when the line of the PC arrives from the instruction cache or memory, passes the line check, and head and tail decode to an instruction none of whose registers or rows is still on its way and none of whose source rows holds an uncorrectable word, step is exec of that instruction in the state that has entered the line and is otherwise unchanged; the same where the line had been entered before. The schedule and the boundary's fields are the model's own (log 1). -/
def Obligations.StepRunsTheDecodedInstruction : Prop :=
  ∀ (s : State) (sid k : Nat) (l : BitVec 512) (i : Instr), AtBoundary s → s.cur.run = some sid → s.cur.past = false →
    (s.cur.line = none ∧ s.fetchLine (lineAddr s.cur.pc) = .ok l ∨ s.cur.line = some (lineAddr s.cur.pc, l)) →
    headIndex s.cur.pc = some k → lineFault l (some k) = none → decode s.handler (headWord l k) (tailWord l k) = .instr i →
    s.pendingOperand i = false → s.rowError (readRows i) = none →
    step s = exec i { s with cur := { s.cur with line := some (lineAddr s.cur.pc, l) } }

/-- With a schedule whose next pick is an event, step is exec of that event after the pick has been taken off and package time has passed by the pick's gap, which leaves memory, the strands, the map and the schedule as they are (log 177), and in which no die's counter runs backwards, or, while it is aligned, further than 4 ns from the master (log 139); with a pick of a core that exists it is that core's turn; a pick of a core that does not exist is the one fault of the model; with a pick of what befalls the panel without a row of the opcode table (log 142) step is that. The schedule is the model's own device, log entry 1. -/
def Obligations.StepLetsTheScheduledAgentMove : Prop :=
  (∀ (s : State) (dt : Nat) (i : Instr) (rest : List (Nat × Pick)), s.sched = (dt, .event i) :: rest → i.isEvent = true →
      step s = exec i (({ s with sched := rest } : State).elapse dt))
  ∧ (∀ (s : State) (dt c : Nat) (rest : List (Nat × Pick)), s.sched = (dt, .core c) :: rest →
      step s = if c < 48 * 64 * 8 then ((({ s with sched := rest } : State).elapse dt).focusOn c).coreStep else .fault .noSuchCore)
  ∧ (∀ (s : State) (dt : Nat) (c : Chance) (rest : List (Nat × Pick)), s.sched = (dt, .chance c) :: rest →
      step s = .next ((({ s with sched := rest } : State).elapse dt).befall c))
  ∧ (∀ (s : State) (dt : Nat), s.elapse 0 = s ∧ (s.elapse dt).ptime = s.ptime + dt ∧ (s.elapse dt).mem = s.mem ∧ (s.elapse dt).strands = s.strands ∧ (s.elapse dt).map = s.map ∧ (s.elapse dt).sched = s.sched
      ∧ ∀ d ∈ counterDies, s.dieTime d ≤ (s.elapse dt).dieTime d ∧ (s.aligned d = true → ((s.elapse dt).hostIf.offsets.getD d 0).natAbs ≤ 4))

/-- Whatever the state, if every core that the schedule names exists, the step answers a next state: every condition that the specification calls a trap is taken as a trap, every value it leaves open is a free value, and no instruction or event ends the run. -/
def Obligations.StepNeverStops : Prop :=
  ∀ s : State, SchedOk s → Goes s

/-- At reset memory lists no byte, which is the canonical form that the invariant of memory asks for. That an unlisted byte reads 0 is the model's choice (log 4). -/
def Obligations.ResetMemoryIsCanonical : Prop :=
  MemInv State.reset

/-- From every state whose memory is in canonical form, reached by a run or not, every step that answers a next state answers one whose memory is in canonical form, whichever instruction or event it was. -/
def Obligations.StepKeepsMemoryCanonical : Prop :=
  ∀ s t : State, MemInv s → step s = .next t → MemInv t

/-- In canonical memory, after a write of bytes at an address those bytes are read there, every byte outside them reads as before, and a byte of the range that the write does not name keeps its value; writing the bytes that are there already changes no byte. -/
def Obligations.MemoryReadAfterWrite : Prop :=
  ∀ (m : Memory) (key : Option Nat) (a : Nat) (bs : List (Option Byte)), m.wf = true →
    (m.store key a bs).wf = true
    ∧ (∀ k (hk : k < bs.length), (m.store key a bs).byte (a + k) = (bs[k]).getD (m.byte (a + k)))
    ∧ (∀ c, c < a ∨ a + bs.length ≤ c → (m.store key a bs).byte c = m.byte c)

/-- A dispatch loads PC and s1 to s7 from a record that names no other core, raises the core's run stamp and takes the strand off its list; a bad record sends it to the handler chain unstarted with CONTREC, one that cannot be read with MEMERR UNCORR and the address of its first such word (log 96), and leaves the core idle. A core that an IDLE has stopped takes no strand of another list. An unmet blocking instruction becomes a suspension point with RETRY, its access withdrawn; one that is no suspension point stays. A record written leaves its strand BLOCKED, or READY at the tail of a list where a wake came first (that a YIELD uses a latched wake up is the model's choice, log 153). A WAKE makes a BLOCKED strand READY and sets its latches; a SPAWN takes the lowest free record and the shortest list (the model's reading, log 95), whose record is its image unchanged, and answers 0, or 1 where none is free; a QPUSH puts its item behind the others and wakes the waiters, or answers 1 at a full list; both are releases at panel scope, and STORES and the kernel's messages in flight fall with their answer. An evicted slot is zero and its owner's context is in a tile unit; a restored one holds the saved bytes. An instruction that waits on counts is tried again. -/
def Obligations.StrandsAreDispatchedSuspendedWokenAndSpawned : Prop :=
  (∀ (s : State) (sid : Nat) (x : Strand) (ws : List Word) (b : Option Nat), coreExists s.focus = true → s.cur.run = none → s.clusterWorks (s.focus / 8) = true → s.live (s.focus / 8) (s.focus % 8) = true →
      s.cur.idles = false ∨ s.coreList (s.focus / 8) (s.focus % 8) ≠ [] → s.pickFor s.focus = some sid → s.strands.get? sid = some x → s.knownHere (s.focus / 8) x.vcn = true → x.saved = none → x.stop = none → s.recordWords (s.recordAt x) = (ws, b) →
      (b = none → s.badRecord x.vcn (ws.getD 0 0) = false → (bitsOf (ws.getD 0 0) 62 62 = 1 ∨ bitsOf (ws.getD 0 0) 56 56 = 1 → bitsOf (ws.getD 0 0) 60 58 = s.focus % 8) →
        ∃ t, exec (.dispatch s.focus) s = .next t ∧ t.cur.run = some sid ∧ t.cur.str.st = .running ∧ t.cur.str.vcn = x.vcn ∧ t.cur.str.asid = x.asid ∧ t.cur.pc = recPc (ws.getD 0 0)
          ∧ (∀ r : Reg, r ≠ 0 → r.toNat < 8 → t.reg r = ws.getD r.toNat 0) ∧ t.cur.runStamp = s.cur.runStamp + 1 ∧ t.cur.retry = (bitsOf (ws.getD 0 0) 0 0 == 1)
          ∧ t.strands.get? sid = none ∧ sid ∉ t.readyList x.vcn x.pos ∧ t.mem = s.mem)
      ∧ (b ≠ none ∨ s.badRecord x.vcn (ws.getD 0 0) = true → x.serves = none → (∀ q ∈ s.queues, q.2.trace = none) → (∀ c, s.ctx? x.asid = some c → c.chain ≠ []) →
        ∃ t y i f, exec (.dispatch s.focus) s = .next t ∧ t.cur.run = none ∧ t.strands.get? sid = some y ∧ y.st = .blocked ∧ y.trapMark = true ∧ y.stop = some i ∧ i.trap = some f
          ∧ (b = none → f.cause = 0x07 ∧ f.sub = 0x01)
          ∧ (∀ k, b = some k → f.cause = 0x0D ∧ f.sub = 0x01 ∧ f.addr = BitVec.ofNat 64 (s.recordAt x - clusterBase (s.focus / 8) + 8 * k)) ∧ t.mem = s.mem))
  ∧ (∀ s : State, s.cur.idles = true → s.coreList (s.focus / 8) (s.focus % 8) = [] → exec (.dispatch s.focus) s = .next s)
  ∧ (∀ s : State, coreExists s.focus = true → s.cur.run ≠ none → s.cur.stop = none → s.cur.susp = .none →
      (s.cur.wait = .block false → exec (.suspensionThreshold s.focus) s = .next s)
      ∧ (s.cur.wait = .block true → s.cur.gate = .none →
          exec (.suspensionThreshold s.focus) s = .next { s with cur := { s.cur with wait := .none, retry := true, susp := .retry } })
      ∧ (∀ id a, s.cur.wait = .block true → s.cur.gate = .access id → s.access? id = some a → a.stage = .watching →
          ∃ t, exec (.suspensionThreshold s.focus) s = .next t ∧ t.cur.susp = .retry ∧ t.cur.retry = true ∧ t.cur.gate = .none ∧ t.flight = s.flight.filter (fun b => b.id != id)
            ∧ t.counts = { s.counts with loads := s.counts.loads - 1 } ∧ t.cur.pc = s.cur.pc ∧ t.cur.regs = s.cur.regs ∧ t.mem = s.mem))
  ∧ (∀ (s : State) (sid : Nat) (x : Strand), s.strands.get? sid = some x → x.st = .suspending →
      (x.yielded = false → x.wakeLatch = false → x.pending = [] → s.metAlready x = false → ∃ t, exec (.recordWritten sid) s = .next t ∧ t.strands.get? sid = some { x with st := .blocked } ∧ t.ready = s.ready ∧ t.mem = s.mem)
      ∧ ((x.yielded = true ∨ x.wakeLatch = true ∨ x.pending ≠ [] ∨ s.metAlready x = true) → ∃ t y, exec (.recordWritten sid) s = .next t ∧ t.strands.get? sid = some y ∧ y.st = .ready ∧ y.wakeLatch = false
          ∧ t.readyList x.vcn y.pos = s.readyList x.vcn y.pos ++ [sid] ∧ t.mem = s.mem))
  ∧ (∀ (s : State) (id v r : Nat) (a : Access), s.access? id = some a → a.op = .wake v r → s.mayArrive a = true → s.releaseMet a 4 = true → s.arrive a = .here →
      (((s.kernelFor a.sid).bind fun k => s.strandAt k v r) = none → ∃ t, exec (.wakeArrival id) s = .next t ∧ t.access? id = some { a with stage := .performed [] 0 } ∧ t.mem = s.mem)
      ∧ (∀ y, ((s.kernelFor a.sid).bind fun k => s.strandAt k v r) = some y → (∀ b ∈ s.flight, b.sid = y → b.stage ≠ .watching) →
          (s.cur.run = some y → s.cur.str.st ≠ .blocked → ∃ t, exec (.wakeArrival id) s = .next t ∧ t.access? id = some { a with stage := .performed [] 0 } ∧ t.cur.str.passLatch = true ∧ t.cur.str.wakeLatch = true ∧ t.mem = s.mem)
          ∧ (∀ x, s.coreOf y = none → s.strands.get? y = some x → ∃ t z, exec (.wakeArrival id) s = .next t ∧ t.access? id = some { a with stage := .performed [] 0 } ∧ t.strands.get? y = some z ∧ z.passLatch = true ∧ t.mem = s.mem
              ∧ (x.st = .blocked → x.trapMark = false → z.st = .ready ∧ t.readyList x.vcn z.pos = s.readyList x.vcn z.pos ++ [y]) ∧ (x.st ≠ .blocked → z.st = x.st ∧ z.wakeLatch = true))))
  ∧ (∀ (s : State) (id v kid : Nat) (ws : List Word) (trig : Bool) (a : Access) (k : Kernel), s.access? id = some a → a.op = .spawn v ws trig → s.mayArrive a = true → s.releaseMet a 4 = true → s.arrive a = .here →
      ((s.strand? a.sid).bind fun x => x.kernel) = some kid → s.kernel? kid = some k →
      (s.freeRecord kid k v = none → ∃ t, exec (.spawnArrival id) s = .next t ∧ t.access? id = some { a with stage := .performed [] 1 } ∧ t.nextSid = s.nextSid ∧ t.kernel? kid = some k ∧ t.mem = s.mem)
      ∧ (∀ r, s.freeRecord kid k v = some r → s.watches = [] → s.mem.wf = true → ws.length = 8 →
          ∃ t y z, exec (.spawnArrival id) s = .next t ∧ t.access? id = some { a with stage := .performed [] 0 } ∧ t.strands.get? s.nextSid = some y ∧ y.st = .ready ∧ y.kernel = some kid ∧ y.vcn = v ∧ y.recIdx = r
            ∧ y.triggered = trig ∧ y.holding = !k.quiet ∧ t.readyList v y.pos = s.readyList v y.pos ++ [s.nextSid] ∧ t.kernel? kid = some z ∧ z.live = k.live + 1
            ∧ t.mem.read (s.recordAt y) 64 = wordsBytes ws ∧ t.counts.stores = s.counts.stores))
  ∧ (∀ (s : State) (id v d kid : Nat) (item : Word) (a : Access) (k : Kernel), s.access? id = some a → a.op = .qpush v d item → s.mayArrive a = true → s.releaseMet a 4 = true → s.arrive a = .here →
      ((s.strand? a.sid).bind fun x => x.kernel) = some kid → s.kernel? kid = some k →
      (k.hdr.wlcap ≤ (k.list v d).count → ∃ t, exec (.qpushArrival id) s = .next t ∧ t.access? id = some { a with stage := .performed [] 1 } ∧ t.kernel? kid = some k ∧ t.mem = s.mem)
      ∧ ((k.list v d).count < k.hdr.wlcap → s.watches = [] → ∃ t z, exec (.qpushArrival id) s = .next t ∧ t.access? id = some { a with stage := .performed [] 0 }
          ∧ t.mem = s.mem.store none (s.itemAddr k v d ((k.list v d).head + (k.list v d).count)) ((wordLe item).map some)
          ∧ t.kernel? kid = some z ∧ z.list v d = { k.list v d with count := (k.list v d).count + 1 }
          ∧ ∀ sid x, s.strands.get? sid = some x → s.coreOf sid = none → x.kernel = some kid → x.vcn = v → x.st = .blocked → x.trapMark = false → x.blockOn = .list d →
              ∃ y, t.strands.get? sid = some y ∧ y.st = .ready))
  ∧ (∀ (s : State) (id : Nat) (a : Access) (bs : List Byte) (old : Word), s.access? id = some a → a.stage = .performed bs old → a.core = s.focus → s.cur.run = some a.sid → a.group = none →
      ((∃ v ws tr, a.op = .spawn v ws tr) ∨ ∃ v d w, a.op = .qpush v d w) →
      ∃ t, exec (.accessResponse id) s = .next t ∧ t.counts.stores = s.counts.stores - 1 ∧ t.flight = s.flight.filter (fun b => b.id != a.id) ∧ (∀ d, a.dest = .status d → d ≠ 0 → t.reg d = old)
        ∧ t.mem = s.mem ∧ ∀ k y, s.cur.str.kernel = some k → s.kernel? k = some y → t.kernel? k = some { y with inflight := y.inflight - 1 })
  ∧ (∀ (s : State) (i : Instr) (sid k v u : Nat) (x : Strand) (c : Ctx), coreExists s.focus = true → s.decoded = some (.instr i) → s.cur.run = some sid → s.cur.line.map (fun e => e.1) = some s.fetchAddr →
      s.cur.str.slot = none → s.cur.freeSlot = none → writesTile i = true → s.victimSlot = some k → s.cur.slotOwner k = some v → s.strands.get? v = some x → s.ctx? x.asid = some c → c.freeUnit = some u → s.watches = [] →
      ∃ t y z, exec (.tileEvictionDone s.focus) s = .next t ∧ t.cur.str.slot = some k ∧ t.cur.slotOwner k = some sid ∧ t.cur.wait = .none ∧ t.cur.regs = s.cur.regs ∧ t.cur.pc = s.cur.pc
        ∧ t.strands.get? v = some y ∧ y.slot = none ∧ y.saved = some (.unit u) ∧ t.ctx? x.asid = some z ∧ u ∈ z.units
        ∧ (s.mem.wf = true → ∀ j < 0x2000, t.mem.byte (s.slotAddr k 0 + j) = 0))
  ∧ (∀ (s : State) (w : SavedAt) (k : Nat) (c : Ctx) (bs : List Byte) (b : Bool), coreExists s.focus = true → s.cur.str.saved = some w → s.cur.str.slot = some k → s.cur.gate = .unit → s.ctx? s.asid = some c →
      s.readSaved s.asid c s.vcn w = .ok (bs, b) → ∃ t, exec (.tileRestoreDone s.focus) s = .next t ∧ t.cur.str.saved = none ∧ t.cur.str.slot = some k ∧ t.cur.gate = .none ∧ t.cur.wait = .none
        ∧ t.mem = s.mem.store none (s.slotAddr k 0) (bs.map some) ∧ t.cur.regs = s.cur.regs)
  ∧ (∀ s : State, coreExists s.focus = true → s.cur.run ≠ none → s.cur.gate = .none → s.cur.susp = .none → exec (.countWaitMet s.focus) s = .next { s with cur := { s.cur with wait := .none } })

/-- Once its counts have drained a trap takes the strand off its core: BLOCKED under its trap mark, with the image of its registers and resume PC, its message behind the others of chain entry 0; an acknowledged handler's trap goes to the next entry, an unacknowledged one's is a double fault of the strand it served; where there is no entry the cluster halts with a record, and its mooring is to be published. An asynchronous trap is latched in order and readies a BLOCKED strand. A granted slot holds the frame, and its handler stands READY at the head of a list. TACK marks the frame acknowledged. TRET first acts as TACK and waits for the handler's counts, and for the tile instructions of a strand that is to be rolled back (log 169). TRET 0 makes the strand READY from its image, its faulted pieces with it; a bad image is CONTREC. TRET 1 ends the strand, at once or when its tile instructions have, or abandons a rolled-up tile instruction, which completes where nothing older in its scope is outstanding, and goes on. A strand that is to be rolled back takes its MARK's record. Each then frees the handler and the frame slot. -/
def Obligations.TrapsReachTheChainAndReturn : Prop :=
  (∀ (s : State) (p : PendingStop), coreExists s.focus = true → s.cur.stop = some p → (s.counts.drained && s.lanesIdle) = false → exec (.trapStop s.focus) s = .next s)
  ∧ (∀ (s : State) (p : PendingStop) (sid : Nat) (c : Ctx), coreExists s.focus = true → s.cur.stop = some p → s.counts.drained = true → s.lanesIdle = true → s.cur.run = some sid → s.ctx? s.asid = some c →
      (∀ q ∈ s.queues, q.2.trace = none) →
      (∀ j, (s.cur.str.serves = none ∧ j = 0 ∨ ∃ f, s.cur.str.serves = some f ∧ s.cur.str.acked = true ∧ j = f.chain + 1) →
        (∀ e, c.chain[j]? = some e → ∃ t y d e', exec (.trapStop s.focus) s = .next t ∧ t.cur.run = none ∧ t.strands.get? sid = some y ∧ y.st = .blocked ∧ y.trapMark = true ∧ y.stop = some (s.stopImage p)
          ∧ t.ctx? s.asid = some d ∧ d.chain[j]? = some e' ∧ e'.queue = e.queue ++ [(sid, [])] ∧ t.mem = s.mem)
        ∧ (c.chain[j]? = none → ∃ t, exec (.trapStop s.focus) s = .next t ∧ t.cur.run = none ∧ (t.cluster (s.host s.vcn)).halted = true ∧ .moor s.vcn true ∈ t.pubReqs
          ∧ (s.hostIf.errTail - s.hostIf.errHead < 256 → t.hostIf.errTail = s.hostIf.errTail + 1) ∧ t.mem = s.mem))
      ∧ (∀ f orig e, s.cur.str.serves = some f → s.cur.str.acked = false → s.servedBy s.asid f = some orig → orig ≠ sid → c.chain[f.chain + 1]? = some e →
          ∃ t d e' second, exec (.trapStop s.focus) s = .next t ∧ t.cur.run = none ∧ t.strands.get? sid = none ∧ t.ctx? s.asid = some d ∧ d.chain[f.chain + 1]? = some e'
            ∧ e'.queue = e.queue ++ [(orig, second)] ∧ second.length = 128 ∧ field second 0 1 = p.trap.cause % 256 ∧ field second 8 8 = p.trap.fpc.toNat))
  ∧ (∀ (s : State) (p : PendingStop), (s.stopImage p).trap = some p.trap ∧ (s.stopImage p).words.length = 8 ∧ (∀ r : Reg, r ≠ 0 → r.toNat < 8 → (s.stopImage p).words.getD r.toNat 0 = s.reg r)
      ∧ (p.resume.getLsbD 0 = false → recPc ((s.stopImage p).words.getD 0 0) = p.resume))
  ∧ (∀ (x : Strand) (j : Nat) (second : List Byte) (i : StopImage) (f : Trap), x.stop = some i → i.trap = some f → i.words.length = 8 →
      (slotBytes x j second).length = 2048 ∧ field (slotBytes x j second) 0 1 = f.cause % 256 ∧ field (slotBytes x j second) 1 1 = f.sub % 256 ∧ field (slotBytes x j second) 8 8 = f.fpc.toNat
        ∧ field (slotBytes x j second) 16 8 = f.addr.toNat ∧ field (slotBytes x j second) 24 8 = f.seq.toNat ∧ ∀ k < 8, field (slotBytes x j second) (0x80 + 8 * k) 8 = (i.words.getD k 0).toNat)
  ∧ (∀ (s : State) (sid : Nat) (e : Nat × Trap), s.asyncFlight.find? (fun e => e.1 == sid) = some e →
      (s.cur.run = some sid → s.cur.str.ending = false → s.cur.str.st ≠ .blocked → ∃ t, exec (.asyncTrapArrival sid) s = .next t ∧ t.cur.str.pending = s.cur.str.pending ++ [e.2] ∧ t.asyncFlight = s.asyncFlight.erase e
          ∧ t.cur.pc = s.cur.pc ∧ t.cur.regs = s.cur.regs ∧ t.mem = s.mem)
      ∧ (∀ x, s.coreOf sid = none → s.strands.get? sid = some x → x.ending = false → ∃ t y, exec (.asyncTrapArrival sid) s = .next t ∧ t.strands.get? sid = some y ∧ y.pending = x.pending ++ [e.2]
          ∧ (x.st = .blocked → x.trapMark = false → y.st = .ready ∧ t.readyList x.vcn y.pos = s.readyList x.vcn y.pos ++ [sid]) ∧ (x.st ≠ .blocked ∨ x.trapMark = true → y.st = x.st) ∧ t.mem = s.mem))
  ∧ (∀ (s u : State) (asid j sid k : Nat) (c : Ctx) (e : ChainEntry) (x : Strand) (second : List Byte) (rest : List (Nat × List Byte)), s.ctx? asid = some c → c.inPlace = true → c.chain[j]? = some e →
      e.queue = (sid, second) :: rest → e.freeSlot = some k → s.coreOf sid = none → s.strands.get? sid = some x → sid ≠ s.nextSid → s.watches = [] →
      s.frameLater asid (e.frames.toNat + 2048 * k) = false → u = s.modChain asid j (fun e => { e with queue := rest }) →
      (∀ v, u.writeFrame asid (e.frames.toNat + 2048 * k) (slotBytes x j second) = .ok v →
        ∃ t h y d e', exec (.frameSlotGrant asid j) s = .next t ∧ t.strands.get? s.nextSid = some h ∧ h.st = .ready ∧ h.serves = some { chain := j, slot := k } ∧ h.vcn = e.hvcn ∧ h.asid = asid ∧ h.recIdx = k
          ∧ t.readyList e.hvcn h.pos = s.nextSid :: s.readyList e.hvcn h.pos ∧ t.strands.get? sid = some y ∧ y.frame = some { chain := j, slot := k } ∧ t.ctx? asid = some d ∧ d.chain[j]? = some e'
          ∧ e'.queue = rest ∧ k ∈ e'.busy)
      ∧ (∀ f e1, u.writeFrame asid (e.frames.toNat + 2048 * k) (slotBytes x j second) = .error f → c.chain[j + 1]? = some e1 →
        ∃ t d e' b, exec (.frameSlotGrant asid j) s = .next t ∧ t.ctx? asid = some d ∧ d.chain[j + 1]? = some e' ∧ e'.queue = e1.queue ++ [(sid, b)] ∧ field b 0 1 = f.cause % 256 ∧ t.mem = s.mem))
  ∧ (∀ s : State, (s.cur.str.acked = true → exec .tack s = .next s.advance) ∧ (s.cur.str.acked = false → s.counts.drained = false → exec .tack s = .next (s.waiting .stall))
      ∧ (s.cur.str.acked = false → s.counts.drained = true → ∃ t, exec .tack s = .next t ∧ t.cur.str.acked = true ∧ t.cur.pc = s.nextPc ∧ t.cur.regs = s.cur.regs ∧ t.cur.run = s.cur.run
          ∧ ∀ u v va b, u = s.setStr (fun x => { x with acked := true }) → s.frameAddr = some va → u.devRead s.asid (va + 2) 1 = .ok [b] → u.devWrite s.asid (va + 2) [b ||| 2] = .ok v → t.mem = v.mem))
  ∧ (∀ s : State, s.counts.drained = false → exec .tretResume s = .next (s.waiting .stall) ∧ exec .tretAbandon s = .next (s.waiting .stall))
  ∧ (∀ s : State, s.counts.drained = true → s.cur.str.acked = true → s.counts.zero = false → exec .tretResume s = .next (s.waiting .stall) ∧ exec .tretAbandon s = .next (s.waiting .stall))
  ∧ (∀ s : State, s.counts.drained = true → s.cur.str.acked = false → s.ackFrame.counts = s.counts → exec .tretResume s = exec .tretResume s.ackFrame ∧ exec .tretAbandon s = exec .tretAbandon s.ackFrame)
  ∧ (∀ (s : State) (hid sid va : Nat) (f : FrameRef) (x : Strand) (bs : List Byte) (g : Trap) (c : Ctx) (e : ChainEntry), s.counts.zero = true → s.cur.str.acked = true → s.cur.run = some hid → s.cur.str.kernel = none →
      s.cur.str.serves = some f → s.servedBy s.asid f = some sid → s.frameAddr = some va → hid ≠ sid → s.coreOf sid = none → s.strands.get? sid = some x → s.devRead s.asid (va + 0x80) 128 = .ok bs →
      (∀ w ∈ s.watches, w.sid ≠ sid) → s.ctx? s.asid = some c → c.chain[f.chain]? = some e → ((x.stop.bind fun i => i.trap).getD { cause := 0, sub := 0 }) = g →
      (x.rollbackDue = false → s.badRecord x.vcn (dwordOf bs 0) = true → ∃ t p, exec .tretResume s = .next t ∧ t.cur.stop = some p ∧ p.trap.cause = 0x07 ∧ p.trap.sub = 0x01 ∧ t.cur.run = some hid)
      ∧ (x.rollbackDue = false → s.badRecord x.vcn (dwordOf bs 0) = false → ∃ t z d e', exec .tretResume s = .next t ∧ t.cur.run = none ∧ t.strands.get? hid = none ∧ t.strands.get? sid = some z ∧ z.st = .ready
          ∧ z.trapMark = false ∧ z.stop = none ∧ z.frame = none ∧ z.high = some (bytesWords 8 (bs.drop 64)) ∧ sid ∈ t.readyList x.vcn z.pos ∧ t.tiles = (if g.roll then (s.resumePieces sid g.seq).tiles else s.tiles)
          ∧ t.mem = s.mem.store none (s.recordAt x) ((wordsBytes (bytesWords 8 bs)).map some)
          ∧ t.ctx? s.asid = some d ∧ d.chain[f.chain]? = some e' ∧ f.slot ∉ e'.busy ∧ ∀ k ∈ e.busy, k ≠ f.slot → k ∈ e'.busy)
      ∧ (x.rollbackDue = false → g.roll = false → x.counts.tiles = 0 → (∀ r ∈ s.tiles, r.sid = sid → r.st ≠ .faulted) →
          ∃ t d e', exec .tretAbandon s = .next t ∧ t.cur.run = none ∧ t.strands.get? hid = none ∧ t.strands.get? sid = none ∧ t.tiles = s.tiles ∧ t.mem = s.mem
            ∧ (∀ k y, x.kernel = some k → s.kernel? k = some y → ∃ z, t.kernel? k = some z ∧ z.live = y.live - 1)
            ∧ t.ctx? s.asid = some d ∧ d.chain[f.chain]? = some e' ∧ f.slot ∉ e'.busy)
      ∧ (x.rollbackDue = false → g.roll = false → x.counts.tiles ≠ 0 → (∀ r ∈ s.tiles, r.sid = sid → r.st ≠ .faulted) →
          ∃ t z, exec .tretAbandon s = .next t ∧ t.cur.run = none ∧ t.strands.get? hid = none ∧ t.strands.get? sid = some z ∧ z.ending = true ∧ z.window = {} ∧ z.st = x.st ∧ t.tiles = s.tiles ∧ t.mem = s.mem)
      ∧ (∀ r, x.rollbackDue = false → g.roll = true → s.tiles.find? (State.isRoot sid g.seq) = some r → s.root? r.seq = some r → s.rootReleased r = true → (∀ q ∈ s.tiles, q.sid = sid → q.st ≠ .done) → x.ending = false →
          ∃ t z, exec .tretAbandon s = .next t ∧ t.cur.run = none ∧ t.strands.get? hid = none ∧ t.root? r.seq = none ∧ t.strands.get? sid = some z ∧ z.st = .ready ∧ z.counts.tiles = x.counts.tiles - 1)
      ∧ (x.rollbackDue = true → (∃ r ∈ s.tiles, r.sid = sid ∧ r.st ≠ .faulted) → exec .tretResume s = .next (s.waiting .stall) ∧ exec .tretAbandon s = .next (s.waiting .stall))
      ∧ (x.rollbackDue = true → (∀ r ∈ s.tiles, r.sid ≠ sid) → s.watches = [] →
          (∃ t z, exec .tretResume s = .next t ∧ t.cur.run = none ∧ t.strands.get? hid = none ∧ t.strands.get? sid = some z ∧ z.st = .ready ∧ z.rollbackDue = false ∧ z.slot = none ∧ z.saved = none ∧ z.frame = none)
          ∧ (g.roll = false → x.counts.tiles = 0 → ∃ t, exec .tretAbandon s = .next t ∧ t.cur.run = none ∧ t.strands.get? hid = none ∧ t.strands.get? sid = none)))

/-- A launch message makes one strand for each work identifier of its virtual cluster, in ascending order, each with its record, READY on the list of a live core in turn. A kernel with messages, queued items, items under way or a holding strand is not quiescent; one without becomes so, and each of its clusters learns it. A kernel with messages or live strands does not complete; another does: DONE and the queue's count rise, and it is gone, a failed arrival being charged to the packet. After WDLIM of residency its context is pre-empted, after twice that its running strands trap WATCHDOG once, after three times its queue is killed. A residue failure is counted; in an open window it calls for rollback, elsewhere it is MEMERR RESIDUE at its instruction. A piece on a lane group that fails ends with that sub-fault, or calls for rollback. A rollback waits for the counts, for a trap on its way and for the trap mark, restores old data and starts the strand again from its MARK. (That a message's strands come in one event, what counts as in flight, and what WATCHDOG_TRAP sends are the model's choices, logs 94, 97, 116.) -/
def Obligations.KernelsRunCompleteAndAreWatched : Prop :=
  (∀ (s : State) (k v : Nat) (y : Kernel) (c : Ctx), s.kernel? k = some y → v ∈ y.messages → s.ctx? y.asid = some c → c.inPlace = true → s.watches = [] → s.mem.wf = true →
      ∃ t z, exec (.launchMessage k v) s = .next t ∧ t.kernel? k = some z ∧ v ∉ z.messages ∧ z.live = y.live + (y.hdr.idsOn v).length ∧ t.nextSid = s.nextSid + (y.hdr.idsOn v).length
        ∧ ∀ i < (y.hdr.idsOn v).length, ∃ x, t.strands.get? (s.nextSid + i) = some x ∧ x.st = .ready ∧ x.kernel = some k ∧ x.vcn = v ∧ x.asid = y.asid ∧ x.recIdx = i ∧ x.holding = true
            ∧ x.pos = (s.livePos v).getD (i % (s.livePos v).length) 0 ∧ s.nextSid + i ∈ t.readyList v x.pos
            ∧ t.mem.read (s.recordAt x + 8) 16 = wordLe (BitVec.ofNat 64 ((y.hdr.idsOn v).getD i 0)) ++ wordLe y.hdr.args)
  ∧ (∀ (s : State) (k : Nat) (y : Kernel), s.kernel? k = some y →
      (y.past = false → exec (.kernelCompletion k) s = .next s)
      ∧ (y.past = true → y.hdr.done = 0 → (s.queue y.q).trace = none → ∃ t, exec (.kernelCompletion k) s = .next t ∧ t.kernel? k = none ∧ t.queue y.q = { s.queue y.q with done := (s.queue y.q).done + 1 } ∧ t.mem = s.mem)
      ∧ (∀ u ok, y.past = true → s.doneArrival y = some (u, ok) → (u.queue y.q).trace = none → ∃ t, exec (.kernelCompletion k) s = .next t ∧ t.kernel? k = none ∧ t.mem = u.mem
          ∧ t.queue y.q = { u.queue y.q with done := (u.queue y.q).done + 1, failNext := if ok = true then (u.queue y.q).failNext else some y.pkt })
      ∧ (y.past = true → s.doneArrival y = none → exec (.kernelCompletion k) s = .next s))
  ∧ (∀ y : Kernel, y.past = true ↔ y.messages = [] ∧ y.live = 0)
  ∧ (∀ (s : State) (k : Nat) (y : Kernel), s.kernel? k = some y → y.quiet = false →
      (y.messages = [] → y.inflight = 0 → (∀ l ∈ y.lists, l.2.count = 0) → (∀ e ∈ s.allStrands, e.2.kernel = some k → e.2.holding = false) →
        ∃ t, exec (.quiescence k) s = .next t ∧ t.kernel? k = some { y with quiet := true } ∧ t.mem = s.mem ∧ t.strands = s.strands)
      ∧ ((y.messages ≠ [] ∨ y.inflight ≠ 0 ∨ (∃ l ∈ y.lists, l.2.count ≠ 0) ∨ ∃ e ∈ s.allStrands, e.2.kernel = some k ∧ e.2.holding = true) → exec (.quiescence k) s = .next s))
  ∧ (∀ (s : State) (k v : Nat) (y : Kernel), s.kernel? k = some y → y.quiet = true → v ∉ y.told → y.hdr.vcbase ≤ v → v < y.hdr.vcbase + y.hdr.vccount →
      ∃ t, exec (.quiescenceArrival k v) s = .next t ∧ t.kernel? k = some { y with told := v :: y.told } ∧ t.mem = s.mem
        ∧ ∀ sid x d, s.strands.get? sid = some x → s.coreOf sid = none → x.kernel = some k → x.vcn = v → x.st = .blocked → x.trapMark = false → x.blockOn = .list d → ∃ z, t.strands.get? sid = some z ∧ z.st = .ready)
  ∧ (∀ (s : State) (k : Nat) (y : Kernel) (c : Ctx), s.kernel? k = some y → s.ctx? y.asid = some c → c.resident = true → c.stopped = false → (s.queue y.q).wdlim ≠ 0 →
      (s.ptime - y.timer < (s.queue y.q).wdlim * 1000 → exec (.watchdogLimit k) s = .next s)
      ∧ (s.ptime - y.timer < 2 * ((s.queue y.q).wdlim * 1000) → exec (.watchdogTrap k) s = .next s) ∧ (s.ptime - y.timer < 3 * ((s.queue y.q).wdlim * 1000) → exec (.watchdogKill k) s = .next s)
      ∧ ((s.queue y.q).wdlim * 1000 ≤ s.ptime - y.timer → c.stopReq = false → ∃ t, exec (.watchdogLimit k) s = .next t ∧ t.ctx? y.asid = some { c with preempt := true } ∧ t.mem = s.mem ∧ t.queues = s.queues)
      ∧ (∀ sid, 2 * ((s.queue y.q).wdlim * 1000) ≤ s.ptime - y.timer → y.wdTrapped = false → s.cur.run = some sid → s.cur.str.kernel = some k → s.cur.str.st ≠ .blocked → (∀ e ∈ s.cores, e.2.run ≠ some sid) →
          ∃ t, exec (.watchdogTrap k) s = .next t ∧ t.cur.str.pending = s.cur.str.pending ++ [{ cause := 0x0A, sub := 0x01, fpc := s.cur.pc }] ∧ t.kernel? k = some { y with wdTrapped := true } ∧ t.mem = s.mem)
      ∧ (3 * ((s.queue y.q).wdlim * 1000) ≤ s.ptime - y.timer → ∃ t, exec (.watchdogKill k) s = .next t ∧ (t.queue y.q).st = .killed ∧ (t.queue y.q).code = 0x05 ∧ (∀ e ∈ t.kernels, e.2.q ≠ y.q)
          ∧ ∀ sid x, s.strands.get? sid = some x → x.kernel = some k → t.strands.get? sid = none))
  ∧ (∀ (s : State) (back : Nat) (pc : BitVec 56), coreExists s.focus = true → s.cur.run ≠ none → s.cur.unchecked[back]? = some pc →
      ∃ t, exec (.residueReject s.focus back) s = .next t ∧ (t.cluster s.pcn).resid = min 255 ((s.cluster s.pcn).resid + 1) ∧ t.cur.regs = s.cur.regs ∧ t.mem = s.mem
        ∧ (s.cur.str.window.st = .opened → t.cur.str.rollbackDue = true ∧ t.cur.str.pending = s.cur.str.pending)
        ∧ (s.cur.str.window.st ≠ .opened → t.cur.str.pending = s.cur.str.pending ++ [{ cause := 0x0D, sub := 0x03, fpc := pc }] ∧ t.cur.str.rollbackDue = s.cur.str.rollbackDue))
  ∧ (∀ (s : State) (b seq idx : Nat) (r : TileRoot) (l : Leaf) (x : Strand), coreExists s.focus = true → (s.lanePieces s.pcn)[b]? = some (seq, idx) → s.leaf? seq idx = some (r, l) → s.strand? r.sid = some x →
      ∃ t, exec (.residueReject s.focus (s.cur.unchecked.length + b)) s = .next t ∧ (t.cluster s.pcn).resid = min 255 ((s.cluster s.pcn).resid + 1) ∧ t.mem = s.mem
        ∧ (x.window.st = .opened → ∃ y, t.strand? r.sid = some y ∧ y.rollbackDue = true)
        ∧ (x.window.st ≠ .opened → ∃ r' l' f, t.leaf? seq idx = some (r', l') ∧ l'.fail = some (0, f) ∧ f.cause = 0x0D ∧ f.sub = 0x03 ∧ f.leaf = l.idx ∧ t.strand? r.sid = some x))
  ∧ (∀ (s : State) (sid : Nat), s.cur.run = some sid →
      ((s.cur.str.rollbackDue = false ∨ s.counts.zero = false ∨ s.cur.str.trapMark = true ∨ s.cur.stop ≠ none ∨ s.settled s.cur.str = false) → exec (.rollbackDone sid) s = .next s)
      ∧ (∀ u img, s.cur.str.rollbackDue = true → s.counts.zero = true → s.cur.str.trapMark = false → s.cur.stop = none → s.settled s.cur.str = true → s.rollbackWindow s.asid (chipOf (s.host s.vcn)) s.vcn s.cur.str.window = (u, img) →
          ∃ t, exec (.rollbackDone sid) s = .next t ∧ t.mem = u.mem ∧ t.cur.run = some sid ∧ t.cur.pc = recPc (img.getD 0 0) ∧ (∀ r : Reg, r ≠ 0 → r.toNat < 8 → t.reg r = img.getD r.toNat 0)
            ∧ (∀ r : Reg, 8 ≤ r.toNat → t.reg r = 0) ∧ t.cur.str.slot = none ∧ t.cur.str.rollbackDue = false ∧ t.cur.stop = none ∧ t.cur.wait = .none))
  ∧ (∀ (s : State) (asid : Nat) (e : Entry) (g : Seg), s.entrySegs asid e = [g] → g.n = e.data.length → s.homeFault g.loc = none → writeErr s.mem s.lostDies (s.homeKey g.loc) g.n (s.homeFlat g.loc) (e.data.map some) = none →
      s.migrations = [] → s.mem.wf = true → s.watches = [] → (s.restoreEntry asid e []).mem.read (s.homeFlat g.loc) e.data.length = e.data)

/-- A waiting context that needs clusters pre-empts a resident one of lower priority, and after 4 ms one of equal priority; no other. An evicted context, none that CTXSTOP stops, drops its watches with their latches set; once its save is acknowledged it is away, SAVESEQ is one higher and its map entries are NONRES under a new GEN. An image with its own header passes its check, one of another SAVESEQ fails it. A context that is next to come, none of its strands held in an eviction area, has each virtual cluster on the cluster chosen for it; a handler table that cannot be used stops its queues instead; an image that fails on both halves loses the context and kills its queues. A page walk fills the caches of the agents that missed, an invalid one nothing. The oldest ASGEN ends once all older work has been performed, with the generation in its register, and the next begins. A fetched line is served from the cluster's cache (that only these events fill caches is the model's choice, log 25). -/
def Obligations.ContextsComeAndGoAndCachesFill : Prop :=
  (∀ (s : State) (asid victim p : Nat) (a v : Ctx), s.ctx? asid = some a → s.ctx? victim = some v → s.ctxPrio asid = some p → a.resident = false → a.lost = false → v.resident = true → v.preempt = false → v.stopped = false → v.stopReq = false →
      (s.needsClusters a = true → (∀ q, s.ctxPrio victim = some q → q < p) → ∃ t, exec (.residencyArbitration asid victim) s = .next t ∧ t.ctx? victim = some { v with preempt := true } ∧ t.ctx? asid = some a ∧ t.mem = s.mem)
      ∧ (∀ q, s.ctxPrio victim = some q → p ≤ q → exec (.residencyArbitration asid victim) s = .next s)
      ∧ (s.needsClusters a = false → exec (.residencyArbitration asid victim) s = .next s))
  ∧ (∀ (s : State) (asid : Nat) (c : Ctx), s.ctx? asid = some c → c.resident = true → c.preempt = false → c.stopped = false → c.stopReq = false →
      (s.ptime < c.residentAt + 4000000 → exec (.residencyQuantum asid) s = .next s)
      ∧ (∀ e ∈ s.ctxs, c.residentAt + 4000000 ≤ s.ptime → s.waits e = true → s.ctxPrio e.1 = s.ctxPrio asid → s.needsClusters e.2 = true →
          ∃ t, exec (.residencyQuantum asid) s = .next t ∧ t.ctx? asid = some { c with preempt := true } ∧ t.mem = s.mem))
  ∧ (∀ (s : State) (asid : Nat) (c : Ctx), s.ctx? asid = some c → c.resident = true → c.preempt = true → c.stopReq = false → c.stopped = false → c.saving = false → s.quiet asid = true →
      ∃ t, exec (.contextEviction asid) s = .next t ∧ t.ctx? asid = some { c with evicting := true, saving := true } ∧ t.mem = s.mem
        ∧ (∀ w ∈ t.watches, ∀ x, s.strands.get? w.sid = some x → x.asid ≠ asid)
        ∧ ∀ w ∈ s.watches, ∀ x, s.strands.get? w.sid = some x → x.asid = asid → s.coreOf w.sid = none → (∀ b ∈ s.flight, b.sid = w.sid → b.stage ≠ .watching) →
            ∃ y, t.strands.get? w.sid = some y ∧ y.passLatch = true)
  ∧ (∀ (s : State) (asid : Nat) (c : Ctx), s.ctx? asid = some c → c.saving = true → s.quiet asid = true →
      ∃ t d, exec (.saveAcknowledged asid) s = .next t ∧ t.ctx? asid = some d ∧ d.resident = false ∧ d.saving = false ∧ d.evicting = false ∧ d.preempt = false ∧ d.saveSeq = c.saveSeq + 1 ∧ t.mapSeq = s.mapSeq + 1
        ∧ ∀ i < c.vcnum, (t.mapNow (c.vcfirst + i)).valid = true ∧ (t.mapNow (c.vcfirst + i)).nonres = true ∧ (t.mapNow (c.vcfirst + i)).gen = (s.mapNow (c.vcfirst + i)).gen + 1
            ∧ (t.mapNow (c.vcfirst + i)).moored = (s.mapNow (c.vcfirst + i)).moored)
  ∧ (∀ (c : Ctx) (asid idx va : Nat) (body : List Byte), c.saveSeq < 2 ^ 64 → c.checkSaved asid idx va (c.header asid idx body) body = .ok body
      ∧ ∀ d : Ctx, d.saveKey = c.saveKey → d.saveSeq ≠ c.saveSeq → d.checkSaved asid idx va (c.header asid idx body) body = .error (3, va))
  ∧ (∀ (s : State) (asid : Nat) (pcns : List Nat) (c : Ctx), s.ctx? asid = some c → c.resident = false → c.lost = false → s.ctxPrio asid ≠ none → s.nextToCome asid c = true → pcns.length = c.vcnum → pcns.Nodup → (∀ p ∈ List.zip c.vcns pcns, s.mayHost p = true) →
      (∀ e ∈ s.strands, e.2.asid = asid → ∀ p k, e.2.saved ≠ some (.area p k)) →
      (∀ u, (if c.everResident then s.installAll asid c (List.zip c.vcns pcns) else .ok s) = .ok u →
        (∀ chain, (u.publish ((List.zip c.vcns pcns).map fun p => (p.1, { s.mapNow p.1 with pcn := p.2, valid := true, nonres := false, grace := false }))).readChain asid c = some chain →
          ∃ t d, exec (.makeResident asid pcns) s = .next t ∧ t.ctx? asid = some d ∧ d.resident = true ∧ d.everResident = true ∧ d.residentAt = s.ptime ∧ t.mapSeq = s.mapSeq + 1
            ∧ ∀ i < c.vcnum, (t.mapNow (c.vcfirst + i)).valid = true ∧ (t.mapNow (c.vcfirst + i)).nonres = false ∧ (t.mapNow (c.vcfirst + i)).pcn = pcns.getD i 0
                ∧ (t.mapNow (c.vcfirst + i)).gen = (s.mapNow (c.vcfirst + i)).gen + 1)
        ∧ ((u.publish ((List.zip c.vcns pcns).map fun p => (p.1, { s.mapNow p.1 with pcn := p.2, valid := true, nonres := false, grace := false }))).readChain asid c = none →
          ∃ t, exec (.makeResident asid pcns) s = .next t ∧ t.ctx? asid = some { c with waitingSince := none } ∧ t.map = s.map ∧ t.mem = s.mem ∧ ∀ q ∈ s.queuesOf asid, (s.queue q).enable = true → (t.queue q).st = .stopped ∧ (t.queue q).code = 0x04))
      ∧ (∀ v e, c.everResident = true → s.installAll asid c (List.zip c.vcns pcns) = .error (v, e) →
          ∃ t d, exec (.makeResident asid pcns) s = .next t ∧ t.ctx? asid = some d ∧ d.resident = false ∧ (s.hostIf.errTail - s.hostIf.errHead < 256 → t.hostIf.errTail = s.hostIf.errTail + 1)
            ∧ ∀ q ∈ s.queuesOf asid, (s.queue q).enable = true → (t.queue q).st = .killed ∧ (t.queue q).code = 0x04))
  ∧ (∀ (s : State) (chip asid va : Nat) (misses : List Agent) (c : Ctx), s.ctx? asid = some c →
      (∀ k, s.walkFrom c va 4 c.ptroot = .error k → exec (.pageWalkDone ⟨chip, misses⟩ asid va) s = .next s)
      ∧ (∀ p, s.walkFrom c va 4 c.ptroot = .ok p → ∃ t, exec (.pageWalkDone ⟨chip, misses⟩ asid va) s = .next t
          ∧ (∀ a ∈ misses, agentChip a = some chip → ∀ k ∈ agentCaches a, ∃ e ∈ t.tlb, e.at_ = k ∧ e.asid = asid ∧ e.gen = c.genFor s.ptime a ∧ e.base = p.base ∧ e.size = p.size ∧ e.leaf = p.leaf)
          ∧ (∀ x ∈ s.tlb, (∀ a ∈ misses, agentChip a = some chip → x.at_ ∉ agentCaches a) → x ∈ t.tlb) ∧ t.mem = s.mem))
  ∧ (∀ (s : State) (asid : Nat) (c : Ctx) (b : AsgenBy) (rest : List AsgenBy), s.ctx? asid = some c → c.asgens = b :: rest →
      (s.oldGenOver asid c.gen = false → exec (.asgenDone asid) s = .next s)
      ∧ (s.oldGenOver asid c.gen = true →
          (∀ sid d, b = .strand sid d → s.cur.run = some sid → s.cur.gate = .unit → ∃ t z, exec (.asgenDone asid) s = .next t ∧ t.cur.gate = .none ∧ t.cur.pc = s.nextPc ∧ (d ≠ 0 → t.reg d = c.gen.zeroExtend 64)
            ∧ (∀ r, r ≠ d → t.reg r = s.reg r) ∧ t.ctx? asid = some z ∧ z.asgens = rest ∧ z.gen = (if rest = [] then c.gen else c.gen + 1) ∧ t.mem = s.mem)
          ∧ (∀ mid m, b = .migration mid → s.migrations.find? (fun m => m.mid == mid) = some m → ∃ t, exec (.asgenDone asid) s = .next t ∧ (t.mbox m.inst).st = 2 ∧ (∀ x ∈ t.migrations, x.mid ≠ mid) ∧ t.mem = s.mem)))
  ∧ (∀ (s : State) (asid sid : Nat) (c : Ctx) (rest : List Nat), s.ctx? asid = some c → c.csrws = sid :: rest → s.cur.run = some sid → s.cur.gate = .unit →
      ∃ t, exec (.csrwCompletion asid) s = .next t ∧ t.cur.gate = .none ∧ t.cur.pc = s.nextPc ∧ t.cur.regs = s.cur.regs ∧ t.ctx? asid = some { c with csrws := rest } ∧ t.mem = s.mem)
  ∧ (∀ (s : State) (l : BitVec 512), s.cur.run ≠ none → (∀ e ∈ s.icache, ¬ (e.1 = s.pcn ∧ e.2.1 = s.fetchAddr ∧ e.2.2.1 = s.asid)) → s.readLine s.fetchAddr = .ok l →
      ∃ t, exec .lineFetch s = .next t ∧ t.fetchLine s.fetchAddr = .ok l ∧ t.mem = s.mem ∧ t.cur = s.cur)

/-- A chiplet's step begins at its instant of each 25 ms, not otherwise: the due cluster drains towards the shadow. It reaches its drain point only when every condition holds, and is deferred 200 us after its instant, DEFER rising. The last copy, which takes its time, publishes its virtual clusters at the new cluster with GRACE, the old place and a new GEN; the old cluster goes to TEST; a shadow that is lost, or a dead router of either cluster, ends the step, and a moored cluster that is to be retired is RETIRED at the publication. GRACE is cleared 50 us later. A patch copies a dirty segment whole. A self-test that passes makes the cluster that has been in TEST longest the shadow where there is none; one that fails asks for its retirement. A mooring or a retirement takes effect at its publication; a dead router's cluster is retired. A cluster reinstated goes to TEST, and where four are out the shadow returns to service (that no other cluster leaves TEST by passing, and which returns, is the model's choice, log 156; so are what the drain point needs beside R279, which cluster the next step takes, and that the due one stays due while another steps, logs 119, 122, 162). A router has a publication from its arrival on. -/
def Obligations.RotationStepsAndMapPublications : Prop :=
  (∀ (s : State) (v : Nat) (on : Bool), s.cpRuns = true → s.pubReqs.find? s.publishable = some (.moor v on) →
      ∃ t, exec .mapPublication s = .next t ∧ (t.mapNow v).moored = (on || (s.cluster (s.host v)).halted) ∧ (t.mapNow v).gen = (s.mapNow v).gen + 1 ∧ (t.mapNow v).pcn = (s.mapNow v).pcn ∧ (t.mapNow v).valid = (s.mapNow v).valid
        ∧ (t.cluster (s.host v)).moored = (on || (s.cluster (s.host v)).halted) ∧ t.mapSeq = s.mapSeq + 1 ∧ (∃ rs, t.pubReqs = s.pubReqs.erase (.moor v on) ++ rs) ∧ t.mem = s.mem)
  ∧ (∀ (s : State) (p : Nat) (failed : Option Nat), s.cpRuns = true → s.pubReqs.find? s.publishable = some (.retire p failed) →
      ∃ t, exec .mapPublication s = .next t ∧ (t.cluster p).rot = .retired ∧ t.mapSeq = s.mapSeq + 1 ∧ t.map = s.map ∧ t.mem = s.mem)
  ∧ (∀ (s : State) (router : Nat) (p : Pub), s.pubs.find? (s.unseen router) = some p →
      ∃ t, exec (.publicationArrival router) s = .next t ∧ t.map = s.map ∧ t.mem = s.mem ∧ (∀ q ∈ t.pubs, q.seq = p.seq → router ∈ q.reached) ∧ (s.pubs = [p] → ∀ v, t.entryAt router v = s.mapNow v))
  ∧ (∀ (s : State) (chip : Nat),
      (s.ptime % 25000000 ≠ chip * 500000 → exec (.rotationStepInstant chip) s = .next s)
      ∧ (s.trust.bootFail ≠ none → exec (.rotationStepInstant chip) s = .next s)
      ∧ (∀ d k, chip < 48 → s.chipAbsent chip = false → s.trust.bootFail = none → (s.chip chip).phase = 0 → s.ptime % 25000000 = chip * 500000 → s.evacuation chip = none → (s.chip chip).retiredWhole = false →
          s.stepFrom chip = some d → s.readyShadow chip = some k →
          ∃ t, exec (.rotationStepInstant chip) s = .next t ∧ (t.cluster d).rot = .draining ∧ (t.chip chip).phase = 1 ∧ (t.chip chip).stepAt = s.ptime ∧ (t.chip chip).dest = k ∧ t.map = s.map ∧ t.mem = s.mem)
      ∧ (∀ d, (∀ k < 64, (s.cluster (chip * 64 + k)).condemned = false) → d = chip * 64 + (s.chip chip).due → (s.cluster d).router = true → (s.cluster d).rot = .due ∨ ((s.cluster d).rot = .inService ∧ (s.cluster d).moored = false ∧ (s.cluster d).halted = false) →
          s.stepFrom chip = some d)
      ∧ ((s.cluster (chip * 64 + (s.chip chip).due)).rot = .due → s.chooseDue chip = s)
      ∧ (∀ k, (s.cluster (chip * 64 + (s.chip chip).due)).rot ≠ .due → s.nextDue chip (s.chip chip).due = some k → ((s.chooseDue chip).chip chip).due = k ∧ ((s.chooseDue chip).cluster (chip * 64 + k)).rot = .due))
  ∧ (∀ (s : State) (chip d : Nat), s.stepping chip = some d → (s.chip chip).phase = 1 →
      (s.drainedAt d = false → exec (.drainPoint chip) s = .next s)
      ∧ ((s.chip chip).stepAt + 200000 < s.ptime → exec (.drainPoint chip) s = .next s)
      ∧ ((s.cluster d).router = false → exec (.drainPoint chip) s = .next s)
      ∧ (s.drainedAt d = true → (s.cluster d).router = true → s.ptime ≤ (s.chip chip).stepAt + 200000 → ∃ t, exec (.drainPoint chip) s = .next t ∧ (t.cluster d).rot = .copying ∧ (t.chip chip).phase = 2 ∧ t.map = s.map ∧ t.mem = s.mem)
      ∧ (s.ptime < (s.chip chip).stepAt + 200000 → exec (.drainDeadline chip) s = .next s)
      ∧ ((s.chip chip).stepAt + 200000 ≤ s.ptime → ∃ t, exec (.drainDeadline chip) s = .next t ∧ (t.cluster d).rot = .inService ∧ (t.chip chip).phase = 0 ∧ (t.chip chip).defer = min 255 ((s.chip chip).defer + 1) ∧ t.map = s.map ∧ t.mem = s.mem))
  ∧ (∀ (s : State) (chip d e : Nat), s.stepping chip = some d → (s.chip chip).phase = 2 → (s.chip chip).dest = e → d ≠ e → (s.chip chip).retiredWhole = false →
      (s.destOk chip e = false ∨ (s.cluster d).router = false → ∃ t, exec (.finalCopyDone chip) s = .next t ∧ (t.cluster d).rot = .inService ∧ (t.chip chip).phase = 0 ∧ t.map = s.map ∧ t.mapSeq = s.mapSeq ∧ t.mem = s.mem)
      ∧ (s.destOk chip e = true → (s.cluster d).router = true → s.ptime < (s.chip chip).stepAt + s.copyNs chip d e → exec (.finalCopyDone chip) s = .next s)
      ∧ (s.destOk chip e = true → (s.cluster d).router = true → (s.chip chip).stepAt + s.copyNs chip d e ≤ s.ptime → (∀ x ∈ s.allStrands, ∀ p k, x.2.saved ≠ some (.area p k)) →
       ∃ t, exec (.finalCopyDone chip) s = .next t ∧ (t.cluster d).rot = (if (s.cluster d).condemned = true ∧ (s.cluster d).moored = true then .retired else .test) ∧ ((t.cluster e).rot = .inService ∨ (t.cluster e).rot = .due) ∧ (t.chip chip).phase = 3 ∧ (t.chip chip).stepAt = s.ptime
        ∧ (t.chip chip).steps = (s.chip chip).steps + 1 ∧ (s.hosted d = [] → t.map = s.map) ∧ t.mapSeq = s.mapSeq + 1
        ∧ ∀ v ∈ s.hosted d, (t.mapNow v).pcn = e ∧ (t.mapNow v).grace = true ∧ (t.mapNow v).prevPcn = d ∧ (t.mapNow v).prevGen = (s.mapNow v).gen ∧ (t.mapNow v).gen = (s.mapNow v).gen + 1))
  ∧ (∀ (m : Memory) (src dst n a : Nat), m.wf = true → (m.copyRange src dst n).wf = true ∧ (a < n → (m.copyRange src dst n).byte (dst + a) = m.byte (src + a)) ∧ ((a < dst ∨ dst + n ≤ a) → (m.copyRange src dst n).byte a = m.byte a))
  ∧ (∀ (s : State) (chip : Nat), (s.chip chip).phase = 3 →
      (s.ptime < (s.chip chip).stepAt + 50000 → exec (.graceWindowClose chip) s = .next s)
      ∧ ((s.chip chip).stepAt + 50000 ≤ s.ptime → ∃ t, exec (.graceWindowClose chip) s = .next t ∧ (t.chip chip).phase = 0 ∧ t.mem = s.mem
          ∧ ∀ v, ((s.mapNow v).prevPcn = (s.chip chip).gracePcn → t.mapNow v = { s.mapNow v with grace := false }) ∧ ((s.mapNow v).prevPcn ≠ (s.chip chip).gracePcn → t.mapNow v = s.mapNow v)))
  ∧ (∀ (s : State) (pcn : Nat) (result : TestResult), pcn < 48 * 64 → (s.cluster pcn).rot = .test → s.trust.bootFail = none → (∀ f, .retire pcn f ∉ s.pubReqs) →
      (s.ptime < (s.cluster pcn).testEnd → exec (.selfTestDone pcn result) s = .next s)
      ∧ ((s.cluster pcn).testEnd ≤ s.ptime →
          (result = .failed ∨ (s.cluster pcn).condemned = true → ∃ t, exec (.selfTestDone pcn result) s = .next t ∧ t.pubReqs = s.pubReqs ++ [.retire pcn (some s.ptime)] ∧ t.mem = s.mem)
          ∧ (result ≠ .failed → (s.cluster pcn).condemned = false →
              (s.inState (chipOf pcn) .shadow = [] → s.longestOut (chipOf pcn) = some pcn → ∃ t, exec (.selfTestDone pcn result) s = .next t ∧ (t.cluster pcn).rot = .shadow ∧ (t.cluster pcn).lastPass = s.ptime
                ∧ (t.cluster pcn).margin = (if result = .reduced then min 255 ((s.cluster pcn).margin + 1) else (s.cluster pcn).margin) ∧ t.mem = s.mem)
              ∧ (s.inState (chipOf pcn) .shadow ≠ [] ∨ s.longestOut (chipOf pcn) ≠ some pcn → exec (.selfTestDone pcn result) s = .next s))))
  ∧ (∀ (s : State) (chip seg k d : Nat) (l : List Nat), s.inState chip .shadow = k :: l → d = chip * 64 + (s.chip chip).due → (s.cluster d).rot = .due → (s.chip chip).phase ≠ 1 → (s.chip chip).phase ≠ 2 → seg ∈ s.segments d → seg ∉ (s.chip chip).clean →
      ∃ t, exec (.patch chip seg) s = .next t ∧ (t.chip chip).clean = seg :: (s.chip chip).clean ∧ t.mem = s.mem.copyRange (segBase d seg) (segBase (chip * 64 + k) seg) 4096 ∧ t.map = s.map)
  ∧ (∀ (s : State) (pcn : Nat), pcn < 48 * 64 → (s.stepping (chipOf pcn) ≠ some pcn → ∃ t, exec (.routerDead pcn) s = .next t ∧ t.cluster pcn = { s.cluster pcn with router := false } ∧ t.map = s.map ∧ t.mem = s.mem)
      ∧ (s.stepping (chipOf pcn) = some pcn → ∃ t, exec (.routerDead pcn) s = .next t ∧ (t.cluster pcn).router = false ∧ (t.cluster pcn).rot = .inService ∧ (t.chip (chipOf pcn)).phase = 0 ∧ t.map = s.map))
  ∧ (∀ (s : State) (pcn : Nat), (s.cluster pcn).router = false → (s.cluster pcn).rot ≠ .retired → ∃ t, exec (.deadRouterRetirement pcn) s = .next t ∧ (t.cluster pcn).rot = .retired)
  ∧ (∀ (s : State) (pcn : Nat), pcn < 48 * 64 → s.cpRuns = true → (s.cluster pcn).rot = .retired → s.present pcn = true → s.chipAbsent (chipOf pcn) = false → (s.chip (chipOf pcn)).retiredWhole = false → (s.cluster pcn).router = true →
      (s.outCount (chipOf pcn) < 4 → ∃ t, exec (.clusterReinstatement pcn) s = .next t ∧ (t.cluster pcn).rot = .test ∧ (t.cluster pcn).testEnd = s.ptime + 75000000 ∧ t.mapSeq = s.mapSeq + 1 ∧ t.map = s.map ∧ t.mem = s.mem)
      ∧ (∀ k l, 4 ≤ s.outCount (chipOf pcn) → s.inState (chipOf pcn) .shadow = k :: l → (s.chip (chipOf pcn)).phase ≠ 1 → (s.chip (chipOf pcn)).phase ≠ 2 →
          ∃ t, exec (.clusterReinstatement pcn) s = .next t ∧ (t.cluster pcn).rot = .test ∧ (t.cluster pcn).testEnd = s.ptime + 75000000 ∧ (t.cluster (chipOf pcn * 64 + k)).rot = .inService ∧ t.mapSeq = s.mapSeq + 1 ∧ t.map = s.map ∧ t.mem = s.mem)
      ∧ (4 ≤ s.outCount (chipOf pcn) → s.inState (chipOf pcn) .shadow = [] → exec (.clusterReinstatement pcn) s = .next s))

/-- A sweep, 1.6 s after the one before, sets RISK to the highest risk of the clusters in service or shadow, the secure interval from it, clears the residue counts, sends MSI-X 1 as RISK rises above its limit, and condemns or retires a cluster at risk 255 or with 4 residue failures. Hourly the ageing counters gain an hour in service and are kept; a shutdown keeps them. A failed hart stops its queues. A beacon is counted, and the skew bound is 8 ns while every counter is aligned, which one within 4 ns of the master is for 100 beacons. An instruction that completes is an event, no more events of a code are counted than have happened, and a counter adds those of its code and flags its overflow. A junction throttles and recovers. A chiplet above 110 C is lost with its contexts; the link and trust dies stop what hangs on them. Power-on keeps fuses, host memory and ageing counters alone; a bad chiplet is absent, another bad die stops boot, and a trust die that is still hot holds the rest in reset. The host port goes down and up. Reset values that no rule gives are log 3's; that stores read zero after power-on, a message's vector, what a sweep retires, what the loss of a die loses, when a counter is aligned, when an event is counted and what a stopped boot holds are the model's (logs 4, 61, 67, 122, 123, 124, 132). -/
def Obligations.HealthPowerAndHostPortEvents : Prop :=
  (∀ s : State, s.cpRuns = false ∨ s.ptime < s.hostIf.sweepAt + 1600000000 → exec .healthSweep s = .next s)
  ∧ (∀ s : State, s.cpRuns = true → s.hostIf.sweepAt + 1600000000 ≤ s.ptime → ∃ t, exec .healthSweep s = .next t ∧ t.hostIf.sweepAt = s.ptime ∧ t.hostIf.secureIv = max 60 (3600 / 2 ^ (t.hostIf.risk / 32)) ∧ (∀ p, (t.cluster p).resid = 0) ∧ t.mem = s.mem ∧ t.map = s.map
      ∧ (∀ p x, s.clusters.get? p = some x → s.watched p = true → x.risk ≤ t.hostIf.risk)
      ∧ (t.hostIf.risk = 0 ∨ ∃ e ∈ s.clusters, s.watched e.1 = true ∧ e.2.risk = t.hostIf.risk)
      ∧ (∀ p < 48 * 64, s.watched p = true → (s.cluster p).risk = t.hostIf.risk → t.hostIf.worst ≤ p ∧ s.watched t.hostIf.worst = true ∧ (s.cluster t.hostIf.worst).risk = t.hostIf.risk)
      ∧ (s.hostIf.up = true → t.hostIf.msix = s.hostIf.msix ++ (if s.hostIf.riskIrq < t.hostIf.risk ∧ s.hostIf.risk ≤ s.hostIf.riskIrq then [1] else []))
      ∧ ∀ e ∈ s.clusters, s.watched e.1 = true → 4 ≤ e.2.resid ∨ e.2.risk = 255 → (s.hosted e.1 ≠ [] → (t.cluster e.1).condemned = true)
          ∧ (s.hosted e.1 = [] → (s.cluster e.1).rot ≠ .draining → (s.cluster e.1).rot ≠ .copying → ∃ f, .retire e.1 f ∈ t.pubReqs))
  ∧ (∀ s : State, (s.cpRuns = false ∨ s.ptime < s.hostIf.agedAt + 3600000000000 → exec .ageingSave s = .next s) ∧ (s.cpRuns = false → exec .orderlyShutdown s = .next s))
  ∧ (∀ s : State, s.cpRuns = true → s.hostIf.agedAt + 3600000000000 ≤ s.ptime → ∃ t, exec .ageingSave s = .next t ∧ t.mem = s.mem ∧ t.hostIf.agedAt = s.ptime ∧ ∀ p < 48 * 64, (t.cluster p).hours = (if inService (s.cluster p).rot = true then ((s.cluster p).hours + 1) % 2 ^ 32 else (s.cluster p).hours)
      ∧ t.hostIf.ageStore.get? p = some (BitVec.ofNat 64 (t.cluster p).ageing))
  ∧ (∀ s : State, s.cpRuns = true → ∃ t, exec .orderlyShutdown s = .next t ∧ t.mem = s.mem ∧ t.clusters = s.clusters ∧ ∀ p x, s.clusters.get? p = some x → t.hostIf.ageStore.get? p = some (BitVec.ofNat 64 x.ageing))
  ∧ (∀ (s : State) (qs : List Nat), ∃ t, exec (.hartRestart qs) s = .next t ∧ t.mem = s.mem ∧ t.hostIf.sideErrors = s.hostIf.sideErrors ++ [s.ptime] ∧ (∀ q, q ∉ qs → t.queue q = s.queue q)
      ∧ ∀ q ∈ qs, (s.queue q).enable = true → (s.queue q).st ≠ .killed → (t.queue q).st = .stopped ∧ (t.queue q).code = 0x04)
  ∧ (∀ (s : State) (die : Nat) (o : Int), die ∈ counterDies → die ∉ s.lostDies → ∃ t, exec (.beaconExchange die o) s = .next t ∧ t.hostIf.beacons = s.hostIf.beacons + 1 ∧ t.hostIf.maxSeen = max s.hostIf.maxSeen (min 0xFFFF o.natAbs)
      ∧ t.hostIf.beaconAt.get? die = some s.ptime ∧ (t.aligned die = true ↔ (s.hostIf.offsets.getD die 0).natAbs ≤ 4) ∧ (∀ d, d ≠ die → t.aligned d = s.aligned d) ∧ t.mem = s.mem)
  ∧ (∀ s : State, (∀ d, s.aligned d = true ↔ ∃ t, s.hostIf.beaconAt.get? d = some t ∧ s.ptime < t + 1000000 ∧ (s.hostIf.offsets.getD d 0).natAbs ≤ 4)
      ∧ s.skewBound = if ∀ d ∈ counterDies, d ∈ s.lostDies ∨ s.aligned d = true then 8 else 0xFFFF)
  ∧ (∀ s : State, s.advance.due s.vcn 0x02 = s.due s.vcn 0x02 + 1)
  ∧ (∀ (s : State) (v code n : Nat), s.countable v code n = false → exec (.pmcEvent v code n) s = .next s)
  ∧ (∀ (s : State) (v code n : Nat), code ∈ steppedCodes → (s.countable v code n = true ↔ n ≤ s.due v code))
  ∧ (∀ (s : State) (v code n : Nat), 1 ≤ code → code ≤ 0x0C → s.countable v code n = true → ∃ t, exec (.pmcEvent v code n) s = .next t ∧ t.mem = s.mem ∧ (code ∈ steppedCodes → t.due v code = s.due v code - n) ∧ ∀ i p, i < 8 → p = (s.vc v).pmc.getD i {} →
      (p.cfg.getLsbD 8 = true ∧ (p.cfg.extractLsb' 0 8).toNat = code → (t.vc v).pmc.getD i {} = { p with cnt := BitVec.ofNat 48 (p.cnt.toNat + n) }
        ∧ (t.vc v).pmOvf.getLsbD i = ((s.vc v).pmOvf.getLsbD i || decide (2 ^ 48 ≤ p.cnt.toNat + n)))
      ∧ (¬ (p.cfg.getLsbD 8 = true ∧ (p.cfg.extractLsb' 0 8).toNat = code) → (t.vc v).pmc.getD i {} = p ∧ (t.vc v).pmOvf.getLsbD i = (s.vc v).pmOvf.getLsbD i))
  ∧ (∀ (s : State) (chip : Nat), chip < 48 → (∃ t, exec (.junctionThrottle chip) s = .next t ∧ t.chip chip = { s.chip chip with throttled := true } ∧ t.mem = s.mem)
      ∧ ∃ t, exec (.junctionRecover chip) s = .next t ∧ t.chip chip = { s.chip chip with throttled := false } ∧ t.mem = s.mem)
  ∧ (∀ (s : State) (die temp : Nat), (temp ≤ 440 → exec (.dieOvertemp die temp) s = .next s)
      ∧ (440 < temp → die ∉ s.lostDies → s.cpRuns = true →
          (die < 48 → ∃ t, exec (.dieOvertemp die temp) s = .next t ∧ die ∈ t.lostDies ∧ (t.chip die).lost = true ∧ (∀ k < 64, (t.cluster (die * 64 + k)).rot = .retired ∧ (t.cluster (die * 64 + k)).dead = true)
            ∧ (s.hostIf.errTail - s.hostIf.errHead < 256 → s.hostIf.errTail < t.hostIf.errTail)
            ∧ ∀ a c v, s.ctx? a = some c → v ∈ c.vcns → (s.mapNow v).valid = true → (s.mapNow v).nonres = false → chipOf (s.mapNow v).pcn = die → ∃ d, t.ctx? a = some d ∧ d.resident = false)
          ∧ (0x100 ≤ die → die < 0x118 → ∃ t, exec (.dieOvertemp die temp) s = .next t ∧ die ∈ t.lostDies ∧ (s.hostIf.errTail - s.hostIf.errHead < 256 → s.hostIf.errTail < t.hostIf.errTail) ∧ t.mem = s.mem)
          ∧ (die = 0x200 → ∃ t, exec (.dieOvertemp die temp) s = .next t ∧ t.hostIf.up = false ∧ t.cpRuns = false ∧ ∀ p < 8, (t.port p).st = 0)
          ∧ (die = 0x201 → ∃ t, exec (.dieOvertemp die temp) s = .next t ∧ die ∈ t.lostDies ∧ ∀ p, 8 ≤ p → p < 16 → (t.port p).st = 0)
          ∧ (die = 0x202 → ∃ t, exec (.dieOvertemp die temp) s = .next t ∧ t.trust.hot = true ∧ t.cpRuns = false ∧ t.hostIf.up = false ∧ ∀ c < 48, (t.chip c).lost = true)))
  ∧ (∀ (s : State) (bad : List Nat), ∃ t, exec (.powerOnReset bad) s = .next t ∧ t.cur = State.reset.cur ∧ t.cores = [] ∧ t.strands = [] ∧ t.ctxs = [] ∧ t.queues = [] ∧ t.kernels = [] ∧ t.map = [] ∧ t.flight = [] ∧ t.tiles = [] ∧ t.keys = []
      ∧ t.fuses = s.fuses ∧ t.hostIf.up = false ∧ t.hostIf.errTail = 0 ∧ t.ptime = 0 ∧ t.trust.nonce = none ∧ t.trust.debugOpen = false
      ∧ (∀ a, isHost a = false → t.mem.byte a = 0) ∧ (s.mem.wf = true → ∀ a, isHost a = true → t.mem.byte a = s.mem.byte a)
      ∧ (∀ d ∈ bad, d < 48 → (t.chip d).lost = true ∧ ∀ k < 64, (t.cluster (d * 64 + k)).rot = .retired) ∧ ((∃ d ∈ bad, 48 ≤ d) → t.cpRuns = false) ∧ ((∀ d ∈ bad, d < 48) → s.trust.hot = false ∨ s.trust.cooled = true → t.cpRuns = true) ∧ (s.trust.hot = true → s.trust.cooled = false → t.cpRuns = false ∧ t.trust.hot = true)
      ∧ ∀ p w, s.hostIf.ageStore.get? p = some w → (t.cluster p).corr = bitsOf w 15 0 ∧ (t.cluster p).resid = bitsOf w 23 16 ∧ (t.cluster p).margin = bitsOf w 31 24 ∧ (t.cluster p).hours = bitsOf w 63 32)
  ∧ (∀ s : State, ∃ t, exec .hostPortDown s = .next t ∧ t.hostIf = { s.hostIf with up := false, width := 0 } ∧ t.mem = s.mem)
  ∧ (∀ (s : State) (w : Nat), w = 16 ∨ w = 8 ∨ w = 4 → s.cpRuns = true → ∃ t, exec (.hostPortUp w) s = .next t ∧ t.hostIf = { s.hostIf with up := true, width := w } ∧ t.mem = s.mem)
  ∧ (∀ (s : State) (w : Nat), w ≠ 16 ∧ w ≠ 8 ∧ w ≠ 4 ∨ s.cpRuns = false → exec (.hostPortUp w) s = .next s)
  ∧ (∀ (s : State) (v : Nat), (s.hostIf.up = false → s.msix v = s) ∧ (s.hostIf.up = true → (s.msix v).hostIf.msix = s.hostIf.msix ++ [v]))

/-- A QTAIL write sets TAIL; one too far ahead of HEAD stops an enabled queue, one held at a breakpoint too, with BADTAIL. ENABLE joins the context of the descriptor, or makes it, and the queue is IDLE; a descriptor that breaks a limit, or a 65th queue (log 159), stops it. Its DISABLE leaves HEAD as it is and tears the context down where no other enabled queue names it. A RESET empties the queue and takes its kernels away. PREEMPT asks for pre-emption of the context. Writes of RISKIRQ, APCTL, QBASE, QDESC and ERRHEAD take effect within their limits; a read-only register, an unaligned write, one of 4 bytes, or one while the command processor does not run changes nothing; one of another size is answered as unsupported (log 60). The aperture reads and writes the stack and key of APCTL; shut, it reads as ones; without a key it also leaves an error record; a claim holds a write, and behind it every later host access, which then changes nothing (its event comes again; that, the limits of a descriptor, RESET beside other fields, and what a discarded write is are the model's readings, logs 112, 114, 131, 133). -/
def Obligations.QueueRegistersAndTheAperture : Prop :=
  (∀ (s : State) (q : Nat) (v : Word) (x y : Queue), s.hostIf.held = [] → q < 1024 → s.cpRuns = true → x = s.queue q → x.skip = 0 → y = { x with tail := v.truncate 32 } →
      ((x.enable = false ∨ (x.st = .stopped ∧ x.code ≠ 0x07) ∨ x.st = .killed ∨ y.badTail = false) → ∃ t, exec (.qtailWrite q v) s = .next t ∧ t.queue q = y ∧ (∀ p, p ≠ q → t.queue p = s.queue p) ∧ t.mem = s.mem)
      ∧ (x.enable = true → x.st ≠ .stopped ∨ x.code = 0x07 → x.st ≠ .killed → y.badTail = true → ∃ t, exec (.qtailWrite q v) s = .next t ∧ (t.queue q).st = .stopped ∧ (t.queue q).code = 0x03 ∧ (t.queue q).tail = v.truncate 32 ∧ (t.queue q).pktidx = x.next))
  ∧ (∀ x : Queue, x.loops = [] → (x.badTail = true ↔ 2 ^ x.rsize < (x.tail - x.head).toNat))
  ∧ (∀ (s u : State) (q : Nat) (v : Word) (x : Queue), s.hostIf.held = [] → q < 1024 → s.cpRuns = true → x = s.queue q → x.enable = false → bitsOf v 0 0 = 1 → bitsOf v 32 32 = 0 → bitsOf v 33 33 = 0 → (x.tail - x.head).toNat ≤ 2 ^ x.rsize →
      u = s.setQueue q { x with prio := bitsOf v 3 1, weight := if bitsOf v 7 4 = 0 then x.weight else bitsOf v 7 4, wdlim := bitsOf v 31 8 } →
      (∀ e, s.ctxs.find? (fun e => e.2.desc == x.desc) = some e → 64 ≤ ((u.queuesOf e.1).filter fun k => k != q && (u.queue k).enable).length →
          ∃ t, exec (.queueEnable q v) s = .next t ∧ (t.queue q).enable = true ∧ (t.queue q).st = .stopped ∧ (t.queue q).code = 0x04 ∧ (t.queue q).asid = none ∧ t.ctxs = s.ctxs)
      ∧ (∀ e, s.ctxs.find? (fun e => e.2.desc == x.desc) = some e → ((u.queuesOf e.1).filter fun k => k != q && (u.queue k).enable).length < 64 → ∃ t, exec (.queueEnable q v) s = .next t ∧ (t.queue q).enable = true ∧ (t.queue q).st = .idle ∧ (t.queue q).asid = some e.1 ∧ (t.queue q).code = 0
          ∧ (t.queue q).next = x.head ∧ (t.queue q).head = x.head ∧ (t.queue q).prio = bitsOf v 3 1 ∧ (t.queue q).wdlim = bitsOf v 31 8 ∧ t.ctxs = s.ctxs ∧ t.mem = s.mem)
      ∧ (s.ctxs.find? (fun e => e.2.desc == x.desc) = none → ∀ w, w = u.openContext x.desc →
          (∀ a r, w = some (a, r) → ∃ t, exec (.queueEnable q v) s = .next t ∧ (t.queue q).enable = true ∧ (t.queue q).st = .idle ∧ (t.queue q).asid = some a ∧ t.ctxs = r.ctxs ∧ t.map = r.map)
          ∧ (w = none → ∃ t, exec (.queueEnable q v) s = .next t ∧ (t.queue q).enable = true ∧ (t.queue q).st = .stopped ∧ (t.queue q).code = 0x04 ∧ (t.queue q).asid = none ∧ t.ctxs = s.ctxs)))
  ∧ (∀ (desc a : Nat) (bs : List Byte) (c : Ctx), parseDesc desc bs = some (a, c) → a = field bs 8 4 ∧ 1 ≤ a ∧ a < 4096 ∧ c.ptroot = field bs 0 8 ∧ c.ptroot % 2 ^ 11 = 0 ∧ c.ptroot < hbmEnd ∧ c.log.mode ≤ 2 ∧ 16 ≤ c.log.logsz ∧ c.log.logsz ≤ 40
      ∧ c.vcfirst = field bs 0x40 2 ∧ c.vcnum = field bs 0x42 2 ∧ 1 ≤ c.vcnum ∧ c.vcfirst + c.vcnum ≤ 4096 ∧ c.resident = false ∧ c.desc = desc ∧ c.saveSize = field bs 0x28 8 ∧ c.vcnum * 2 ^ 21 + 16 * c.vcnum * 8256 ≤ c.saveSize / 2)
  ∧ (∀ (s : State) (q a : Nat) (v : Word) (x : Queue), s.hostIf.held = [] → q < 1024 → s.cpRuns = true → x = s.queue q → x.enable = true → bitsOf v 0 0 = 0 → bitsOf v 32 32 = 0 → bitsOf v 33 33 = 0 → x.asid = some a →
      ∃ t, exec (.queueDisable q v) s = .next t ∧ (t.queue q).enable = false ∧ (t.queue q).st = .disabled ∧ (t.queue q).head = x.head ∧ (t.queue q).tail = x.tail
        ∧ ((∃ p ∈ s.queuesOf a, p ≠ q ∧ (s.queue p).enable = true) → t.ctx? a = s.ctx? a) ∧ ((∀ p ∈ s.queuesOf a, p ≠ q → (s.queue p).enable = false) → t.ctx? a = none))
  ∧ (∀ (s : State) (q : Nat) (v : Word) (x : Queue), s.hostIf.held = [] → q < 1024 → s.cpRuns = true → x = s.queue q → bitsOf v 32 32 = 1 →
      (x.enable = false → ∃ t, exec (.queueReset q v) s = .next t ∧ (t.queue q).head = x.head ∧ (t.queue q).st = x.st ∧ t.kernels = s.kernels ∧ t.mem = s.mem)
      ∧ (x.enable = true → ∃ t, exec (.queueReset q v) s = .next t ∧ (t.queue q).enable = false ∧ (t.queue q).st = .disabled ∧ (t.queue q).code = 0x06 ∧ (t.queue q).head = x.tail ∧ (t.queue q).tail = x.tail ∧ ∀ e ∈ t.kernels, e.2.q ≠ q))
  ∧ (∀ (s : State) (q a : Nat) (v : Word) (c : Ctx), s.hostIf.held = [] → q < 1024 → s.cpRuns = true → (s.queue q).enable = true → (s.queue q).asid = some a → bitsOf v 0 0 = 1 → bitsOf v 33 33 = 1 → bitsOf v 32 32 = 0 → s.ctx? a = some c →
      c.resident = true → c.stopped = false → c.stopReq = false → ∃ t, exec (.queuePreempt q v) s = .next t ∧ t.ctx? a = some { c with preempt := true } ∧ (t.queue q).st = (s.queue q).st ∧ t.mem = s.mem)
  ∧ (∀ (s : State) (off n : Nat) (v : Word), s.hostIf.held = [] →
      ((off % 8 ≠ 0 ∨ s.cpRuns = false ∨ off ∈ [0x00, 0x08, 0x28, 0x30, 0x30008, 0x30010]) → exec (.registerWrite off ⟨8, v⟩) s = .next s)
      ∧ exec (.registerWrite off ⟨4, v⟩) s = .next s ∧ (n ≠ 4 → n ≠ 8 → exec (.registerWrite off ⟨n, v⟩) s = .next { s with hostIf := { s.hostIf with replies := s.hostIf.replies ++ [[1]] } }))
  ∧ (∀ (s : State) (q off n : Nat) (v : Word), s.drainHeld.hostIf.held ≠ [] → exec (.registerWrite off ⟨n, v⟩) s = .next s.drainHeld ∧ exec (.errheadWrite v) s = .next s.drainHeld
      ∧ (s.cpRuns = true → exec (.apertureRead off n) s = .next s.drainHeld ∧ (q < 1024 → exec (.qtailWrite q v) s = .next s.drainHeld)))
  ∧ (∀ (s : State) (v : Word), s.hostIf.held = [] → s.cpRuns = true →
      exec (.registerWrite 0x20 ⟨8, v⟩) s = .next { s with hostIf := { s.hostIf with riskIrq := bitsOf v 39 32 } }
      ∧ exec (.registerWrite 0x80 ⟨8, v⟩) s = .next { s with hostIf := { s.hostIf with apStack := if bitsOf v 4 0 ≤ 23 then bitsOf v 4 0 else s.hostIf.apStack, apKey := bitsOf v 15 8, apEnable := bitsOf v 16 16 == 1 } }
      ∧ (∀ q, q < 1024 → (s.queue q).enable = true → exec (.registerWrite (0x10000 + 0x40 * q) ⟨8, v⟩) s = .next s ∧ exec (.registerWrite (0x10000 + 0x40 * q + 0x30) ⟨8, v⟩) s = .next s)
      ∧ (∀ q, q < 1024 → (s.queue q).enable = false → ∃ t u, exec (.registerWrite (0x10000 + 0x40 * q) ⟨8, v⟩) s = .next t ∧ (t.queue q).base = v.truncate 56 ∧ (4 ≤ bitsOf v 63 58 → bitsOf v 63 58 ≤ 16 → (t.queue q).rsize = bitsOf v 63 58)
          ∧ exec (.registerWrite (0x10000 + 0x40 * q + 0x30) ⟨8, v⟩) s = .next u ∧ (u.queue q).desc = bitsOf v 55 7 * 128)
      ∧ (s.hostIf.errHead ≤ v.toNat → v.toNat ≤ s.hostIf.errTail → exec (.errheadWrite v) s = .next { s with hostIf := { s.hostIf with errHead := v.toNat } })
      ∧ (v.toNat < s.hostIf.errHead ∨ s.hostIf.errTail < v.toNat → exec (.errheadWrite v) s = .next s))
  ∧ (∀ (s : State) (off n : Nat), s.hostIf.held = [] → s.cpRuns = true →
      ((s.hostIf.apEnable = false ∨ 2 ^ 36 < off + n) → ∃ t, exec (.apertureRead off n) s = .next t ∧ t.hostIf.replies = s.hostIf.replies ++ [List.replicate n 0xFF] ∧ t.hostIf.errTail = s.hostIf.errTail ∧ t.mem = s.mem)
      ∧ (s.hostIf.apEnable = true → off + n ≤ 2 ^ 36 →
          (s.keys.get? s.hostIf.apKey = none → s.hostIf.errTail - s.hostIf.errHead < 256 → ∃ t, exec (.apertureRead off n) s = .next t ∧ t.hostIf.replies = s.hostIf.replies ++ [List.replicate n 0xFF] ∧ t.hostIf.errTail = s.hostIf.errTail + 1 ∧ t.mem = s.mem)
          ∧ (∀ k a, s.keys.get? s.hostIf.apKey = some k → s.migrations = [] → a = s.hostIf.apStack * 2 ^ 36 + off → readErr s.mem s.lostDies (some k) n a n = none →
              ∃ t, exec (.apertureRead off n) s = .next t ∧ t.hostIf.replies = s.hostIf.replies ++ [s.mem.read a n] ∧ t.mem = s.mem)))
  ∧ (∀ (s : State) (off : Nat) (bs : List Byte), s.hostIf.held = [] → s.cpRuns = true →
      (s.hostIf.apEnable = false → exec (.apertureWrite off bs) s = .next s)
      ∧ (∀ k a, s.hostIf.apEnable = true → off + bs.length ≤ 2 ^ 36 → s.keys.get? s.hostIf.apKey = some k → s.migrations = [] → a = s.hostIf.apStack * 2 ^ 36 + off →
          (s.claimed true [{ va := 0, loc := .hbm a s.hostIf.apKey, n := bs.length }] = true → exec (.apertureWrite off bs) s = .next { s with hostIf := { s.hostIf with held := [(off, bs)] } })
          ∧ (s.claimed true [{ va := 0, loc := .hbm a s.hostIf.apKey, n := bs.length }] = false → 0 < bs.length → a % 64 + bs.length ≤ 64 → writeErr s.mem s.lostDies (some k) bs.length a (bs.map some) = none →
              ∃ t, exec (.apertureWrite off bs) s = .next t ∧ t.mem = s.mem.store (some k) a (bs.map some))))

/-- A processable queue that comes to its packet: a NOP passes it; a LAUNCH with a header that passes its check makes a kernel with a message for each of its virtual clusters, LAUNCHI with EXT's extents, and a bad header stops the queue with its code; LOOP jumps back BACK packets until its count is used up, and a fifth open LOOP is BADPKT; COND passes, skipping its count where the test fails; a WAIT that is met passes; SIGNAL stores or adds and sends its MSI-X, behind a zero-length read where its word is host memory. A launch or a WAIT that waits leaves the queue BLOCKED, a COND or SIGNAL does not, and a met one is served. A broken packet is BADPKT, one that cannot be read a fault, an armed one a break; a read that meets a cluster that is away is tried again 10 us later. A queue whose packet has been processable for 1 ms is starved and comes first; of the others the higher PRIO does, and of equals the one after the last that was served. (The MSI-X table, LOOP's jump and what SIGNAL waits for are read by the model, logs 61, 113, 115.) -/
def Obligations.PacketsOfAQueue : Prop :=
  (∀ (s : State) (q : Nat) (p : List Byte), AtPacket s q p → s.pkWaits q p = true →
      ∃ t, exec (match pkOp p with | 1 => .launch q | 2 => .launchi q | 4 => .condPacket q | 5 => .waitPacket q | _ => .signalPacket q) s = .next t ∧ (t.queue q).next = (s.queue q).next ∧ t.mem = s.mem
        ∧ (pkBlocks p = true → (t.queue q).st = .blocked) ∧ (pkBlocks p = false → (t.queue q).st = .idle ∧ (t.queue q).waits = true))
  ∧ (∀ (s : State) (q : Nat) (p : List Byte) (x : Queue), AtPacket s q p → s.pkWaits q p = false → x = s.queue q →
      (pkOp p = 0 → ∃ t, exec (.nopPacket q) s = .next t ∧ (t.queue q).next = x.next + 1 ∧ (t.queue q).head = (if x.next = x.head then x.head + 1 else x.head) ∧ (t.queue q).st = .idle ∧ t.lastQueue.get? x.prio = some q ∧ t.mem = s.mem)
      ∧ (∀ i a c hb ex, (i = .launch q ∧ pkOp p = 1 ∧ ex = none) ∨ (∃ eb, i = .launchi q ∧ pkOp p = 2 ∧ s.cpRead a (field p 0x10 8) 24 = .bytes eb ∧ ex = some ((List.range 6).map fun i => field eb (4 * i) 4)) →
          x.asid = some a → s.ctx? a = some c → s.cpRead a (pkAddr p) 128 = .bytes hb → x.trace = none → (c.resident = true ∨ s.away a c.handlers.toNat 256 .rd = false) →
          (s.checkHeader a c hb ex = .error 0x08 → s.away a (field hb 0 8 / 64 * 64) 64 .ex = true → ∃ t, exec i s = .next t ∧ (t.queue q).st = .idle ∧ (t.queue q).retry = true ∧ (t.queue q).since = s.ptime ∧ t.kernels = s.kernels)
          ∧ (∀ code, s.checkHeader a c hb ex = .error code → code ≠ 0x08 ∨ s.away a (field hb 0 8 / 64 * 64) 64 .ex = false → ∃ t, exec i s = .next t ∧ (t.queue q).st = .stopped ∧ (t.queue q).code = 0x01 ∧ (t.queue q).sub = code ∧ (t.queue q).pktidx = x.next ∧ t.kernels = s.kernels)
          ∧ (∀ h, s.checkHeader a c hb ex = .ok h → ∃ t k, exec i s = .next t ∧ t.kernel? s.nextKernel = some k ∧ k.q = q ∧ k.pkt = x.next ∧ k.asid = a ∧ k.hdr = h ∧ k.live = 0 ∧ k.quiet = false
              ∧ k.messages = (List.range h.vccount).map (fun i => h.vcbase + i) ∧ t.nextKernel = s.nextKernel + 1 ∧ (t.queue q).next = x.next + 1 ∧ t.lastQueue.get? x.prio = some q ∧ t.mem = s.mem))
      ∧ (pkOp p = 3 → (∀ e ∈ x.loops, e.1 ≠ x.next) →
          (4 ≤ x.loops.length → ∃ t, exec (.loopPacket q) s = .next t ∧ (t.queue q).st = .stopped ∧ (t.queue q).code = 0x02)
          ∧ (x.loops.length < 4 → field p 8 4 = 1 → ∃ t, exec (.loopPacket q) s = .next t ∧ (t.queue q).next = x.next + 1 ∧ (t.queue q).loops = x.loops ∧ t.mem = s.mem)
          ∧ (x.loops.length < 4 → 2 ≤ field p 8 4 → ∃ t, exec (.loopPacket q) s = .next t ∧ (t.queue q).next = x.next - BitVec.ofNat 32 (field p 0xC 2) ∧ (t.queue q).loops = (x.next, field p 0xC 2, field p 8 4 - 2) :: x.loops
              ∧ (t.queue q).head = x.head ∧ t.mem = s.mem))
      ∧ (∀ b n l, pkOp p = 3 → x.loops = (x.next, b, n) :: l →
          (n = 0 → ∃ t, exec (.loopPacket q) s = .next t ∧ (t.queue q).next = x.next + 1 ∧ (t.queue q).loops = l ∧ t.mem = s.mem)
          ∧ (n ≠ 0 → ∃ t, exec (.loopPacket q) s = .next t ∧ (t.queue q).next = x.next - BitVec.ofNat 32 b ∧ (t.queue q).loops = (x.next, b, n - 1) :: l ∧ (t.queue q).head = x.head ∧ t.mem = s.mem))
      ∧ (∀ a b, x.asid = some a → s.cpRead a (pkAddr p) 8 = .bytes b →
          (pkOp p = 5 → ∃ t, exec (.waitPacket q) s = .next t ∧ (t.queue q).next = x.next + 1 ∧ (t.queue q).st = .idle ∧ t.mem = s.mem)
          ∧ (pkOp p = 4 → pkTest p (leNat b) = true → ∃ t, exec (.condPacket q) s = .next t ∧ (t.queue q).next = x.next + 1 ∧ (t.queue q).skip = x.skip ∧ t.mem = s.mem)
          ∧ (pkOp p = 4 → pkTest p (leNat b) = false → x.next + 1 = x.tail → ∃ t, exec (.condPacket q) s = .next t ∧ (t.queue q).next = x.next + 1 ∧ (t.queue q).skip = field p 0x20 2 ∧ t.mem = s.mem))
      ∧ (∀ a segs o u, pkOp p = 6 → x.asid = some a → s.signalSegs a (pkAddr p) (pkFlags p % 2 == 1) = .ok segs → s.segsAway segs = false → s.devFault true segs = none →
          (s.claimed true segs = true ∨ s.depositsLater segs = true → ∃ t, exec (.signalPacket q) s = .next t ∧ (t.queue q).next = x.next ∧ t.mem = s.mem)
          ∧ (s.claimed true segs = false → s.depositsLater segs = false → (if pkFlags p % 2 = 1 then s.readSegs segs else .ok []) = .ok o → s.writeSegs segs ((toLe 8 (leNat o + field p 0x10 8)).map some) = .ok u →
          ∃ t, exec (.signalPacket q) s = .next t ∧ t.mem = u.mem ∧ (t.queue q).next = x.next + 1 ∧ (pkFlags p / 2 % 2 = 0 → t.hostIf.msix = s.hostIf.msix ∧ t.hostIf.sigReads = s.hostIf.sigReads)
            ∧ (pkFlags p / 2 % 2 = 1 → (∀ g ∈ segs, ∀ h, g.loc ≠ .host h) → t.hostIf.msix = (if s.hostIf.up = true then s.hostIf.msix ++ [field p 0x18 2] else s.hostIf.msix))
            ∧ (∀ g h, pkFlags p / 2 % 2 = 1 → g ∈ segs → g.loc = .host h → t.hostIf.msix = s.hostIf.msix ∧ t.hostIf.sigReads = s.hostIf.sigReads ++ [(u.nextId, field p 0x18 2)]))))
  ∧ (∀ (w v m : Nat) (p : List Byte), field p 0x10 8 = m → field p 0x18 8 = v → (pkFlags p = 0 → pkTest p w = decide (w &&& m = v)) ∧ (pkFlags p = 1 → pkTest p w = decide (w &&& m ≠ v))
      ∧ (pkFlags p = 2 → pkTest p w = decide (w &&& m < v)) ∧ (pkFlags p = 3 → pkTest p w = decide (v ≤ w &&& m)))
  ∧ (∀ (s : State) (a : Nat) (c : Ctx) (hb : List Byte) (ex : Option (List Nat)) (h : Header), s.checkHeader a c hb ex = .ok h → 1 ≤ h.nfields ∧ h.nfields ≤ 6 ∧ h.widths.sum ≤ 64 ∧ 1 ≤ h.vccount ∧ c.vcfirst ≤ h.vcbase ∧ h.vcbase + h.vccount ≤ c.vcfirst + c.vcnum
      ∧ h.pooloff % 64 = 0 ∧ h.pooloff + 64 * h.poolcap ≤ 2 ^ 20 ∧ h.perCluster ≤ h.poolcap ∧ h.entry.toNat = field hb 0 8 ∧ h.args.toNat = field hb 8 8)
  ∧ (∀ (s : State) (q : Nat), (s.queue q).atPacket = true → s.turnOf q = true → (s.queue q).failNext = none →
      ((s.queue q).armed = true → ∃ t, exec (.nopPacket q) s = .next t ∧ (t.queue q).st = .stopped ∧ (t.queue q).code = 0x07 ∧ t.mem = s.mem)
      ∧ ((s.queue q).armed = false →
          (s.packetOf q = .fault → ∃ t, exec (.nopPacket q) s = .next t ∧ (t.queue q).st = .stopped ∧ (t.queue q).code = 0x04 ∧ t.mem = s.mem)
          ∧ (s.packetOf q = .retry → ∃ t, exec (.nopPacket q) s = .next t ∧ (t.queue q).st = .idle ∧ (t.queue q).retry = true ∧ (t.queue q).since = s.ptime ∧ t.mem = s.mem)
          ∧ (∀ p, s.packetOf q = .bytes p → badPacket p (s.queue q).rsize = true → ∃ t, exec (.nopPacket q) s = .next t ∧ (t.queue q).st = .stopped ∧ (t.queue q).code = 0x02 ∧ t.mem = s.mem)))
  ∧ (∀ (s u : State) (q : Nat) (p b : List Byte) (x : Queue) (a : Nat), x = s.queue q → x.st = .blocked ∨ x.waits = true → x.enable = true → u = s.setQueue q { x with st := .idle, waits := false } → AtPacket u q p → u.pkWaits q p = false →
      pkOp p = 5 → x.asid = some a → s.cpRead a (pkAddr p) 8 = .bytes b → (∃ t, exec (.queueUnblock q) s = .next t ∧ (t.queue q).st = .idle ∧ (t.queue q).next = x.next + 1 ∧ t.mem = s.mem)
        ∧ ∃ t, exec (.waitReread q) s = .next t ∧ (t.queue q).st = .idle ∧ (t.queue q).next = x.next + 1 ∧ t.mem = s.mem)
  ∧ (∀ (s : State) (q : Nat), s.processable q = false → exec (.queueStarvation q) s = .next s)
  ∧ (∀ (s : State) (q : Nat), s.processable q = true →
      (s.ptime < (s.queue q).readySince.getD s.ptime + 1000000 → exec (.queueStarvation q) s = .next s)
      ∧ ((s.queue q).readySince.getD s.ptime + 1000000 ≤ s.ptime → ∃ t, exec (.queueStarvation q) s = .next t ∧ t.queue q = { s.queue q with starved := true } ∧ t.mem = s.mem))
  ∧ (∀ (s u : State) (q : Nat) (p : List Byte) (x : Queue), x = s.queue q → x.retry = true → x.st = .idle → x.enable = true → u = s.setQueue q { x with retry := false } →
      (s.ptime < x.since + 10000 → exec (.cpReadRetry q) s = .next s)
      ∧ (x.since + 10000 ≤ s.ptime → AtPacket u q p → u.pkWaits q p = false → pkOp p = 0 → ∃ t, exec (.cpReadRetry q) s = .next t ∧ (t.queue q).next = x.next + 1 ∧ (t.queue q).retry = false ∧ (t.queue q).st = .idle ∧ t.mem = s.mem))
  ∧ (∀ (s : State) (a b : Nat), (s.queue a).starved = true → (s.queue b).starved = false → s.before a b = true ∧ s.before b a = false)
  ∧ (∀ (s : State) (q : Nat) (x : Queue), s.queues.get? q = some x → (s.clockEnds.queue q).readySince = if s.processable q = true then some (x.readySince.getD s.ptime) else none)
  ∧ (∀ (s : State) (a b : Nat), (s.queue a).starved = false → (s.queue b).starved = false → (s.queue b).prio < (s.queue a).prio → s.before a b = true ∧ s.before b a = false)
  ∧ (∀ (s : State) (a b l : Nat), (s.queue a).starved = false → (s.queue b).starved = false → (s.queue b).prio = (s.queue a).prio → s.lastQueue.get? (s.queue a).prio = some l → l < a → b ≤ l → s.before a b = true ∧ s.before b a = false)

/-- A request that the firmware takes: an argument outside its limit ends ERROR 0x02, a refused one 0x03, an unknown OP 0x01; otherwise MIGRATE begins a migration, whose blocks are copied in turn and whose flip writes the new leaf and raises the generation, an error of the copy ending it with 0x04; MOOR and UNMOOR ask for their publication; PEERSET and PEERCLR write the peer table; RETRAIN tests every lane again and keeps the traffic; CTXSTOP and CTXGO stop and restart a context and its timers; RSTEP undoes entries and says how many, and why it stopped; PKTBRK, PKTGO and SSTOP set stops; TRACEOPEN and TRACECLOSE open and close a session; KEYGEN and KEYWIPE load and wipe a key, a test key on a BLANK part; DBGCHAL gives a nonce for 60 s; DBGUNLOCK opens panel debug, wiping keys, or spends the nonce; PHYSRD reads the ciphertext of a written block, and FWSTATE its words, with panel debug open. The order of requests, argument layouts of PEERSET, the fate of a second CTXSTOP and that test keys are new each time are the model's (logs 125, 127, 128, 160). -/
def Obligations.MailboxRequestsAreServed : Prop :=
  (∀ (s : State) (i : Inst) (a : List Nat), s.request i 0x01 = some a → (s.migrationOf i (a.getD 0 0) (a.getD 1 0) (BitVec.ofNat 64 (a.getD 2 0)) = none → ∃ t, exec (.migrate i) s = .next t ∧ Answered t i 3 0x02 ∧ t.migrations = s.migrations ∧ t.mem = s.mem)
      ∧ ∀ m, s.migrationOf i (a.getD 0 0) (a.getD 1 0) (BitVec.ofNat 64 (a.getD 2 0)) = some m → overlaps (s.flatOf m.old) m.size (s.flatOf m.new) m.size = false → s.placed? m.old = true → s.placed? m.new = true → s.migrations.any (s.migMeets m) = false →
          (s.pageClaimed m.old m.size = true → exec (.migrate i) s = .next s)
          ∧ (s.pageClaimed m.old m.size = false → ∃ t, exec (.migrate i) s = .next t ∧ t.migrations = s.migrations ++ [m] ∧ (t.mbox i).taken = true ∧ (t.mbox i).st = (s.mbox i).st ∧ t.mem = s.mem))
  ∧ (∀ (s : State) (mid : Nat) (m : Migration) (ok : Bool) (p q : Nat), s.migrations.find? (fun m => m.mid == mid) = some m → m.forward = false → 64 * m.copied < m.size → p = s.flatOf m.old + 64 * m.copied → q = s.flatOf m.new + 64 * m.copied →
      (ok = false → ∃ t, exec (.migrationBlockCopy mid ok) s = .next t ∧ Answered t m.inst 3 0x04 ∧ (∀ x ∈ t.migrations, x.mid ≠ mid) ∧ t.mem = s.mem)
      ∧ (ok = true → readErr s.mem s.lostDies (s.keyOf m.old) 64 p 64 = none → writeErr s.mem s.lostDies (s.keyOf m.new) 64 q ((s.mem.read p 64).map some) = none →
          ∃ t, exec (.migrationBlockCopy mid ok) s = .next t ∧ t.mem = s.mem.store (s.keyOf m.new) q ((s.mem.read p 64).map some) ∧ t.migrations.find? (fun m => m.mid == mid) = some { m with copied := m.copied + 1 }))
  ∧ (∀ (s : State) (mid e : Nat) (m : Migration) (c : Ctx), s.migrations.find? (fun m => m.mid == mid) = some m → m.forward = false → m.size ≤ 64 * m.copied → s.ctx? m.asid = some c → c.asgens = [] → s.leafAt m.va 4 c.ptroot = some e →
      ∃ t d, exec (.migrationFlip mid) s = .next t ∧ t.migrations.find? (fun m => m.mid == mid) = some { m with forward := true, asgen := true } ∧ t.mem = s.mem.write e ((wordLe m.leaf).map some) ∧ t.ctx? m.asid = some d
        ∧ d.gen = c.gen + 1 ∧ d.asgens = [.migration mid])
  ∧ (∀ (s : State) (i : Inst) (v : Nat) (l : List Nat) (on : Bool), s.request i (if on then 0x02 else 0x03) = some (v :: l) →
      (4096 ≤ v ∨ (s.mapNow v).valid = false → ∃ t, exec (if on then .moor i else .unmoor i) s = .next t ∧ Answered t i 3 0x02 ∧ t.pubReqs = s.pubReqs)
      ∧ (v < 4096 → (s.mapNow v).valid = true → (s.mapNow v).nonres = true → ∃ t, exec (if on then .moor i else .unmoor i) s = .next t ∧ Answered t i 3 0x03 ∧ t.pubReqs = s.pubReqs)
      ∧ (v < 4096 → (s.mapNow v).valid = true → (s.mapNow v).nonres = false → (on = false ∨ (s.mapNow v).moored = true ∨ s.driverMoorings (chipOf (s.mapNow v).pcn) < 8) →
          ∃ t, exec (if on then .moor i else .unmoor i) s = .next t ∧ Answered t i 2 0 ∧ t.pubReqs = s.pubReqs ++ [.moor v on] ∧ t.mem = s.mem)
      ∧ (v < 4096 → (s.mapNow v).valid = true → on = true → (s.mapNow v).moored = false → 8 ≤ s.driverMoorings (chipOf (s.mapNow v).pcn) → ∃ t, exec (.moor i) s = .next t ∧ Answered t i 3 0x03 ∧ t.pubReqs = s.pubReqs))
  ∧ (∀ (s : State) (i : Inst) (a b c d : Nat), s.request i 0x04 = some [a, b, c, d] →
      (a < 256 → c < 2 ^ 16 → 1 ≤ d → d < 4096 → ∃ t, exec (.peerset i) s = .next t ∧ Answered t i 2 0 ∧ t.peers.get? a = some { remote := BitVec.ofNat 64 b, ports := c, asid := d } ∧ (∀ k, k ≠ a → t.peers.get? k = s.peers.get? k) ∧ t.mem = s.mem)
      ∧ ((256 ≤ a ∨ 2 ^ 16 ≤ c ∨ d = 0 ∨ 4096 ≤ d) → ∃ t, exec (.peerset i) s = .next t ∧ Answered t i 3 0x02 ∧ t.peers = s.peers))
  ∧ (∀ (s : State) (i : Inst) (a : Nat) (l : List Nat), s.request i 0x05 = some (a :: l) → a < 256 → ∃ t, exec (.peerclr i) s = .next t ∧ Answered t i 2 0 ∧ t.peers.get? a = none ∧ (∀ k, k ≠ a → t.peers.get? k = s.peers.get? k) ∧ t.mem = s.mem)
  ∧ (∀ (s : State) (i : Inst) (p : Nat) (l : List Nat), s.request i 0x06 = some (p :: l) →
      (16 ≤ p → ∃ t, exec (.retrain i) s = .next t ∧ Answered t i 3 0x02 ∧ t.ports = s.ports) ∧ (p < 16 → (s.port p).enable = false ∨ s.linkDie p = false → ∃ t, exec (.retrain i) s = .next t ∧ Answered t i 3 0x03 ∧ t.ports = s.ports)
      ∧ (p < 16 → (s.port p).enable = true → s.linkDie p = true → ∃ t, exec (.retrain i) s = .next t ∧ Answered t i 2 0 ∧ (t.port p).st = 1 ∧ (t.port p).dead = 0 ∧ (t.port p).pend = (s.port p).pend ∧ (t.port p).replay = (s.port p).replay ∧ t.mem = s.mem))
  ∧ (∀ (s : State) (i : Inst) (a : Nat) (l : List Nat), s.request i 0x10 = some (a :: l) →
      (s.ctx? a = none → ∃ t, exec (.ctxstop i) s = .next t ∧ Answered t i 3 0x02) ∧ (∀ c, s.ctx? a = some c → c.resident = false → ∃ t, exec (.ctxstop i) s = .next t ∧ Answered t i 3 0x03 ∧ t.ctx? a = some c)
      ∧ (∀ c, s.ctx? a = some c → c.resident = true → ∃ t, exec (.ctxstop i) s = .next t ∧ (t.mbox i).st = (s.mbox i).st ∧ (t.mbox i).taken = true ∧ t.ctx? a = some { c with stopReq := true, preempt := false, evicting := false, saving := false } ∧ t.mem = s.mem))
  ∧ (∀ (s : State) (i : Inst) (a : Nat) (c : Ctx), s.ctx? a = some c → c.resident = true → c.stopReq = true → c.stopped = false →
      (s.isStill a = false → exec (.ctxstopComplete a) s = .next s)
      ∧ (s.isStill a = true → i ∈ s.stopRequests a → ∃ t, exec (.ctxstopComplete a) s = .next t ∧ Answered t i 2 0 ∧ t.ctx? a = some { c with stopReq := false, stopped := true, stoppedAt := s.ptime, preempt := false } ∧ t.mem = s.mem))
  ∧ (∀ (s : State) (i : Inst) (a k : Nat) (l : List Nat) (c : Ctx) (y : Kernel), s.request i 0x11 = some (a :: l) → s.ctx? a = some c → s.kernel? k = some y → y.asid = a → (∀ v ∈ c.vcns, ∀ b ∈ (s.vc v).bars, b.2.withheld = none) →
      ∃ t z, exec (.ctxgo i) s = .next t ∧ Answered t i 2 0 ∧ t.ctx? a = some { c with stopReq := false, stopped := false } ∧ t.kernel? k = some z ∧ z.timer = y.timer + (if c.stopped = true then s.ptime - max c.stoppedAt y.timer else 0) ∧ t.mem = s.mem)
  ∧ (∀ (s : State) (i : Inst) (a n : Nat) (l : List Nat) (c : Ctx), s.request i 0x12 = some (a :: n :: l) → s.ctx? a = some c →
      (n = 0 ∨ 2 ^ 32 ≤ n → ∃ t, exec (.rstep i) s = .next t ∧ Answered t i 3 0x02 ∧ t.mem = s.mem) ∧ (1 ≤ n → n < 2 ^ 32 → c.stopped = false → ∃ t, exec (.rstep i) s = .next t ∧ Answered t i 3 0x03 ∧ t.mem = s.mem)
      ∧ (1 ≤ n → n < 2 ^ 32 → c.stopped = true →
          (∀ u done why off, s.stepsBack a c.stoppedAt n 0 0 ((s.ringEntries a).length + 1) = (u, done, why, off) → ∃ t, exec (.rstep i) s = .next t ∧ (t.mbox i).st = 2 ∧ t.mem = u.mem
            ∧ (t.mbox i).args.take 3 = [BitVec.ofNat 64 done, BitVec.ofNat 64 why, BitVec.ofNat 64 off])
          ∧ (s.newestEntry a c.stoppedAt = none → (s.log a).lost = false → ∃ t, exec (.rstep i) s = .next t ∧ Answered t i 2 0 ∧ (t.mbox i).args.take 3 = [0, 3, 0] ∧ t.mem = s.mem)))
  ∧ (∀ (s : State) (asid stop : Nat) (e : Entry), s.newestEntry asid stop = some e → 1 ≤ e.kind → e.kind ≤ 4 → s.stepBack asid stop = .ok ((s.restoreEntry asid e []).voidEntry asid e, e.off))
  ∧ (∀ (s : State) (i : Inst) (q n f : Nat) (l : List Nat), s.request i 0x13 = some (q :: n :: f :: l) →
      (1024 ≤ q ∨ 2 ^ 32 ≤ n ∨ 2 ≤ f → ∃ t, exec (.pktbrk i) s = .next t ∧ Answered t i 3 0x02 ∧ t.queues = s.queues)
      ∧ (q < 1024 → n < 2 ^ 32 →
          (f = 0 → ∃ t, exec (.pktbrk i) s = .next t ∧ Answered t i 2 0 ∧ n ∉ (t.queue q).breaks ∧ ∀ k, k ≠ n → (k ∈ (t.queue q).breaks ↔ k ∈ (s.queue q).breaks))
          ∧ (f = 1 → (n ∈ (s.queue q).breaks ∨ (s.queue q).breaks.length < 4) → ∃ t, exec (.pktbrk i) s = .next t ∧ Answered t i 2 0 ∧ n ∈ (t.queue q).breaks ∧ ∀ k, k ≠ n → (k ∈ (t.queue q).breaks ↔ k ∈ (s.queue q).breaks))
          ∧ (f = 1 → n ∉ (s.queue q).breaks → 4 ≤ (s.queue q).breaks.length → ∃ t, exec (.pktbrk i) s = .next t ∧ Answered t i 3 0x03 ∧ t.queues = s.queues)))
  ∧ (∀ (s : State) (i : Inst) (q : Nat) (l : List Nat), s.request i 0x14 = some (q :: l) → q < 1024 →
      ((s.queue q).st = .stopped → (s.queue q).code = 0x07 → (s.queue q).skip = 0 → ∃ t, exec (.pktgo i) s = .next t ∧ Answered t i 2 0 ∧ (t.queue q).st = .idle ∧ (t.queue q).code = 0 ∧ (t.queue q).passBreak = true ∧ (t.queue q).next = (s.queue q).next)
      ∧ ((s.queue q).code ≠ 0x07 → ∃ t, exec (.pktgo i) s = .next t ∧ Answered t i 2 0 ∧ t.queues = s.queues))
  ∧ (∀ (s : State) (i : Inst) (a b n : Nat) (l : List Nat) (c : Ctx), s.request i 0x15 = some (a :: b :: n :: l) → s.ctx? a = some c → b < 2 ^ 15 → n < 2 ^ 32 →
      ∃ t, exec (.sstop i) s = .next t ∧ Answered t i 2 0 ∧ t.ctx? a = some { c with armed := some (b % 4096, b / 4096, BitVec.ofNat 32 n) } ∧ t.mem = s.mem)
  ∧ (∀ (s : State) (i : Inst) (q r g st asid : Nat) (c : Ctx), s.request i 0x16 = some [q, r, g, st] → q < 1024 → (s.queue q).asid = some asid → s.ctx? asid = some c → g < 2 ^ 7 → 12 ≤ g % 32 → g % 32 ≤ 30 → r < 2 ^ 56 → r % 2 ^ (g % 32) = 0 →
      st < 2 ^ 56 → st % 64 = 0 → s.ringOk asid c r (2 ^ (g % 32)) = true →
      ((s.queue q).trace ≠ none → ∃ t, exec (.traceopen i) s = .next t ∧ Answered t i 3 0x03 ∧ t.queues = s.queues)
      ∧ ((s.queue q).trace = none → ∃ t x, exec (.traceopen i) s = .next t ∧ Answered t i 2 0 ∧ (t.queue q).trace = some x ∧ x.asid = asid ∧ x.ring.toNat = r ∧ x.logsz = g % 32 ∧ x.status.toNat = st ∧ x.written = 0 ∧ x.dropped = 0 ∧ t.mem = s.mem))
  ∧ (∀ (s : State) (i : Inst) (q : Nat) (l : List Nat), s.request i 0x17 = some (q :: l) → q < 1024 → ((s.queue q).trace = none → ∃ t, exec (.traceclose i) s = .next t ∧ Answered t i 2 0 ∧ t.queues = s.queues ∧ t.mem = s.mem)
      ∧ ∃ t, exec (.traceclose i) s = .next t ∧ Answered t i 2 0 ∧ (t.queue q).trace = none)
  ∧ (∀ (s : State) (chip q : Nat) (x : TraceSession), (s.queue q).trace = some x → ∃ t y, exec (.traceFlush chip) s = .next t ∧ (t.queue q).trace = some y ∧ y.buffers.get? chip = none
      ∧ y.written + y.dropped = x.written + x.dropped + (x.buffers.getD chip []).length)
  ∧ (∀ (s : State) (i : Inst) (k : Nat) (l : List Nat), (s.request i 0x18 = some (k :: l) → k < 256 → s.fuses.lifecycle ≠ 0 → ∃ t, exec (.keygen i) s = .next t ∧ Answered t i 2 0 ∧ t.keys.get? k = some (s.keyCtr + 1) ∧ t.keyCtr = s.keyCtr + 1 ∧ (∀ j, j ≠ k → t.keys.get? j = s.keys.get? j) ∧ t.mem = s.mem)
      ∧ (s.request i 0x18 = some (k :: l) → k < 256 → s.fuses.lifecycle = 0 → ∃ t, exec (.keygen i) s = .next t ∧ Answered t i 2 0 ∧ t.keys.get? k = some (2 ^ 64 + s.keyCtr + 1) ∧ t.keyCtr = s.keyCtr + 1 ∧ (∀ j, j ≠ k → t.keys.get? j = s.keys.get? j) ∧ t.mem = s.mem)
      ∧ (s.request i 0x18 = some (k :: l) → 256 ≤ k → ∃ t, exec (.keygen i) s = .next t ∧ Answered t i 3 0x02 ∧ t.keys = s.keys)
      ∧ (s.request i 0x19 = some (k :: l) → k < 256 → ∃ t, exec (.keywipe i) s = .next t ∧ Answered t i 2 0 ∧ t.keys.get? k = none ∧ (∀ j, j ≠ k → t.keys.get? j = s.keys.get? j) ∧ t.mem = s.mem))
  ∧ (∀ (s : State) (i : Inst) (a : List Nat), s.request i 0x1A = some a → ∃ t ws, exec (.dbgchal i) s = .next t ∧ Answered t i 2 0 ∧ ws.length = 4 ∧ (t.mbox i).args.take 4 = ws ∧ t.trust.nonce = some (s.ptime, wordsBytes ws) ∧ t.mem = s.mem)
  ∧ (∀ (s : State) (n : Nat) (w : List Byte), s.trust.nonce = some (n, w) → (n + 60000000000 ≤ s.ptime → ∃ t, exec .nonceExpiry s = .next t ∧ t.trust.nonce = none ∧ t.mem = s.mem) ∧ (s.ptime < n + 60000000000 → exec .nonceExpiry s = .next s))
  ∧ (∀ (s : State) (i : Inst) (a h : Nat) (l : List Nat), s.request i 0x1B = some (a :: h :: l) → h = 1 ∨ h = 0 ∧ a + tokenBytes ≤ hbmEnd →
      (∀ w, s.tokenAt a (h == 1) = some w → s.fuses.lifecycle = 1 → s.fuses.debugEnable = true → s.tokenOk w = true → (∀ q ∈ s.queues, q.2.enable = false) →
        ∃ t, exec (.dbgunlock i) s = .next t ∧ Answered t i 2 0 ∧ t.trust.debugOpen = true ∧ t.trust.tokenDigest = shake256 w ∧ t.keys = [] ∧ t.mem = s.mem)
      ∧ ((∀ w, s.tokenAt a (h == 1) = some w → s.tokenOk w = false) → ∃ t, exec (.dbgunlock i) s = .next t ∧ Answered t i 3 0x03 ∧ t.trust.nonce = none ∧ t.trust.debugOpen = s.trust.debugOpen ∧ t.keys = s.keys))
  ∧ (∀ (s : State) (i : Inst) (a : Nat) (l : List Nat), s.request i 0x1C = some (a :: l) →
      (a % 8 ≠ 0 ∨ hbmEnd ≤ a → ∃ t, exec (.physrd i) s = .next t ∧ Answered t i 3 0x02) ∧ (a % 8 = 0 → a < hbmEnd → s.panelDebug = false → ∃ t, exec (.physrd i) s = .next t ∧ Answered t i 3 0x03)
      ∧ (a % 8 = 0 → a < hbmEnd → s.panelDebug = true → stackLost s.lostDies a = false → ∃ t, exec (.physrd i) s = .next t ∧ Answered t i 2 0 ∧ t.mem = s.mem
          ∧ ∀ k, s.mem.blockKey.get? (a / 64) = some k → (t.mbox i).args.getD 0 0 = BitVec.ofNat 64 (ofLeBytes (((cipherBlock k (a / 64 * 64) (s.mem.read (a / 64 * 64) 64)).drop (a % 64)).take 8))))
  ∧ (∀ (s : State) (i : Inst) (a : Nat) (l : List Nat), s.request i 0x1D = some (a :: l) → (4 ≤ a → ∃ t, exec (.fwstate i) s = .next t ∧ Answered t i 3 0x02) ∧ (a < 4 → s.panelDebug = false → ∃ t, exec (.fwstate i) s = .next t ∧ Answered t i 3 0x03)
      ∧ (a < 4 → s.panelDebug = true → ∃ t, exec (.fwstate i) s = .next t ∧ Answered t i 2 0 ∧ t.mem = s.mem))
  ∧ (∀ (s : State) (i : Inst) (a : List Nat), s.request i (s.mbox i).reqOp = some a → ((s.mbox i).reqOp = 0 ∨ 7 ≤ (s.mbox i).reqOp ∧ (s.mbox i).reqOp < 0x10 ∨ 0x1E ≤ (s.mbox i).reqOp) → ∃ t, exec (.unknownMailboxOp i) s = .next t ∧ Answered t i 3 0x01 ∧ t.mem = s.mem)
  ∧ (∀ (m : Mailbox) (v : Word) (n : Nat), (m.st ≠ 1 → v.getLsbD 8 = true → (m.command v n).st = 1 ∧ (m.command v n).reqOp = bitsOf v 7 0 ∧ (m.command v n).req = m.args ∧ (m.command v n).taken = false)
      ∧ (v.getLsbD 8 = false ∨ m.st = 1 → (m.command v n).st = m.st ∧ (m.command v n).req = m.req))

/-- Each side-band request is answered with what it asks for, framed as log 60 says (sensor numbers, type codes and framing are the model's); an attestation is not answered by a hot trust die or a returned part, and after a failed boot it answers the failing slot, slot 7 apart; a vendor request is answered likewise; an unsupported message changes nothing. A link die in reset takes no port command; an enabled port trains; trained, it is up at its width, or in replay where it kept flits; no width takes it down. A flit with a bad CRC or out of order is NAKed once; the last flit of a packet delivers it and sends ACK. ACK, NAK and 2 us without an ACK empty the replay buffer or send it again. A dead lane narrows the port. WRITE, READREQ, READDATA and RESPONSE packets are performed as they arrive, a refused one is sent again 10 us later, and what its port has not begun to send waits for it; the packet that carries the arrival goes after all others; a WRITE's arrival is set out, or the packet refused where it cannot be made yet. (Which peer a port leads to, the far count, and what RESET and NAK do to packets on their way are read by the model, logs 20, 50, 117, 118.) -/
def Obligations.SideBandAndShadexPorts : Prop :=
  (∀ s : State, (∀ e, ∃ t, exec (.endpointIdAssignment e) s = .next t ∧ t.trust.eid = e % 256 ∧ t.hostIf.replies = s.hostIf.replies ++ [[BitVec.ofNat 8 e]] ∧ t.mem = s.mem)
      ∧ (∃ t w, exec .versionDiscovery s = .next t ∧ t.hostIf.replies = s.hostIf.replies ++ [wordLe w] ∧ t.mem = s.mem)
      ∧ (∃ t, exec .messageTypeDiscovery s = .next t ∧ t.hostIf.replies = s.hostIf.replies ++ [[0x00, 0x01, 0x05, 0x7E]] ∧ t.mem = s.mem)
      ∧ (∃ t, exec (.numericSensorRead 76) s = .next t ∧ t.hostIf.replies = s.hostIf.replies ++ [0 :: toLe 8 s.hostIf.risk] ∧ t.mem = s.mem)
      ∧ (∀ p < 16, ∃ t, exec (.numericSensorRead (77 + p)) s = .next t ∧ t.hostIf.replies = s.hostIf.replies ++ [0 :: toLe 8 (s.port p).st] ∧ t.mem = s.mem)
      ∧ (∀ n < 76, ∃ t w, exec (.numericSensorRead n) s = .next t ∧ t.hostIf.replies = s.hostIf.replies ++ [(if 1 ≤ n ∧ sensorDies.getD (n - 1) 0 ∈ s.lostDies then 1 else 0) :: wordLe w] ∧ t.mem = s.mem)
      ∧ ∀ ty, exec (.unsupportedMessage ty) s = .next s)
  ∧ (∀ (s : State) (i : Instr) (bs nonce : List Byte) (k : Nat),
      (i = .getVersion ∧ bs = [0x13] ∨ i = .getDigests ∧ bs = bytesOf256 (shake256 Config.certificate) ∨ i = .getCertificate ∧ bs = Config.certificate ∨ i = .challenge nonce ∧ bs = Config.identitySign nonce
        ∨ i = .getMeasurements k nonce ∧ 1 ≤ k ∧ k ≤ 7 ∧ bs = bytesOf256 (s.measurement k) ++ Config.identitySign (nonce ++ bytesOf256 (s.measurement k)) ∨ i = .negotiateAlgorithms false true ∧ bs = [0] ∨ i = .negotiateAlgorithms true false ∧ bs = [0]) →
      ((s.trust.hot = true ∨ s.fuses.lifecycle = 2) → exec i s = .next s)
      ∧ (s.trust.hot = false → s.fuses.lifecycle ≠ 2 → (s.trust.bootFail = none → ∃ t, exec i s = .next t ∧ t.hostIf.replies = s.hostIf.replies ++ [bs] ∧ t.mem = s.mem ∧ t.trust = s.trust)
          ∧ ∀ n, s.trust.bootFail = some n → ∃ t, exec i s = .next t ∧ t.hostIf.replies = s.hostIf.replies ++ [if i = .getMeasurements 7 nonce then bs else [BitVec.ofNat 8 n]] ∧ t.mem = s.mem))
  ∧ (∀ s : State, s.trust.hot = false → s.fuses.lifecycle ≠ 2 → s.trust.bootFail = none → (∃ t w, exec .getCapabilities s = .next t ∧ t.hostIf.replies = s.hostIf.replies ++ [wordLe w] ∧ t.mem = s.mem)
      ∧ ∃ t, exec (.negotiateAlgorithms true true) s = .next t ∧ t.trust.negotiated = true ∧ t.hostIf.replies = s.hostIf.replies ++ [[1]] ∧ t.mem = s.mem)
  ∧ (∀ (s : State) (off n : Nat) (v : Word), (s.trust.hot = true → exec (.regrd off n) s = .next s ∧ exec (.regwr off v) s = .next s ∧ exec (.sidebandMaprd n) s = .next s ∧ exec (.errrd n) s = .next s)
      ∧ (∀ k, s.trust.hot = false → s.trust.bootFail = some k → ∀ i, i = .regrd off n ∨ i = .regwr off v ∨ i = .sidebandMaprd n ∨ i = .errrd n → ∃ t, exec i s = .next t ∧ t.hostIf.replies = s.hostIf.replies ++ [[BitVec.ofNat 8 k]] ∧ t.mem = s.mem)
      ∧ (s.trust.hot = false → s.trust.bootFail = none → (sideWrites off = true → exec (.regwr off v) s = .next (s.writeReg .side off v)) ∧ (sideWrites off = false → exec (.regwr off v) s = .next s)
          ∧ ((n = 4 ∨ n = 8) → off % n = 0 → ∃ t, exec (.regrd off n) s = .next t ∧ t.hostIf.replies = s.hostIf.replies ++ [toLe n (s.readReg .side (off / 8 * 8) / 2 ^ (8 * (off % 8)))] ∧ t.mem = s.mem)
          ∧ (n < 4096 → ∃ t, exec (.sidebandMaprd n) s = .next t ∧ t.hostIf.replies = s.hostIf.replies ++ [wordLe (entryWord (s.mapNow n) s.mapSeq)] ∧ t.mem = s.mem)
          ∧ (n < s.hostIf.errTail → s.hostIf.errTail ≤ n + 256 → ∃ t, exec (.errrd n) s = .next t ∧ t.hostIf.replies = s.hostIf.replies ++ [s.hostIf.errRing.getD (n % 256) []] ∧ t.mem = s.mem)))
  ∧ (∀ (s : State) (p : Nat), s.linkDie p = false → exec (.sxctlEnable p) s = .next s ∧ exec (.sxctlReset p) s = .next s ∧ ∀ w rem, exec (.portTrained p w rem) s = .next s)
  ∧ (∀ (s : State) (p : Nat), s.linkDie p = true ↔ p < 16 ∧ s.trust.bootFail = none ∧ (if p < 8 then 0x200 else 0x201) ∉ s.lostDies)
  ∧ (∀ (s : State) (p : Nat), s.linkDie p = true → s.hostIf.held = [] → (∃ t, exec (.sxctlEnable p) s = .next t ∧ (t.port p).enable = true ∧ (t.port p).st = (if (s.port p).enable = true then (s.port p).st else 1) ∧ t.mem = s.mem)
      ∧ (∃ t, exec (.sxctlReset p) s = .next t ∧ t.port p = { (s.port p).cleared (if (s.port p).enable then 1 else 0) with dead := 0 } ∧ t.mem = s.mem))
  ∧ (∀ (s : State) (p w : Nat) (rem : Word) (x : Port), s.linkDie p = true → x = s.port p → x.enable = true → x.st = 1 →
      (w = 16 ∨ w = 8 ∨ w = 4 → w ≤ widest x.dead → ∃ t, exec (.portTrained p w rem) s = .next t ∧ (t.port p).width = w ∧ (t.port p).remote = rem ∧ t.mem = s.mem
        ∧ (x.replay = [] → (t.port p).st = 2) ∧ (x.replay ≠ [] → (t.port p).st = 3 ∧ (t.port p).replay = x.replay ∧ (t.port p).replays = min (x.replays + 1) 0xFFFFFFFF))
      ∧ (w = 0 → ∃ t, exec (.portTrained p w rem) s = .next t ∧ (t.port p).st = 0 ∧ (t.port p).width = 0 ∧ t.mem = s.mem))
  ∧ (∀ (s : State) (p ack : Nat) (x : Port) (flit : List Byte), p < 16 → x = s.port p → 2 ≤ x.st → (∀ f ∈ x.replay, f.1 ≠ field flit 2 2) →
      ((flit.length ≠ 256 ∨ Config.crc64 (flit.take 248) ≠ BitVec.ofNat 64 (field flit 248 8) ∨ field flit 4 1 % 4 = 0 ∧ field flit 0 2 ≠ x.rxSeq) →
        (x.naked = false → ∃ t, exec (.flitReceive p flit) s = .next t ∧ (t.port p).naked = true ∧ (t.port p).sent = x.sent ++ [controlFlit 2 x.rxAck] ∧ (t.port p).partials = [] ∧ (t.port p).delivered = x.delivered)
        ∧ (x.naked = true → ∃ t, exec (.flitReceive p flit) s = .next t ∧ (t.port p).sent = x.sent ∧ (t.port p).delivered = x.delivered))
      ∧ (flit.length = 256 → Config.crc64 (flit.take 248) = BitVec.ofNat 64 (field flit 248 8) → field flit 4 1 % 4 = 0 → field flit 0 2 = x.rxSeq →
          (field flit 4 1 / 4 % 2 = 1 → field flit 4 1 / 8 % 2 = 1 → ∃ t, exec (.flitReceive p flit) s = .next t ∧ (t.port p).delivered = x.delivered ++ [(flit.drop 8).take 240] ∧ (t.port p).rxSeq = (x.rxSeq + 1) % 65536
            ∧ (t.port p).rxAck = x.rxSeq ∧ (t.port p).sent = x.sent ++ [controlFlit 1 x.rxSeq] ∧ t.mem = s.mem)
          ∧ (field flit 4 1 / 4 % 2 = 0 → field flit 4 1 / 8 % 2 = 0 → ∃ t, exec (.flitReceive p flit) s = .next t ∧ (t.port p).partials = x.partials ++ [(flit.drop 8).take 240] ∧ (t.port p).rxSeq = (x.rxSeq + 1) % 65536
            ∧ (t.port p).rxAck = x.rxAck ∧ (t.port p).delivered = x.delivered ∧ (t.port p).sent = x.sent))
      ∧ ((∀ f ∈ x.replay, f.1 ≠ ack) → x.replay ≠ [] → ∃ t, exec (.nakReceive p ack) s = .next t ∧ (t.port p).st = 3 ∧ (t.port p).replay = x.replay ∧ (t.port p).replays = min (x.replays + 1) 0xFFFFFFFF
          ∧ (t.port p).sent = x.sent ++ x.replay.map (fun f => flitBytes f.1 x.rxAck f.2.1) ∧ t.mem = s.mem)
      ∧ (s.ptime < x.ackAt + 2000 → exec (.replayTimeout p) s = .next s)
      ∧ (x.ackAt + 2000 ≤ s.ptime → x.replay ≠ [] → ∃ t, exec (.replayTimeout p) s = .next t ∧ (t.port p).st = 3 ∧ (t.port p).replay = x.replay ∧ (t.port p).ackAt = s.ptime ∧ t.mem = s.mem))
  ∧ (∀ (x : Port) (l m : List (Nat × List Byte × Nat)) (b : List Byte) (a w now : Nat), x.replay = l ++ (a, b, w) :: m → (∀ f ∈ l, f.1 ≠ a) → x.pend = [] → (x.acked a now).replay = m ∧ (x.acked a now).ackAt = now ∧ (x.st = 3 → (x.acked a now).st = 2))
  ∧ (∀ (s : State) (p lane : Nat) (d : BitVec 16), p < 16 → lane < 16 → (s.port p).st ≠ 0 → d = (s.port p).dead ||| BitVec.ofNat 16 (2 ^ lane) →
      ∃ t, exec (.laneDeath p lane) s = .next t ∧ (t.port p).dead = d ∧ (t.port p).laneLoss = min ((s.port p).laneLoss + 1) 0xFFFFFFFF ∧ t.mem = s.mem
        ∧ (widest d ≠ 0 → (t.port p).st = 1 ∧ (t.port p).width = (if (s.port p).width = 0 then 0 else widest d) ∧ (t.port p).replay = (s.port p).replay) ∧ (widest d = 0 → (t.port p).st = 0 ∧ (t.port p).width = 0))
  ∧ widest 0 = 16 ∧ widest 0x0020 = 8 ∧ widest 0x0100 = 8 ∧ widest 0x0101 = 4 ∧ widest 0x1111 = 0
  ∧ (∀ (s : State) (p : Nat), p < 16 → (s.port p).st = 1 → (s.port p).width ≠ 0 → ∃ t, exec (.retrainDone p) s = .next t ∧ (t.port p).width = (s.port p).width ∧ t.mem = s.mem
      ∧ ((s.port p).replay = [] → (t.port p).st = 2) ∧ ((s.port p).replay ≠ [] → (t.port p).st = 3 ∧ (t.port p).replay = (s.port p).replay))
  ∧ (∀ (s u v : State) (p k : Nat) (pkt : List Byte) (f : Fail), s.takePacket p 1 = some (pkt, u) → (∀ segs, u.windowSegs (farAsid (u.peerAt p)) (packetOff pkt) (packetLen pkt) .wr = .ok (some segs) → u.segsMoving segs = false) →
      (u.farArrivalAt p pkt = .ok (some []) → exec (.shadexWrite p) s = .next (u.answerPacket p 2 pkt { cause := 0, sub := 0 }) ∧ (u.answerPacket p 2 pkt { cause := 0, sub := 0 }).mem = s.mem)
      ∧ (u.farArrivalAt p pkt ≠ .ok (some []) → u.farWrite p pkt = (v, k, f) → ∃ t, exec (.shadexWrite p) s = .next t ∧ t.mem = v.mem
          ∧ ∀ (g : Seg) (gs : List Seg), k ≠ 2 → u.farArrivalAt p pkt = .ok (some (g :: gs)) → ∃ (a : FarArrival), t.arrivals = v.arrivals ++ [a] ∧ a.asid = farAsid (v.peerAt p) ∧ a.seg.loc = g.loc ∧ a.counter = false))
  ∧ (∀ (s : State) (p ty : Nat) (pkt : List Byte) (u : State), s.takePacket p ty = some (pkt, u) → packetType pkt = ty ∧ pkt ∈ (s.port p).delivered ∧ (u.port p).delivered = (s.port p).delivered.erase pkt ∧ u.mem = s.mem)
  ∧ (∀ (s u : State) (p : Nat) (pkt bs : List Byte) (segs : List Seg), s.takePacket p 2 = some (pkt, u) → u.windowSegs (farAsid (u.peerAt p)) (packetOff pkt) (packetLen pkt) .rd = .ok (some segs) → u.segsMoving segs = false → u.readSegs segs = .ok bs →
      exec (.readreq p) s = .next (u.sendBack p (packetBytes 3 0 (packetLen pkt) (packetOff pkt) 0 (packetTag pkt) bs)))
  ∧ (∀ (s : State) (p i n : Nat) (e : Peer) (q : List Byte), s.peerAt p = some (i, e) → s.peerPort i = some n → s.sendBack p q = s.sendOn n i q)
  ∧ (∀ (s u : State) (p : Nat) (pkt q : List Byte) (e : EngOp), s.takePacket p 3 = some (pkt, u) → u.engine? (packetTag pkt) = some e → q ∈ e.out → packetOff q = packetOff pkt →
      ∃ t, exec (.readdata p) s = .next t ∧ t.mem = (u.dataIn e (packetOff pkt) (packetData pkt)).mem)
  ∧ (∀ (s u : State) (p : Nat) (pkt q : List Byte) (e : EngOp), s.takePacket p 4 = some (pkt, u) → u.engine? (packetTag pkt) = some e → e.out.find? (fun q => packetOff q == packetOff pkt) = some q → e.hold = [] →
      (packetStatus pkt = 0 → ∃ t, exec (.response p) s = .next t ∧ t.engine? (packetTag pkt) = some { e with out := e.out.erase q } ∧ t.mem = s.mem)
      ∧ (packetStatus pkt = 2 → ∃ t x, exec (.response p) s = .next t ∧ t.engine? (packetTag pkt) = some x ∧ x.again = e.again ++ [q] ∧ x.retryAt = s.ptime ∧ t.mem = s.mem
          ∧ ((∀ pr, e.peer = some pr → u.peerPort pr = none) → x.out = e.out.erase q ∧ x.hold = [])
          ∧ ∀ pr n l offs, e.peer = some pr → u.peerPort pr = some n → pullPend (u.port n).pend.length e.id (u.port n).pend = (l, offs) →
              (t.port n).pend = l ∧ x.hold = e.out.filter (fun y => offs.contains (packetOff y)) ∧ x.out = (e.out.filter fun y => !offs.contains (packetOff y)).erase q)
      ∧ (packetStatus pkt = 1 → ∃ t x, exec (.response p) s = .next t ∧ t.engine? (packetTag pkt) = some { e with out := e.out.erase q, subs := e.subs ++ [x] } ∧ x.cause = field (packetData pkt) 0 1 ∧ x.sub = field (packetData pkt) 1 1 ∧ t.mem = s.mem))
  ∧ (∀ (s u : State) (p pr : Nat) (pkt q : List Byte) (e : EngOp), s.takePacket p 4 = some (pkt, u) → u.engine? (packetTag pkt) = some e → e.out = [q] → packetOff q = packetOff pkt → packetStatus pkt = 0 → e.again = [] → e.peer = some pr → u.peerPort pr ≠ none →
      (e.hold.filter fun y => packetArr y == 0) ≠ [] → ∃ t, exec (.response p) s = .next t ∧ t.engine? (packetTag pkt) = some { e with out := e.hold.filter fun y => packetArr y == 0, hold := e.hold.filter fun y => packetArr y != 0 } ∧ t.mem = s.mem)
  ∧ (∀ (s : State) (id pr : Nat) (e : EngOp) (q : List Byte) (l : List (List Byte)), s.engine? id = some e → e.again = q :: l → e.out = [] →
      (s.ptime < e.retryAt + 10000 → exec (.peerRetry id) s = .next s)
      ∧ (e.retryAt + 10000 ≤ s.ptime → e.peer = some pr → s.peerPort pr ≠ none → ∃ t, exec (.peerRetry id) s = .next t ∧ t.engine? id = some { e with again := l, out := [q] } ∧ t.mem = s.mem))

/-- State.result and State.answer, in which the statements on scalar instructions name their next state: s0 still reads as zero, the destination reads as the value unless it is s0, every other register is unchanged, the PC is the next head's, and nothing else in the machine differs but the core's own record of where the strand stands. -/
def Obligations.ResultWritesOneRegister : Prop :=
  ∀ (s t : State) (d : Reg) (v : Word), (t = s.result d v ∨ t = s.answer d v) →
    t.reg 0 = 0 ∧ (d ≠ 0 → t.reg d = v) ∧ (∀ r, r ≠ d → t.reg r = s.reg r)
    ∧ t.cur.pc = s.nextPc ∧ t.mem = s.mem ∧ OnlyRegsAndPc s t

/-- With the line of the PC entered, the next PC is two bytes on while the line has a further head, and head 0 of the line after it where it has none. -/
def Obligations.NextHead : Prop :=
  ∀ (s : State) (l : BitVec 512) (k : Nat), s.cur.line = some (lineAddr s.cur.pc, l) → headIndex s.cur.pc = some k → k < lineHeads l →
    s.nextPc = if k + 1 < lineHeads l then s.cur.pc + 2 else lineAddr s.cur.pc + 64 + 2

/-- For all operands ADD, SUB, MUL, MULH, MULHU, AND, OR, XOR, SHL, SHR, SHA, SLT, SLTU, MIN, MINU, MAX, MAXU, CLZ, CTZ, POPC and SEL complete with the result that the reference gives: sums and products modulo 2^64 or their high halves, shifts by sB[5:0], signed and unsigned comparisons, the zero bits above the highest 1 and below the lowest 1, the number of 1 bits, and the selection. -/
def Obligations.IntegerRegisterOperations : Prop :=
  ∀ (s : State) (d a b c : Reg), ∀ x y : Word, x = s.reg a → y = s.reg b →
    exec (.add d a b) s = .next (s.result d (BitVec.ofNat 64 (x.toNat + y.toNat)))
    ∧ exec (.sub d a b) s = .next (s.result d (BitVec.ofInt 64 (x.toInt - y.toInt)))
    ∧ exec (.mul d a b) s = .next (s.result d (BitVec.ofNat 64 (x.toNat * y.toNat)))
    ∧ exec (.mulh d a b) s = .next (s.result d (BitVec.ofInt 64 (x.toInt * y.toInt / 2 ^ 64)))
    ∧ exec (.mulhu d a b) s = .next (s.result d (BitVec.ofNat 64 (x.toNat * y.toNat / 2 ^ 64)))
    ∧ exec (.and d a b) s = .next (s.result d (x &&& y))
    ∧ exec (.or d a b) s = .next (s.result d (x ||| y))
    ∧ exec (.xor d a b) s = .next (s.result d (x ^^^ y))
    ∧ exec (.shl d a b) s = .next (s.result d (BitVec.ofNat 64 (x.toNat * 2 ^ (y.extractLsb' 0 6).toNat)))
    ∧ exec (.shr d a b) s = .next (s.result d (BitVec.ofNat 64 (x.toNat / 2 ^ (y.extractLsb' 0 6).toNat)))
    ∧ exec (.sha d a b) s = .next (s.result d (BitVec.ofInt 64 (x.toInt / 2 ^ (y.extractLsb' 0 6).toNat)))
    ∧ exec (.slt d a b) s = .next (s.result d (if x.toInt < y.toInt then 1 else 0))
    ∧ exec (.sltu d a b) s = .next (s.result d (if x.toNat < y.toNat then 1 else 0))
    ∧ exec (.min d a b) s = .next (s.result d (if x.toInt ≤ y.toInt then x else y))
    ∧ exec (.minu d a b) s = .next (s.result d (if x.toNat ≤ y.toNat then x else y))
    ∧ exec (.max d a b) s = .next (s.result d (if x.toInt ≤ y.toInt then y else x))
    ∧ exec (.maxu d a b) s = .next (s.result d (if x.toNat ≤ y.toNat then y else x))
    ∧ (∃ n, n ≤ 64 ∧ (∀ i, 64 - n ≤ i → x.getLsbD i = false) ∧ (n < 64 → x.getLsbD (63 - n) = true)
        ∧ exec (.clz d a) s = .next (s.result d (BitVec.ofNat 64 n)))
    ∧ (∃ n, n ≤ 64 ∧ (∀ i, i < n → x.getLsbD i = false) ∧ (n < 64 → x.getLsbD n = true)
        ∧ exec (.ctz d a) s = .next (s.result d (BitVec.ofNat 64 n)))
    ∧ exec (.popc d a) s = .next (s.result d (BitVec.ofNat 64 ((List.range 64).countP fun i => x.getLsbD i)))
    ∧ exec (.sel d a b c) s = .next (s.result d (if s.reg c = 0 then y else x))

/-- DIV, DIVU, REM and REMU complete for all operands. With a zero sB, DIV and DIVU write all ones. DIV of -2^63 by -1 writes 0x8000000000000000. Otherwise the quotients are the exact ones truncated, and the remainders are those that belong with these quotients: sA - q * sB, modulo 2^64. CLZ, ADD and AND of the same entry complete too, and the three words that the entry assembles decode to ADD, DIV and CLZ. -/
def Obligations.DivisionCorners : Prop :=
  (∀ (s : State) (d a b : Reg), ∃ q r qu ru : Word,
      exec (.div d a b) s = .next (s.result d q) ∧ exec (.rem d a b) s = .next (s.result d r)
      ∧ exec (.divu d a b) s = .next (s.result d qu) ∧ exec (.remu d a b) s = .next (s.result d ru)
      ∧ (s.reg b = 0 → q = 0xFFFFFFFFFFFFFFFF ∧ qu = 0xFFFFFFFFFFFFFFFF)
      ∧ (s.reg a = 0x8000000000000000 → s.reg b = 0xFFFFFFFFFFFFFFFF → q = 0x8000000000000000)
      ∧ (s.reg b ≠ 0 → q = BitVec.ofInt 64 ((s.reg a).toInt.tdiv (s.reg b).toInt) ∧ qu = BitVec.ofNat 64 ((s.reg a).toNat / (s.reg b).toNat))
      ∧ r = s.reg a - q * s.reg b ∧ ru = s.reg a - qu * s.reg b)
  ∧ (∀ (s : State) (d a b : Reg), (∃ v, exec (.add d a b) s = .next (s.result d v)) ∧ (∃ v, exec (.and d a b) s = .next (s.result d v))
      ∧ (∃ v, exec (.clz d a) s = .next (s.result d v)) ∧ (∃ v, exec (.ctz d a) s = .next (s.result d v)))
  ∧ decode false 0x4134 0x5000 = .instr (.add 3 4 5) ∧ decode false 0x4134 0x5005 = .instr (.div 3 4 5) ∧ decode false 0x4134 0x0015 = .instr (.clz 3 4)

/-- SUB, MUL, MULH, MULHU, REM, REMU, OR, SHL, SHR, SHA, SLT, SLTU, MIN, MINU, MAX, MAXU, POPC and SEL complete with a result for all operands and raise no trap. A shift depends on sB only through sB[5:0]. REM and REMU with a zero sB write sA, and REM of -2^63 by -1 writes 0. The entry's words decode to MUL, SHL, POPC and SEL, and its worked values hold: REM of -7 by 2 is -1 and DIV is -3; with all ones and 2 MULHU writes 1 and MULH all ones. -/
def Obligations.ShiftAndRemainderCorners : Prop :=
  (∀ (s : State) (d a b c : Reg), ∀ i ∈ [Instr.sub d a b, .mul d a b, .mulh d a b, .mulhu d a b, .rem d a b, .remu d a b, .or d a b, .shl d a b, .shr d a b,
      .sha d a b, .slt d a b, .sltu d a b, .min d a b, .minu d a b, .max d a b, .maxu d a b, .popc d a, .sel d a b c],
      ∃ v, exec i s = .next (s.result d v))
  ∧ (∀ (s : State) (d a b : Reg) (v : Word), v.extractLsb' 0 6 = (s.reg b).extractLsb' 0 6 → b ≠ 0 → a ≠ b →
      (∀ w, exec (.shl d a b) s = .next (s.result d w) → exec (.shl d a b) (s.setReg b v) = .next ((s.setReg b v).result d w))
      ∧ (∀ w, exec (.shr d a b) s = .next (s.result d w) → exec (.shr d a b) (s.setReg b v) = .next ((s.setReg b v).result d w))
      ∧ (∀ w, exec (.sha d a b) s = .next (s.result d w) → exec (.sha d a b) (s.setReg b v) = .next ((s.setReg b v).result d w)))
  ∧ (∀ (s : State) (d a b : Reg), s.reg b = 0 → exec (.rem d a b) s = .next (s.result d (s.reg a)) ∧ exec (.remu d a b) s = .next (s.result d (s.reg a)))
  ∧ (∀ (s : State) (d a b : Reg), s.reg a = 0x8000000000000000 → s.reg b = 0xFFFFFFFFFFFFFFFF → exec (.rem d a b) s = .next (s.result d 0))
  ∧ (∀ (s : State) (d : Reg), s.reg 4 = -7 → s.reg 5 = 2 → exec (.rem d 4 5) s = .next (s.result d (-1)) ∧ exec (.div d 4 5) s = .next (s.result d (-3)))
  ∧ (∀ (s : State) (d : Reg), s.reg 4 = 0xFFFFFFFFFFFFFFFF → s.reg 5 = 2 →
      exec (.mulhu d 4 5) s = .next (s.result d 1) ∧ exec (.mulh d 4 5) s = .next (s.result d 0xFFFFFFFFFFFFFFFF))
  ∧ decode false 0x4134 0x5002 = .instr (.mul 3 4 5) ∧ decode false 0x4134 0x500C = .instr (.shl 3 4 5)
  ∧ decode false 0x4134 0x0017 = .instr (.popc 3 4) ∧ decode false 0x4134 0x5618 = .instr (.sel 3 4 5 6)

/-- ADDI, ANDI and XORI take the sign-extended and ORI the zero-extended immediate; SHLI, SHRI and SHAI shift by 0 to 63; SLTI compares signed. WID in a strand of a kernel gives the field, the group index, the extent or the position that the header gives, and in a handler, which belongs to no kernel, 0. -/
def Obligations.IntegerImmediates : Prop :=
  (∀ (s : State) (d a : Reg) (m : BitVec 16) (e : BitVec 6),
      exec (.addi d a m) s = .next (s.result d (BitVec.ofInt 64 ((s.reg a).toInt + m.toInt)))
      ∧ exec (.andi d a m) s = .next (s.result d (s.reg a &&& m.signExtend 64))
      ∧ exec (.ori d a m) s = .next (s.result d (s.reg a ||| m.zeroExtend 64))
      ∧ exec (.xori d a m) s = .next (s.result d (s.reg a ^^^ m.signExtend 64))
      ∧ exec (.shli d a e) s = .next (s.result d (BitVec.ofNat 64 ((s.reg a).toNat * 2 ^ e.toNat)))
      ∧ exec (.shri d a e) s = .next (s.result d (BitVec.ofNat 64 ((s.reg a).toNat / 2 ^ e.toNat)))
      ∧ exec (.shai d a e) s = .next (s.result d (BitVec.ofInt 64 ((s.reg a).toInt / 2 ^ e.toNat)))
      ∧ exec (.slti d a m) s = .next (s.result d (if (s.reg a).toInt < m.toInt then 1 else 0)))
  ∧ (∀ (s : State) (d a : Reg) (i : Fin 6) (kn : Kernel), s.kernelHere = some kn →
      exec (.wid d a i .field) s = .next (s.result d (BitVec.ofNat 64 ((s.reg a).toNat / 2 ^ (kn.hdr.widths.take i.val).sum % 2 ^ (kn.hdr.widths.getD i.val 0))))
      ∧ exec (.wid d a i .group) s = .next (s.result d ((s.reg a) >>> (kn.hdr.widths.take i.val).sum))
      ∧ exec (.wid d a i .extent) s = .next (s.result d (BitVec.ofNat 64 (kn.hdr.extents.getD i.val 1)))
      ∧ exec (.wid d a i .pos) s = .next (s.result d (BitVec.ofNat 64 (kn.hdr.widths.take i.val).sum)))
  ∧ (∀ (s : State) (d a : Reg) (i : Fin 6) (k : WidKind), s.cur.str.kernel = none → exec (.wid d a i k) s = .next (s.result d 0))

/-- For every field that lies within the register, BFX writes the sign-extended and BFXU the zero-extended field sA[p+w-1:p], and BFI replaces sD[p+w-1:p] by sA[w-1:0] and leaves the other bits; none of them traps. The entry's word decodes, and its two worked values hold. -/
def Obligations.BitFields : Prop :=
  (∀ (s : State) (d a : Reg) (p w1 : BitVec 6), p.toNat + w1.toNat + 1 ≤ 64 →
      exec (.bfx d a p w1) s = .next (s.result d (((s.reg a).extractLsb' p.toNat (w1.toNat + 1)).signExtend 64))
      ∧ exec (.bfxu d a p w1) s = .next (s.result d (((s.reg a).extractLsb' p.toNat (w1.toNat + 1)).zeroExtend 64))
      ∧ ∃ v : Word, exec (.bfi d a p w1) s = .next (s.result d v)
          ∧ ∀ i, i < 64 → v.getLsbD i = if p.toNat ≤ i ∧ i ≤ p.toNat + w1.toNat then (s.reg a).getLsbD (i - p.toNat) else (s.reg d).getLsbD i)
  ∧ decode false 0x8234 0x00C80008 = .instr (.bfx 3 4 8 3)
  ∧ (∀ s : State, s.reg 4 = 0xAF00 → exec (.bfx 3 4 8 3) s = .next (s.result 3 0xFFFFFFFFFFFFFFFF))
  ∧ (∀ s : State, s.reg 3 = 0 → s.reg 4 = 0xA → exec (.bfi 3 4 60 3) s = .next (s.result 3 0xA000000000000000))

/-- The heads and tails of LIM decode as the entry says: with A, B and W zero and C 0 or 1 to its two forms, with a C from 2 to 15, a non-zero A or a non-zero B to RSVBIT, and with a non-zero W to an illegal head. With C = 0 sD takes the sign-extended pattern; with C = 1 the pattern is sD[63:32] and sD[31:0] is unchanged. LIM raises no trap. The example of the entry holds. -/
def Obligations.LongImmediate : Prop :=
  (∀ (k : Bool) (d a b c : BitVec 4) (w : BitVec 2) (m : BitVec 32),
      decode k (head 0x38 3 d a) (tailL m b c w 2)
        = if a ≠ 0 ∨ b ≠ 0 ∨ 2 ≤ c.toNat then .illegal .rsvbit else if w ≠ 0 then .illegal .wait else .instr (.lim (c == 1) d m))
  ∧ (∀ (s : State) (d : Reg) (m : BitVec 32),
      exec (.lim false d m) s = .next (s.result d (m.signExtend 64))
      ∧ exec (.lim true d m) s = .next (s.result d (BitVec.ofNat 64 (m.toNat * 2 ^ 32 + (s.reg d).toNat % 2 ^ 32))))
  ∧ decode false 0xE330 0x123456780002 = .instr (.lim false 3 0x12345678) ∧ decode false 0xE330 0x9ABCDEF00102 = .instr (.lim true 3 0x9ABCDEF0)
  ∧ (∀ s : State, s.reg 3 = 0x12345678 → exec (.lim true 3 0x9ABCDEF0) s = .next (s.result 3 0x9ABCDEF012345678))

/-- BEQ, BNE, BLT, BGE, BLTU and BGEU go to the target of R106 when their comparison holds and on at the next head otherwise; JMP always goes, JAL with the next PC in its register, and LOOP goes while the decremented counter is not zero, a counter of 0 wrapping to all ones. A target index of 31 is remembered as head 31 of the target line. Nothing else changes. That LOOP of s0 tests the computed value, which is discarded, is the model's reading (log 86). -/
def Obligations.BranchesAndJumps : Prop :=
  (∀ (s : State) (pc : BitVec 56) (p : Bool), (s.jump pc p).cur.pc = pc ∧ (s.jump pc p).cur.past = p ∧ OnlyRegsAndPc s (s.jump pc p) ∧ ∀ r, (s.jump pc p).reg r = s.reg r)
  ∧ (∀ (s : State) (a b : Reg) (m : BitVec 16) (t : State),
      t = s.jump (BitVec.ofInt 56 ((s.cur.pc.toNat / 64 * 64 : Nat) + (m.toInt / 32) * 64 + 2 + 2 * (m.toNat % 32 : Nat))) (m.toNat % 32 == 31) →
      exec (.beq a b m) s = .next (if s.reg a = s.reg b then t else s.advance)
      ∧ exec (.bne a b m) s = .next (if s.reg a = s.reg b then s.advance else t)
      ∧ exec (.blt a b m) s = .next (if (s.reg a).toInt < (s.reg b).toInt then t else s.advance)
      ∧ exec (.bge a b m) s = .next (if (s.reg b).toInt ≤ (s.reg a).toInt then t else s.advance)
      ∧ exec (.bltu a b m) s = .next (if (s.reg a).toNat < (s.reg b).toNat then t else s.advance)
      ∧ exec (.bgeu a b m) s = .next (if (s.reg b).toNat ≤ (s.reg a).toNat then t else s.advance))
  ∧ (∀ (s : State) (d : Reg) (m : BitVec 16) (c : State), c = s.setReg d (s.reg d - 1) →
      exec (.loop d m) s = .next (if s.reg d = 1 then c.advance
        else c.jump (BitVec.ofInt 56 ((s.cur.pc.toNat / 64 * 64 : Nat) + (m.toInt / 32) * 64 + 2 + 2 * (m.toNat % 32 : Nat))) (m.toNat % 32 == 31)))
  ∧ (∀ (s : State) (d : Reg) (m : BitVec 32) (t : BitVec 56),
      t = BitVec.ofInt 56 ((s.cur.pc.toNat / 64 * 64 : Nat) + (m.toInt / 32) * 64 + 2 + 2 * (m.toNat % 32 : Nat)) →
      exec (.jmp m) s = .next (s.jump t (m.toNat % 32 == 31))
      ∧ exec (.jal d m) s = .next ((s.setReg d (s.nextPc.zeroExtend 64)).jump t (m.toNat % 32 == 31)))

/-- A JALR whose target has bit 0 set or bits [5:1] zero raises LINEFMT BADPC at its own PC and writes no link; one whose target passes that check but lies beyond 2^56 raises ACCESS RANGE and writes no link; otherwise the link register receives the next PC and the strand goes to the target as it stood before the link was written. The worked branch of the rule has its target: from the line 0x12340, imm16 0xFFA4 is PC 0x1228A. That ADDR of the RANGE trap is the address as computed is the model's reading (log 14). -/
def Obligations.JumpRegisterChecks : Prop :=
  (∀ (s : State) (d a : Reg), ((s.reg a).getLsbD 0 = true ∨ (s.reg a).extractLsb' 1 5 = 0) →
      exec (.jalr d a) s = .next (s.raise 0x02 0x06 (s.reg a)) ∧ ∀ r, (s.raise 0x02 0x06 (s.reg a)).reg r = s.reg r)
  ∧ (∀ (s : State) (d a : Reg), (s.reg a).getLsbD 0 = false → (s.reg a).extractLsb' 1 5 ≠ 0 → (s.reg a).extractLsb' 56 8 ≠ 0 →
      exec (.jalr d a) s = .next (s.raise 0x03 0x05 (s.reg a)))
  ∧ (∀ (s : State) (d a : Reg), (s.reg a).getLsbD 0 = false → (s.reg a).extractLsb' 1 5 ≠ 0 → (s.reg a).extractLsb' 56 8 = 0 →
      ∃ t, exec (.jalr d a) s = .next t ∧ t.cur.pc = (s.reg a).extractLsb' 0 56 ∧ (d ≠ 0 → t.reg d = s.nextPc.zeroExtend 64)
        ∧ (∀ r, r ≠ d → t.reg r = s.reg r) ∧ OnlyRegsAndPc s t)
  ∧ (∀ (s : State) (c k : Nat) (ad : BitVec 64), (s.raise c k ad).cur.pc = s.cur.pc
      ∧ (s.raise c k ad).cur.stop = some { trap := { cause := c, sub := k, fpc := s.cur.pc, addr := ad }, resume := s.cur.pc })
  ∧ decode false 0x8604 0xFFA45001 = .instr (.bne 4 5 0xFFA4)
  ∧ (∀ pc : BitVec 56, lineAddr pc = 0x12340 → target16 pc 0xFFA4 = 0x1228A)

/-- For all operands and every precision, with a, b and c the values of sA, sB and sC: FADD, FSUB, FMUL, FDIV, FFMA and FSQRT write the exact a + b, a - b, a x b, a / b, a x b + c and root of a, rounded once to nearest even, FMIN and FMAX the smaller and the larger of R153, and FCVT to a precision the value of its source, a number of any precision or an integer, rounded the same way. A value depends on the low bits that the precision has alone, and the bits above it are zero in every result. FCMP writes exactly the bit of its relation: less, equal, greater by the two numbers, zeros of both signs equal, infinities beyond every number, and unordered exactly where an operand is NaN. FCLASS writes the bit of the class that the sign, the exponent and the fraction give. FSGN writes the canonical NaN for a NaN and otherwise the magnitude of sA with the sign of sB, its inverse, or the exclusive or of both signs. FCVT to an integer rounds toward zero and saturates, gives 0 for a NaN and the end of the range for an infinity. -/
def Obligations.ScalarFloatingPoint : Prop :=
  (∀ (s : State) (p q : Prec) (d a b c : Reg) (x y z : FVal), x = fpVal p (s.reg a) → y = fpVal p (s.reg b) → z = fpVal p (s.reg c) →
      exec (.fadd p d a b) s = .next (s.result d (fpWord p (x.add y))) ∧ exec (.fsub p d a b) s = .next (s.result d (fpWord p (x.add y.neg)))
      ∧ exec (.fmul p d a b) s = .next (s.result d (fpWord p (x.mul y))) ∧ exec (.ffma p d a b c) s = .next (s.result d (fpWord p ((x.mul y).add z)))
      ∧ exec (.fdiv p d a b) s = .next (s.result d (fpWord p (x.div y))) ∧ exec (.fsqrt p d a) s = .next (s.result d (fpWord p x.sqrt))
      ∧ exec (.fmin p d a b) s = .next (s.result d (fpWord p (x.fmin y))) ∧ exec (.fmax p d a b) s = .next (s.result d (fpWord p (x.fmax y)))
      ∧ exec (.fcvt q (.fp p) d a) s = .next (s.result d (fpWord q x))
      ∧ exec (.fcvt q .sint d a) s = .next (s.result d (fpWord q (.num (decide ((s.reg a).toInt < 0)) (s.reg a).toInt.natAbs 0)))
      ∧ exec (.fcvt q .uint d a) s = .next (s.result d (fpWord q (.num false (s.reg a).toNat 0))))
  ∧ (∀ (p : Prec) (v : FVal) (w u : Word), (fpWord p v).toNat < 2 ^ (precLayout p).width ∧ (fpWord p v).toNat = (precLayout p).rne v
      ∧ (w.toNat % 2 ^ (precLayout p).width = u.toNat % 2 ^ (precLayout p).width → fpVal p w = fpVal p u))
  ∧ (∀ (p : Prec) (s : State) (d a b : Reg) (x y : FVal), x = fpVal p (s.reg a) → y = fpVal p (s.reg b) →
      (x = .nan ∨ y = .nan → exec (.fcmp p d a b) s = .next (s.result d 8))
      ∧ (∀ n m e n' m' e', x = .num n m e → y = .num n' m' e' → ∀ u v : Int, u = (if n then -1 else 1) * (m * 2 ^ (e - min e e').toNat : Nat) →
          v = (if n' then -1 else 1) * (m' * 2 ^ (e' - min e e').toNat : Nat) →
          exec (.fcmp p d a b) s = .next (s.result d (if u < v then 1 else if u = v then 2 else 4)))
      ∧ (∀ n, x = .inf n → y ≠ .nan → exec (.fcmp p d a b) s = .next (s.result d (if y = .inf n then 2 else if n then 1 else 4)))
      ∧ (∀ n, y = .inf n → x ≠ .nan → exec (.fcmp p d a b) s = .next (s.result d (if x = .inf n then 2 else if n then 4 else 1))))
  ∧ (∀ (p : Prec) (s : State) (d a : Reg) (l : FpLayout) (e m : Nat) (neg : Bool), l = precLayout p → m = (s.reg a).toNat % 2 ^ l.mb → e = (s.reg a).toNat / 2 ^ l.mb % 2 ^ l.eb →
      neg = (s.reg a).getLsbD (l.mb + l.eb) →
      exec (.fclass p d a) s = .next (s.result d (BitVec.ofNat 64 (2 ^ (
        if e = 2 ^ l.eb - 1 then (if m = 0 then (if neg then 0 else 7) else if m < 2 ^ (l.mb - 1) then 8 else 9)
        else if e = 0 then (if m = 0 then (if neg then 3 else 4) else if neg then 2 else 5)
        else if neg then 1 else 6)))))
  ∧ (∀ (p : Prec) (s : State) (d a b : Reg) (k : Nat) (x y : Bool), k = (precLayout p).width - 1 → x = (s.reg a).getLsbD k → y = (s.reg b).getLsbD k →
      (fpVal p (s.reg a) = .nan → ∀ m, exec (.fsgn p m d a b) s = .next (s.result d (fpWord p .nan)))
      ∧ (fpVal p (s.reg a) ≠ .nan → ∀ (m : SgnMode) (sg : Bool), (m, sg) ∈ [(SgnMode.copy, y), (.invert, !y), (.xor, x != y)] →
          exec (.fsgn p m d a b) s = .next (s.result d (BitVec.ofNat 64 ((s.reg a).toNat % 2 ^ k + if sg then 2 ^ k else 0)))))
  ∧ (∀ (p : Prec) (s : State) (d a : Reg) (x : FVal), x = fpVal p (s.reg a) →
      (x = .nan → exec (.fcvtSint p d a) s = .next (s.result d 0) ∧ exec (.fcvtUint p d a) s = .next (s.result d 0))
      ∧ (∀ n, x = .inf n → exec (.fcvtSint p d a) s = .next (s.result d (if n then 0x8000000000000000 else 0x7FFFFFFFFFFFFFFF))
          ∧ exec (.fcvtUint p d a) s = .next (s.result d (if n then 0 else 0xFFFFFFFFFFFFFFFF)))
      ∧ (∀ n m e, ∀ k : Nat, ∀ i : Int, x = .num n m e → k = (if 0 ≤ e then m * 2 ^ e.toNat else m / 2 ^ (-e).toNat) → i = (if n then -(k : Int) else k) →
          exec (.fcvtSint p d a) s = .next (s.result d (BitVec.ofInt 64 (max (-2 ^ 63) (min (2 ^ 63 - 1) i))))
          ∧ exec (.fcvtUint p d a) s = .next (s.result d (BitVec.ofInt 64 (max 0 (min (2 ^ 64 - 1) i))))))

/-- At State.reset, from the host and the side-band: HEALTH is SECUREIV 3,600 and RISKIRQ 0xFF, TIMESKEW is BOUND 0xFFFF, APCTL, the mailboxes, the error log's indexes and every port register are 0; every queue has RSIZE 4, WEIGHT 1 and all else 0; every map entry reads 0; OUTCNT is 0; a new log has UWNEXT 1 and empty offsets; no strand runs, no access, engine operation or tile instruction is outstanding, no memory is listed. Values that no rule gives (general registers, the PC) are log 3's and not stated here. -/
def Obligations.ResetLeavesTheRegistersAsTheRulesSay : Prop :=
  (∀ i : Inst, State.reset.readReg i 0x20 = 3600 * 2 ^ 20 + 0xFF * 2 ^ 32 ∧ State.reset.readReg i 0x28 = 0xFFFF ∧ State.reset.readReg i 0x80 = 0
      ∧ State.reset.readReg i 0x40 = 0 ∧ State.reset.readReg i 0x48 = 0 ∧ State.reset.readReg i 0x50 = 0 ∧ State.reset.readReg i 0x58 = 0 ∧ State.reset.readReg i 0x60 = 0 ∧ State.reset.readReg i 0x68 = 0
      ∧ State.reset.readReg i 0x30000 = 0 ∧ State.reset.readReg i 0x30008 = 0 ∧ State.reset.readReg i 0x30010 = 0)
  ∧ (∀ (i : Inst) (q : Nat), q < 1024 → State.reset.readReg i (0x10000 + 0x40 * q) = 4 * 2 ^ 58 ∧ State.reset.readReg i (0x10000 + 0x40 * q + 0x08) = 1 * 2 ^ 4 ∧ State.reset.readReg i (0x10000 + 0x40 * q + 0x10) = 0
      ∧ State.reset.readReg i (0x10000 + 0x40 * q + 0x18) = 0 ∧ State.reset.readReg i (0x10000 + 0x40 * q + 0x20) = 0 ∧ State.reset.readReg i (0x10000 + 0x40 * q + 0x28) = 0 ∧ State.reset.readReg i (0x10000 + 0x40 * q + 0x30) = 0)
  ∧ (∀ (i : Inst) (p : Nat), p < 16 → State.reset.readReg i (0x20000 + 0x100 * p) = 0 ∧ State.reset.readReg i (0x20000 + 0x100 * p + 0x08) = 0 ∧ State.reset.readReg i (0x20000 + 0x100 * p + 0x10) = 0
      ∧ State.reset.readReg i (0x20000 + 0x100 * p + 0x18) = 0)
  ∧ (∀ v, entryWord (State.reset.mapNow v) State.reset.mapSeq = 0)
  ∧ State.reset.counts.word = 0 ∧ State.reset.cur.run = none ∧ State.reset.cores = [] ∧ State.reset.strands = [] ∧ State.reset.flight = [] ∧ State.reset.engines = [] ∧ State.reset.tiles = [] ∧ State.reset.ctxs = []
  ∧ State.reset.kernels = [] ∧ State.reset.mem.cells = [] ∧ State.reset.keys = [] ∧ State.reset.hostIf.up = false
  ∧ ({} : UndoLog).next = 1 ∧ ({} : UndoLog).head = 0 ∧ ({} : UndoLog).tail = 0

/-- NOP only goes on. PIN sets the strand's pin and QUIET clears its holding mark. IFENCE, once no store is outstanding, empties the cluster's instruction cache, leaves the caches of other clusters, and drops what the core has fetched. EXIT of a kernel's strand, once every count is zero, empties the core and the strand's entry and lowers the kernel's number of live strands by one; EXIT of a handler is TRET 1. With a store outstanding IFENCE waits, and with any count above zero EXIT waits, changing nothing else. -/
def Obligations.PlainHeads : Prop :=
  (∀ s : State, exec .nop s = .next s.advance
      ∧ exec .pin s = .next (s.setStr fun x => { x with pinned := true }).advance
      ∧ exec .quiet s = .next (s.setStr fun x => { x with holding := false }).advance)
  ∧ (∀ s : State, s.counts.stores = 0 → ∃ t, exec .ifence s = .next t ∧ t.cur.pc = s.nextPc ∧ t.cur.line = none ∧ t.cur.regs = s.cur.regs ∧ t.mem = s.mem
      ∧ (∀ e ∈ t.icache, e.1 ≠ s.pcn ∧ e ∈ s.icache) ∧ ∀ e ∈ s.icache, e.1 ≠ s.pcn → e ∈ t.icache)
  ∧ (∀ s : State, s.counts.stores ≠ 0 → exec .ifence s = .next (s.waiting .stall))
  ∧ (∀ (s : State) (sid k : Nat) (y : Kernel), s.cur.str.serves = none → s.counts.zero = true → s.cur.run = some sid → s.cur.str.kernel = some k →
      s.kernels.get? k = some y →
      ∃ t, exec .exit s = .next t ∧ t.cur.run = none ∧ t.strands.get? sid = none ∧ t.kernels.get? k = some { y with live := y.live - 1 } ∧ t.mem = s.mem
        ∧ ∀ j, j ≠ k → t.kernels.get? j = s.kernels.get? j)
  ∧ (∀ s : State, s.cur.str.serves = none → s.counts.zero = false → exec .exit s = .next (s.waiting .stall))
  ∧ (∀ s : State, s.handler = true → exec .exit s = exec .tretAbandon s)

/-- Once every count of the strand is zero and its vector queue is empty, YIELD, SUSPEND, IDLE and the release forms of YIELD and SUSPEND bring the strand to a suspension point, at which nothing but that is recorded; the release forms give its tile context slot back and empty the bypass, the others keep the slot. With a count above zero or a row operation in the queue each waits and changes nothing else. The suspension drain then leaves the core: the record in the pool holds the PC of the next head, the strand is suspending and waits for nothing that the device sees by itself, a yielded one is marked to become ready again, and after IDLE the core's clock stands. -/
def Obligations.SuspensionHeads : Prop :=
  (∀ (s : State) (i : Instr) (k : Susp) (rel : Bool),
      (i, k, rel) ∈ [(Instr.yield, Susp.yield, false), (.yieldRel, .yield, true), (.suspend, .suspend, false), (.suspendRel, .suspend, true), (.idle, .idle, false)] →
      (s.counts.zero = false ∨ s.cur.vq ≠ [] → exec i s = .next (s.waiting .stall))
      ∧ (s.counts.zero = true → s.cur.vq = [] → ∃ t, exec i s = .next t ∧ t.cur.susp = k ∧ t.cur.wait = .none ∧ t.cur.run = s.cur.run ∧ t.cur.pc = s.cur.pc
          ∧ t.cur.regs = s.cur.regs ∧ t.mem = s.mem ∧ t.strands = s.strands ∧ t.flight = s.flight
          ∧ (rel = false → t.cur.str = s.cur.str ∧ t.cur.bypass = s.cur.bypass)
          ∧ (rel = true → t.cur.str = { s.cur.str with slot := none } ∧ ∀ n, s.cur.str.slot = some n → t.cur.bypass = [] ∧ t.cur.slotOwner n = none)))
  ∧ (∀ (s : State) (sid : Nat), coreExists s.focus = true → s.cur.run = some sid → s.cur.susp ≠ .none → s.cur.susp ≠ .retry → s.cur.stop = none → s.cur.str.pending = [] →
      s.counts.zero = true → s.lanesIdle = true →
      ∃ t, exec (.suspensionDrain s.focus) s = .next t ∧ t.cur.run = none
        ∧ t.mem = s.mem.store none (s.recordAt s.cur.str) ((wordsBytes (s.recordImage s.nextPc false)).map some)
        ∧ ∃ x, t.strands.get? sid = some x ∧ x.st = .suspending ∧ x.yielded = (s.cur.susp == .yield) ∧ x.kernel = s.cur.str.kernel ∧ x.slot = s.cur.str.slot ∧ x.blockOn = .other
        ∧ (s.cur.susp = .idle → t.cur.idles = true))

/-- The head 0x1800 + n decodes to BRK n. BRK completes with no effect of its own: the strand then stands at the next head with the trap of cause BREAK (0x0B) and subcode n to be taken, whose FPC is the BRK's PC and whose record image holds the next head's PC with RETRY 0. No register, byte of memory, count, window or log entry changes. The trap is taken before a pending asynchronous trap: with any traps pending, the core's turn rests on it, and when it is taken its image and frame hold that PC. -/
def Obligations.BreakTrap : Prop :=
  (∀ (k : Bool) (n : BitVec 4), decode k (0x1800 + n.zeroExtend 16) 0 = .instr (.brk n))
  ∧ (∀ (s : State) (n : BitVec 4), ∃ t, exec (.brk n) s = .next t
      ∧ t.cur.stop = some { trap := { cause := 0x0B, sub := n.toNat, fpc := s.cur.pc }, resume := s.nextPc, retry := false }
      ∧ { t with cur := { t.cur with stop := s.cur.stop } } = s.advance
      ∧ (∀ sid, t.cur.run = some sid → t.turn = .rest t)
      ∧ (∀ p, t.cur.stop = some p → (t.stopImage p).words = t.recordImage s.nextPc false))

/-- The words of TRAP with any sA decode to it, and those with a non-zero D, B or C to RSVBIT; `trap s5` is head 0x5105, tail 0. TRAP completes: the strand stands at the next head with the trap of cause SOFT (0x0C), subcode sA[7:0] and ADDR sA to be taken, whose FPC is the TRAP's PC, whose resume PC is the next head and whose RETRY is 0. No register, byte of memory, count, window or log entry changes, and the trap is taken before a pending asynchronous one. -/
def Obligations.SoftTrap : Prop :=
  (∀ (k : Bool) (d a b c : BitVec 4) (w : BitVec 2), decode k (head 0x14 1 d a) (tailS b c w 0)
      = if d ≠ 0 ∨ b ≠ 0 ∨ c ≠ 0 then .illegal .rsvbit else if w ≠ 0 then .illegal .wait else .instr (.trap a))
  ∧ decode false 0x5105 0 = .instr (.trap 5)
  ∧ (∀ (s : State) (a : Reg), ∃ t, exec (.trap a) s = .next t
      ∧ t.cur.stop = some { trap := { cause := 0x0C, sub := ((s.reg a).extractLsb' 0 8).toNat, fpc := s.cur.pc, addr := s.reg a }, resume := s.nextPc, retry := false }
      ∧ { t with cur := { t.cur with stop := s.cur.stop } } = s.advance
      ∧ (∀ sid, t.cur.run = some sid → t.turn = .rest t))

/-- The words of WAITC (major 0x12, minor 0x02) decode to it. It writes OUTCNT and goes on when, for each of the seven fields, the bit of sB that removes it is set or the count is at or below the limit in the same place of sA; all other bits of both are ignored and a limit of 63 is met at once. Otherwise the strand stands at the WAITC, changing nothing but that it blocks there as a blocking instruction, so that no younger instruction issues; with s0 for all operands it waits until every count is zero. -/
def Obligations.WaitOnCounts : Prop :=
  (∀ (k : Bool) (d a b : BitVec 4), decode k (head 0x12 1 d a) (tailS b 0 0 2) = .instr (.waitc d a b))
  ∧ (∀ (s : State) (d a b : Reg) (met : Prop), (met ↔ ∀ k, k < 7 → (s.reg b).getLsbD k = true ∨ (s.counts.word.extractLsb' (8 * k) 6).toNat ≤ ((s.reg a).extractLsb' (8 * k) 6).toNat) →
      (met → exec (.waitc d a b) s = .next (s.answer d s.counts.word))
      ∧ (¬ met → ∃ t, exec (.waitc d a b) s = .next t ∧ (∃ p, t.cur.wait = .block p) ∧ t.cur.pc = s.cur.pc
          ∧ { t with cur := { t.cur with wait := s.cur.wait, str := { t.cur.str with blockOn := s.cur.str.blockOn } } } = s))
  ∧ (∀ (s : State) (d a b : Reg), (∀ k, k < 7 → ((s.reg a).extractLsb' (8 * k) 6).toNat = 63) → exec (.waitc d a b) s = .next (s.answer d s.counts.word))
  ∧ (∀ s : State, s.counts.word = 0 → exec (.waitc 0 0 0) s = .next (s.answer 0 0))

/-- fence.lk completes when every older load of the strand has been performed, every older write whose destination class lies within scope k has, and at L5 every older copy to the outside has at the far end; otherwise it holds the core. FENCEI writes a ticket of the issue mark and the run stamp and completes. With nothing of the strand on its way each completes at once. FENCEW completes for a ticket of another dispatch at once; for one of this dispatch exactly when every access of the strand that issued at or before its mark has been performed and, for a ticket of FENCEI L5, every such copy to the outside at the far end; otherwise the strand stands at it, blocked. LTRIG marks the strand triggered once every count is zero. All but FENCEI fix an open window. -/
def Obligations.FencesWaitForOlderAccesses : Prop :=
  (∀ (s : State) (sid : Nat) (a d : Reg) (l5 : Bool), s.cur.run = some sid → (∀ x ∈ s.flight, x.sid ≠ sid) → (∀ e ∈ s.engines, e.sid ≠ sid) →
      exec .fenceL1 s = .next s.fixWindow.advance ∧ exec .fenceL2 s = .next s.fixWindow.advance ∧ exec .fenceL3 s = .next s.fixWindow.advance
      ∧ exec .fenceL4 s = .next s.fixWindow.advance ∧ exec .fenceL5 s = .next s.fixWindow.advance ∧ exec (.fencew l5 a) s = .next s.fixWindow.advance
      ∧ ∃ t, exec (.fencei l5 d) s = .next t ∧ t.cur.pc = s.nextPc)
  ∧ (∀ (s : State) (sid : Nat) (a : Reg) (l5 : Bool) (m : BitVec 32) (met : Prop), s.cur.run = some sid → m = (s.reg a).extractLsb' 0 32 →
      (met ↔ (s.reg a).extractLsb' 32 16 ≠ s.cur.runStamp ∨ ((∀ x ∈ s.flight, x.sid = sid → (m - x.mark).toNat < 2 ^ 31 → x.stage.past = true)
        ∧ (m ∈ s.cur.l5Marks → ∀ e ∈ s.engines, e.sid = sid → (m - e.mark).toNat < 2 ^ 31 → e.far = true → e.farDone = true))) →
      (met → exec (.fencew l5 a) s = .next s.fixWindow.advance)
      ∧ (¬ met → exec (.fencew l5 a) s = .next ((s.fixWindow.setStr fun x => { x with blockOn := .counts }).waiting (.block (decide (a.toNat < 8))))))
  ∧ (∀ (s : State) (i : Instr) (k sid : Nat), (i, k) ∈ [(Instr.fenceL1, 1), (.fenceL2, 2), (.fenceL3, 3), (.fenceL4, 4), (.fenceL5, 5)] → s.cur.run = some sid →
      ((∀ a ∈ s.flight, a.sid = sid → a.stage.past = true ∨ (a.op.isLoad = false ∧ ∀ c ∈ a.cls, k < c.level))
        ∧ (k = 5 → ∀ e ∈ s.engines, e.sid = sid → e.far = true → e.farDone = true) → exec i s = .next s.fixWindow.advance)
      ∧ (¬ ((∀ a ∈ s.flight, a.sid = sid → a.stage.past = true ∨ (a.op.isLoad = false ∧ ∀ c ∈ a.cls, k < c.level))
        ∧ (k = 5 → ∀ e ∈ s.engines, e.sid = sid → e.far = true → e.farDone = true)) → exec i s = .next (s.fixWindow.waiting .stall)))
  ∧ (∀ (s : State) (d : Reg) (l5 : Bool), ∃ t, exec (.fencei l5 d) s = .next t ∧ t.cur.mark = s.cur.mark + 1 ∧ t.cur.pc = s.nextPc ∧ t.flight = s.flight ∧ t.mem = s.mem
      ∧ (d ≠ 0 → (t.reg d).extractLsb' 0 32 = s.cur.mark ∧ (t.reg d).extractLsb' 32 16 = s.cur.runStamp ∧ (t.reg d).extractLsb' 48 16 = 0)
      ∧ ∀ r, r ≠ d → t.reg r = s.reg r)
  ∧ (∀ (s : State) (a : Reg) (l5 : Bool), (s.reg a).extractLsb' 32 16 ≠ s.fixWindow.cur.runStamp → exec (.fencew l5 a) s = .next s.fixWindow.advance)
  ∧ (∀ (s : State) (a : Reg) (l5 : Bool) (sid : Nat), s.cur.run = some sid → (∀ x ∈ s.flight, x.sid = sid → x.stage.past = true) →
      (∀ e ∈ s.engines, e.sid = sid → e.far = true → e.farDone = true) → exec (.fencew l5 a) s = .next s.fixWindow.advance)
  ∧ (∀ s : State, s.counts.zero = true → exec .ltrig s = .next (s.fixWindow.setStr fun x => { x with triggered := true }).advance)

/-- With no store outstanding and room in the counts, WAKE and EVSIG of a virtual cluster that the strand reaches, SPAWN of a valid image in the own scratchpad, and QPUSH by a strand that holds the list send a message that names what they say, raise STORES, fix an open window and go on; SPAWN and QPUSH count as in flight for their kernel. QPOP of a list with items takes the oldest, marks the strand as holding and writes status 0; after quiescence it writes status 2. With a store outstanding the four senders wait. -/
def Obligations.MessagesToOtherClusters : Prop :=
  (∀ (s : State) (a b d : Reg), s.counts.stores ≠ 0 → exec (.wake a) s = .next (s.waiting .stall) ∧ exec (.evsig a) s = .next (s.waiting .stall)
      ∧ exec (.spawn d a b) s = .next (s.waiting .stall) ∧ exec (.qpush d a b) s = .next (s.waiting .stall))
  ∧ (∀ (s : State) (a : Reg) (k : Kernel) (v : Nat), s.counts.stores = 0 → v = (if a = 0 then s.vcn else bitsOf (s.reg a) 11 0) → s.reaches v = true →
      (s.entryAt s.pcn v).valid = true → s.full false [s.classTo v] = false →
      exec (.evsig a) s = .next (s.fixWindow.issue (.evsig v (bitsOf (s.reg a) 20 16)) [] [s.classTo v] .none).advance
      ∧ (s.actingKernel = some k → bitsOf (s.reg a) 29 16 < k.hdr.poolcap →
          exec (.wake a) s = .next (s.fixWindow.issue (.wake v (bitsOf (s.reg a) 29 16)) [] [s.classTo v] .none).advance))
  ∧ (∀ (s : State) (op : AccOp) (l : List Machine.Class) (d : Dest), (s.issue op [] l d).flight = s.flight ++ [s.newAccess op [] l d []] ∧ (s.issue op [] l d).mem = s.mem
      ∧ (s.issue op [] l d).cur.regs = s.cur.regs ∧ (s.issue op [] l d).counts = s.counts.issue op.isLoad l)
  ∧ (∀ (s : State) (d a b : Reg) (k : Kernel) (v : Nat), s.counts.stores = 0 → v = (if a = 0 then s.vcn else bitsOf (s.reg a) 11 0) → s.kernelHere = some k →
      k.hdr.wlcap ≠ 0 → k.hdr.vcbase ≤ v → v < k.hdr.vcbase + k.hdr.vccount → (s.entryAt s.pcn v).valid = true → s.cur.str.holding = true →
      s.full false [s.classTo v] = false →
      exec (.qpush d a b) s = .next ((s.addInflight s.cur.str.kernel).fixWindow.issue (.qpush v (bitsOf (s.reg a) 19 16) (s.reg b)) [] [s.classTo v] (.status d)).advance)
  ∧ (∀ (s : State) (d a b : Reg) (k : Kernel) (ad v p off t : Nat) (bs : List Byte), s.counts.stores = 0 → (s.reg a).toNat = ad → ad < 2 ^ 56 → ad % 64 = 0 →
      s.xlate s.agent s.asid s.vcn s.pos .rd ad = .ok (.core v p off true) → off < 0xC000 → s.claims = [] →
      s.readSegs [{ va := BitVec.ofNat 56 ad, loc := .core v p off true, n := 64 }] = .ok bs → t = (if b = 0 then s.vcn else bitsOf (s.reg b) 11 0) →
      s.kernelHere = some k → k.hdr.vcbase ≤ t → t < k.hdr.vcbase + k.hdr.vccount → (dwordOf bs 0).getLsbD 0 = false → (dwordOf bs 0).getLsbD 56 = false →
      (dwordOf bs 0).getLsbD 61 = false → (dwordOf bs 0).getLsbD 63 = false → (s.entryAt s.pcn t).valid = true → s.full false [s.classTo t] = false →
      exec (.spawn d a b) s = .next ((s.addInflight s.cur.str.kernel).fixWindow.issue (.spawn t (bytesWords 8 bs) s.cur.str.triggered) [] [s.classTo t] (.status d)).advance)
  ∧ (∀ (s : State) (d a b : Reg) (kid : Nat) (k : Kernel) (w : WorkList), s.cur.str.kernel = some kid → s.kernelHere = some k → k.hdr.wlcap ≠ 0 → k.told.contains s.vcn = false →
      w = k.list s.vcn (bitsOf (s.reg a) 3 0) → 0 < w.count → readErr s.mem s.lostDies none 8 (s.itemAddr k s.vcn (bitsOf (s.reg a) 3 0) w.head) 8 = none →
      ∃ t, exec (.qpop d a b) s = .next t ∧ t.cur.str.holding = true ∧ t.cur.pc = s.nextPc ∧ t.mem = s.mem ∧ (d ≠ 0 → t.reg d = 0)
        ∧ (b ≠ 0 → b ≠ d → t.reg b = BitVec.ofNat 64 (leNat (s.mem.read (s.itemAddr k s.vcn (bitsOf (s.reg a) 3 0) w.head) 8)))
        ∧ (∀ r, r ≠ d → r ≠ b → t.reg r = s.reg r)
        ∧ ∃ k', t.kernels.get? kid = some k' ∧ k'.list s.vcn (bitsOf (s.reg a) 3 0) = { head := (w.head + 1) % k.hdr.wlcap, count := w.count - 1 })
  ∧ (∀ (s : State) (d a b : Reg) (kid : Nat) (k : Kernel), s.cur.str.kernel = some kid → s.kernelHere = some k → k.hdr.wlcap ≠ 0 → k.told.contains s.vcn = true →
      exec (.qpop d a b) s = .next ((s.fixWindow.setStr fun x => { x with holding := false }).answer d 2))

/-- `uwnum sD` decodes from its words, those with a non-zero A, B or C to RSVBIT. It completes whatever is outstanding, writing the window number to sD[31:0], the state code (NONE 0, OPEN 1, FIXED 2, SEALED 3, TRUNCATED 4) to sD[34:32] and zero above, the number being 0 in state NONE; it changes nothing else, so it logs nothing. EXIT closes the window: the entry that held it is free. -/
def Obligations.WindowNumber : Prop :=
  (∀ (k : Bool) (d a b c : BitVec 4) (w : BitVec 2), decode k (head 0x14 1 d a) (tailS b c w 6)
      = if a ≠ 0 ∨ b ≠ 0 ∨ c ≠ 0 then .illegal .rsvbit else if w ≠ 0 then .illegal .wait else .instr (.uwnum d))
  ∧ decode false 0x5130 6 = .instr (.uwnum 3)
  ∧ (∀ (s : State) (d : Reg) (st : WinState) (code : Nat), (st, code) ∈ [(WinState.opened, 1), (.fixed, 2), (.sealed, 3), (.truncated, 4)] → s.cur.str.window.st = st →
      ∃ v : Word, exec (.uwnum d) s = .next (s.answer d v) ∧ v.extractLsb' 0 32 = BitVec.ofNat 32 s.cur.str.window.num ∧ (v.extractLsb' 32 32).toNat = code)
  ∧ (∀ (s : State) (d : Reg), s.cur.str.window.st = .none → exec (.uwnum d) s = .next (s.answer d 0))
  ∧ (∀ (s : State) (sid : Nat), s.cur.str.serves = none → s.counts.zero = true → s.cur.run = some sid →
      ∃ t, exec .exit s = .next t ∧ t.cur.run = none ∧ t.strands.get? sid = none)

/-- UWOPEN waits for the counts, then refuses a strand with live tile registers and a destination of s8 or above. In MODE 0 it opens a window that is FIXED at once; in MODE 1 and 2, where the ring takes the MARK, one that is OPEN with its standing reservation. Either way the number is the context's next, it is written to sD, s8 to s15 are zero, s1 to s7 keep their values, and the next number follows, 1 after 0xFFFFFFFF. UWSEAL and TREC in MODE 0, and in MODE 1 and 2 where the ring takes the SEAL, leave the strand without a window and go on, and TREC's record with both registers is in its chiplet's trace buffer afterwards. -/
def Obligations.UndoWindows : Prop :=
  (∀ (s : State) (d : Reg), s.counts.zero = false → exec (.uwopen d) s = .next (s.waiting .stall))
  ∧ (∀ (s : State) (d : Reg), s.counts.zero = true → s.cur.str.slot ≠ none → exec (.uwopen d) s = .next (s.raise 0x09 0x01))
  ∧ (∀ (s : State) (d : Reg), s.counts.zero = true → s.cur.str.slot = none → 8 ≤ d.toNat → exec (.uwopen d) s = .next (s.raise 0x09 0x02))
  ∧ (∀ (s : State) (d : Reg) (sid : Nat) (c : Ctx), s.counts.zero = true → s.cur.str.slot = none → d.toNat < 8 → s.cur.run = some sid → s.ctx? s.asid = some c → c.log.mode = 0 →
      ∃ t, exec (.uwopen d) s = .next t ∧ t.cur.str.window = { num := c.log.next.toNat, st := .fixed, stamp := s.timeHere } ∧ t.cur.pc = s.nextPc ∧ t.mem = s.mem
        ∧ (d ≠ 0 → t.reg d = c.log.next.zeroExtend 64) ∧ (∀ r : Reg, r.toNat < 8 → r ≠ d → t.reg r = s.reg r) ∧ (∀ r : Reg, 8 ≤ r.toNat → t.reg r = 0)
        ∧ ∃ c', t.ctx? s.asid = some c' ∧ c'.log.next = if c.log.next = 0xFFFFFFFF then 1 else c.log.next + 1)
  ∧ (∀ (s s1 : State) (d : Reg) (sid : Nat) (c : Ctx), s.counts.zero = true → s.cur.str.slot = none → d.toNat < 8 → s.cur.run = some sid →
      s.ctx? s.asid = some c → c.log.mode ≠ 0 → s.reserve s.asid [(s.chipHere, 128)] = some s1 →
      (∀ x : List Byte, x.length = 80 → ∃ u, s1.append s.asid s.chipHere .mark (s.vcn % 2 ^ 12 + s.cur.str.recIdx * 2 ^ 12) c.log.next.toNat s.timeHere x = .ok u) →
      ∃ t, exec (.uwopen d) s = .next t ∧ t.cur.pc = s.nextPc ∧ t.cur.str.window.st = .opened ∧ t.cur.str.window.num = c.log.next.toNat
        ∧ t.cur.str.window.rsv = some s.chipHere ∧ t.cur.str.window.stamp = s.timeHere ∧ t.cur.str.window.mark ≠ none
        ∧ (d ≠ 0 → t.reg d = c.log.next.zeroExtend 64) ∧ (∀ r : Reg, r.toNat < 8 → r ≠ d → t.reg r = s.reg r) ∧ (∀ r : Reg, 8 ≤ r.toNat → t.reg r = 0))
  ∧ (∀ s : State, s.counts.zero = true → (∀ s1, s.sealWindow none = .done s1 → exec .uwseal s = .next s1.advance)
      ∧ (s.sealWindow none = .full → exec .uwseal s = .next (s.raise 0x09 0x03)) ∧ ∀ s1 x, s.sealWindow none = .refused s1 x → exec .uwseal s = .next (s1.pend x).advance)
  ∧ (∀ (s : State) (b : Bool × Nat) (sid : Nat), (s.log s.asid).mode = 0 → s.cur.run = some sid → s.cur.str.window.st ≠ .none → s.cur.str.window.st ≠ .sealed →
      ∃ s1, s.sealWindow (some b) = .done s1 ∧ s1.cur.str.window.st = .sealed ∧ s1.cur.str.window.sealer = some b ∧ s1.cur.str.window.num = s.cur.str.window.num ∧ s1.cur.pc = s.cur.pc
      ∧ (s1.unseal sid b).cur.str.window = {} ∧ ∀ b', b' ≠ b → (s1.unseal sid b').cur.str.window = s1.cur.str.window)
  ∧ (∀ (s : State) (sid : Nat), s.counts.zero = true → s.cur.run = some sid → (s.log s.asid).mode = 0 →
      ∃ t, exec .uwseal s = .next t ∧ t.cur.str.window = {} ∧ t.cur.pc = s.nextPc ∧ t.cur.regs = s.cur.regs ∧ t.mem = s.mem)
  ∧ (∀ (s s1 s2 : State) (sid off : Nat) (a b : Reg), s.cur.run = some sid → (s.log s.asid).mode ≠ 0 → s.reserve s.asid [(s.chipHere, 32)] = some s1 →
      s1.append s.asid s.chipHere .seal 0 s.cur.str.window.num s.cur.str.window.stamp (toLe 8 s.timeHere) = .ok (s2, off) →
      (s.counts.zero = true → ∃ t, exec .uwseal s = .next t ∧ t.cur.str.window = {} ∧ t.cur.pc = s.nextPc ∧ t.cur.regs = s.cur.regs ∧ t.mem = s2.mem)
      ∧ ∃ t, exec (.trec a b) s = .next t ∧ t.cur.str.window = {} ∧ t.cur.pc = s.nextPc ∧ t.cur.regs = s.cur.regs)
  ∧ (∀ (s : State) (a b : Reg) (sid : Nat), s.cur.run = some sid → (s.log s.asid).mode = 0 → s.cur.str.kernel = none → s.cur.str.serves = none →
      ∃ t, exec (.trec a b) s = .next t ∧ t.cur.str.window = {} ∧ t.cur.pc = s.nextPc ∧ t.cur.regs = s.cur.regs ∧ t.mem = s.mem)
  ∧ (∀ (s : State) (a b : Reg) (sid q : Nat) (r : TraceSession), s.cur.run = some sid → (s.log s.asid).mode = 0 → s.queueOf s.cur.str = some q → (s.queue q).trace = some r →
      (r.buffers.getD s.chipHere []).length < 64 →
      ∃ t r', exec (.trec a b) s = .next t ∧ t.cur.str.window = {} ∧ t.cur.pc = s.nextPc ∧ t.cur.regs = s.cur.regs ∧ (t.queue q).trace = some r'
        ∧ traceRecord 0x03 s.cur.str.vcn s.cur.str.recIdx s.timeHere (s.reg a).toNat (s.reg b).toNat ∈ r'.buffers.getD s.chipHere []
        ∧ ∀ x ∈ r.buffers.getD s.chipHere [], x ∈ r'.buffers.getD s.chipHere [])

/-- CSRR of a register reads it; an unknown number is ACCESS TARGET at the number. CSRW of a performance counter's configuration, count or overflow bits writes the virtual cluster's own at once, after the events that have happened before have been counted (log 67), and an unlisted event code leaves EVENT; of an undo CSR it changes the context's log and stands until the log writers have it, and a write of LOGTAIL or UWNEXT changes neither; UNDOCTL keeps MODE for a reserved 3 and LOGSZ for a value outside 16 to 40; a new LOGSZ or LOGBASE empties the ring; LOGHEAD takes a multiple of 4,096 from the head to the tail along the ring and frees what lies before it, and ignores any other value. While logged writes wait for their entries a write that moves or resizes the ring waits (log 170). ASGEN raises the context's generation when no other is in progress and stands until it is over. MAPRD of a VCN of the strand's context gives the entry in its own router's map. -/
def Obligations.SystemRegisters : Prop :=
  (∀ (s : State) (d a b : Reg), csrOf (bitsOf (s.reg a) 15 0) = none →
      exec (.csrr d a) s = .next (s.raise 0x03 0x02 (BitVec.ofNat 64 (bitsOf (s.reg a) 15 0)))
      ∧ exec (.csrw a b) s = .next (s.raise 0x03 0x02 (BitVec.ofNat 64 (bitsOf (s.reg a) 15 0))))
  ∧ (∀ (s : State) (d a : Reg) (c : Csr), csrOf (bitsOf (s.reg a) 15 0) = some c → s.handler = true → exec (.csrr d a) s = .next (s.answer d (s.csrValue c)))
  ∧ (∀ (s : State) (a b : Reg) (i : Nat), csrOf (bitsOf (s.reg a) 15 0) = some (.pmcnt i) →
      ∃ t, exec (.csrw a b) s = .next t ∧ t.cur.pc = s.nextPc ∧ t.cur.regs = s.cur.regs ∧ t.mem = s.mem
        ∧ ((t.vc s.vcn).pmc.getD i {}).cnt = (s.reg b).extractLsb' 0 48 ∧ (∀ j, j ≠ i → (t.vc s.vcn).pmc.getD j {} = ((s.countDue s.vcn).vc s.vcn).pmc.getD j {})
        ∧ ∀ k ∈ steppedCodes, t.due s.vcn k = if k = 0x02 then 1 else 0)
  ∧ (∀ (s : State) (a b : Reg), csrOf (bitsOf (s.reg a) 15 0) = some .pmovf →
      ∃ t, exec (.csrw a b) s = .next t ∧ t.cur.pc = s.nextPc ∧ (t.vc s.vcn).pmOvf = ((s.countDue s.vcn).vc s.vcn).pmOvf &&& ~~~(s.reg b).extractLsb' 0 8)
  ∧ (∀ (s : State) (a b : Reg) (i : Nat), csrOf (bitsOf (s.reg a) 15 0) = some (.pmcfg i) →
      ∃ t, exec (.csrw a b) s = .next t ∧ t.cur.pc = s.nextPc ∧ t.cur.regs = s.cur.regs ∧ t.mem = s.mem ∧ (∀ j, j ≠ i → t.csrValue (.pmcfg j) = s.csrValue (.pmcfg j))
        ∧ (t.csrValue (.pmcfg i)).extractLsb' 8 56 = ((s.reg b).extractLsb' 8 7).zeroExtend 56
        ∧ (t.csrValue (.pmcfg i)).extractLsb' 0 8 = if 1 ≤ bitsOf (s.reg b) 7 0 ∧ bitsOf (s.reg b) 7 0 ≤ 0x0C then (s.reg b).extractLsb' 0 8 else (s.csrValue (.pmcfg i)).extractLsb' 0 8)
  ∧ (∀ (s : State) (a b : Reg) (c : Csr), csrOf (bitsOf (s.reg a) 15 0) = some c → (s.log s.asid).ringChanges c (s.reg b) = true → s.entriesDue s.asid = true →
      exec (.csrw a b) s = .next (s.waiting .stall))
  ∧ (∀ (s : State) (a b : Reg) (c : Ctx), csrOf (bitsOf (s.reg a) 15 0) = some .logbase → s.ctx? s.asid = some c → s.entriesDue s.asid = false ∨ (s.reg b).extractLsb' 0 56 = c.log.base →
      ∃ t c', exec (.csrw a b) s = .next t ∧ t.cur.gate = .unit ∧ t.cur.pc = s.cur.pc ∧ t.cur.regs = s.cur.regs ∧ t.mem = s.mem ∧ t.ctx? s.asid = some c'
        ∧ c'.csrws = c.csrws ++ [s.cur.run.getD 0] ∧ c'.log.base = (s.reg b).extractLsb' 0 56
        ∧ ((s.reg b).extractLsb' 0 56 = c.log.base → c'.log = c.log) ∧ ((s.reg b).extractLsb' 0 56 ≠ c.log.base → c'.log.head = 0 ∧ c'.log.tail = 0 ∧ c'.log.used = 0))
  ∧ (∀ (s : State) (a b : Reg) (c : Ctx) (v : Nat), csrOf (bitsOf (s.reg a) 15 0) = some .loghead → s.ctx? s.asid = some c → v = bitsOf (s.reg b) 39 0 →
      ∃ t c', exec (.csrw a b) s = .next t ∧ t.cur.gate = .unit ∧ t.cur.pc = s.cur.pc ∧ t.cur.regs = s.cur.regs ∧ t.mem = s.mem ∧ t.ctx? s.asid = some c' ∧ c'.csrws = c.csrws ++ [s.cur.run.getD 0]
        ∧ c'.log.tail = c.log.tail
        ∧ (v % 4096 = 0 → v < c.log.size → v = c.log.tail → c.log.used % 4096 = 0 → c'.log.used = 0)
        ∧ (v % 4096 = 0 → v < c.log.size → v ≠ c.log.tail → (v + c.log.size - c.log.head) % c.log.size ≤ c.log.used →
            c.log.head < c.log.size → c.log.size % 4096 = 0 → c.log.head % 4096 = 0 → c.log.used ≤ c.log.size → c'.log.head = v ∧ c'.log.used = c.log.used - (v + c.log.size - c.log.head) % c.log.size)
        ∧ ((v % 4096 ≠ 0 ∨ c.log.size ≤ v ∨ (v ≠ c.log.tail ∧ c.log.used < (v + c.log.size - c.log.head) % c.log.size)) → c'.log = c.log))
  ∧ (∀ (s : State) (a b : Reg) (c : Ctx), csrOf (bitsOf (s.reg a) 15 0) = some .undoctl → s.ctx? s.asid = some c →
      (s.entriesDue s.asid = false ∨ ¬ (16 ≤ bitsOf (s.reg b) 13 8 ∧ bitsOf (s.reg b) 13 8 ≤ 40) ∨ bitsOf (s.reg b) 13 8 = c.log.logsz) →
      ∃ t, exec (.csrw a b) s = .next t ∧ t.cur.gate = .unit ∧ t.cur.pc = s.cur.pc ∧ t.cur.regs = s.cur.regs ∧ t.mem = s.mem
        ∧ (∃ c', t.ctx? s.asid = some c' ∧ c'.csrws = c.csrws ++ [s.cur.run.getD 0]
          ∧ c'.log.mode = (if bitsOf (s.reg b) 1 0 = 3 then c.log.mode else bitsOf (s.reg b) 1 0) ∧ c'.log.recycle = (s.reg b).getLsbD 2
          ∧ c'.log.logsz = if 16 ≤ bitsOf (s.reg b) 13 8 ∧ bitsOf (s.reg b) 13 8 ≤ 40 then bitsOf (s.reg b) 13 8 else c.log.logsz))
  ∧ (∀ (s : State) (a b : Reg) (c : Ctx) (r : Csr), r = .logtail ∨ r = .uwnext → csrOf (bitsOf (s.reg a) 15 0) = some r → s.ctx? s.asid = some c →
      ∃ t, exec (.csrw a b) s = .next t ∧ t.cur.gate = .unit ∧ t.ctx? s.asid = some { c with csrws := c.csrws ++ [s.cur.run.getD 0] })
  ∧ (∀ (s : State) (d : Reg) (c : Ctx) (sid : Nat), s.cur.run = some sid → s.ctx? s.asid = some c →
      ∃ t c', exec (.asgen d) s = .next t ∧ t.ctx? s.asid = some c' ∧ c'.asgens = c.asgens ++ [.strand sid d] ∧ t.cur.gate = .unit ∧ t.cur.pc = s.cur.pc
        ∧ c'.gen = (if c.asgens = [] then c.gen + 1 else c.gen) ∧ t.cur.regs = s.cur.regs ∧ t.mem = s.mem)
  ∧ (∀ (s : State) (d a : Reg) (c : Ctx), s.ctx? s.asid = some c → c.hasVcn (bitsOf (s.reg a) 11 0) = true →
      exec (.maprd d a) s = .next (s.answer d (entryWord (s.entryAt s.pcn (bitsOf (s.reg a) 11 0)) (s.seqAt s.pcn))))
  ∧ (∀ (s : State) (d a : Reg) (c : Ctx), s.ctx? s.asid = some c → c.hasVcn (bitsOf (s.reg a) 11 0) = false →
      exec (.maprd d a) s = .next (s.answer d (BitVec.ofNat 64 ((s.seqAt s.pcn).toNat * 2 ^ 32))))

/-- For LD, LDP, ST, STP and the twelve atomics: an effective address outside the space is ACCESS RANGE; a busy wait class then holds the instruction; an address that is no multiple of the access size is ACCESS MISALIGN; a failed translation is its XLATE trap; a target that refuses the access is its ACCESS trap; an access of the wrong size to an event unit or a mapped register is ACCESS MISALIGN. Each is taken at the instruction's own PC, with every register, byte of memory, count and access as before. The value of ADDR for an address outside the space is the model's reading (log 14) and is not stated. -/
def Obligations.AccessChecks : Prop :=
  ∀ (s : State) (w : BitVec 2) (mw : MemWidth) (n : AWidth) (d a b : Reg) (imm : BitVec 16) (i : Instr) (m : Nat) (k : AKind) (need : Need) (ad : Nat),
    (i, m, k, need) ∈ [(Instr.ld w mw d a imm, memBytes mw, AKind.load, Need.rd), (.ldp w d a b imm, 16, .load, .rd), (.st w mw d a imm, memBytes mw, .store, .wr), (.stp w d a b imm, 16, .store, .wr)]
      ++ ([(Instr.aadd w n d a b imm, AtomOp.add, n), (.amin w n d a b imm, .min, n), (.amax w n d a b imm, .max, n), (.aminu w n d a b imm, .minu, n),
        (.amaxu w n d a b imm, .maxu, n), (.aand w n d a b imm, .and, n), (.aor w n d a b imm, .or, n), (.axor w n d a b imm, .xor, n), (.aswp w n d a b imm, .swp, n),
        (.acas w n d a b imm, .cas, n), (.afaddF32 w d a b imm, .fadd32, .w32), (.afaddF64 w d a b imm, .fadd64, .w64)].map fun x => (x.1, aBytes x.2.2, AKind.atomic, Need.at)) →
    (((s.reg a).toNat + imm.toInt < 0 ∨ 2 ^ 56 ≤ (s.reg a).toNat + imm.toInt) → ∃ v, exec i s = .next (s.raise 0x03 0x05 v))
    ∧ (((s.reg a).toNat + imm.toInt = ad ∧ ad < 2 ^ 56) →
        (s.classBusy w = true → exec i s = .next (s.waiting .stall))
        ∧ (s.classBusy w = false →
            (ad % m ≠ 0 → exec i s = .next (s.raise 0x03 0x01 (BitVec.ofNat 64 ad)))
            ∧ (ad % m = 0 →
                (∀ f, s.xlate s.agent s.asid s.vcn s.pos need ad = .error f → exec i s = .next (s.raise f.cause f.sub f.addr))
                ∧ (∀ l, s.xlate s.agent s.asid s.vcn s.pos need ad = .ok l →
                    (∀ c, s.refuses s.pcn s.holdsSlot k m l = some c → exec i s = .next (s.raise 0x03 c (BitVec.ofNat 64 ad)))
                    ∧ (s.refuses s.pcn s.holdsSlot k m l = none → sizeRefuses m l = true → exec i s = .next (s.raise 0x03 0x01 (BitVec.ofNat 64 ad)))))))

/-- A translation fails only with cause XLATE and the failing address, and its subcode is NOMAP, PERM, PTERSV or WALKERR. An address of a context that does not exist is NOMAP (the model's reading: it has no table). With empty caches the walk starts at PTROOT and reads one entry at each level from 4 to 0: an entry that cannot be read is WALKERR; with V 0, at any level, NOMAP; a leaf at level 4 or 3, none at level 0, or one that breaks the layout, a page size or a locator limit, PTERSV; a non-leaf with another bit set, or a NEXT that is misaligned or beyond the memory, PTERSV; any other non-leaf sends the walk to its NEXT, and any other leaf gives its page. A page without the permission that the access needs is PERM; with it, the place is the one that the page's target type names. -/
def Obligations.AddressErrorsOfTranslation : Prop :=
  (∀ (s : State) (who : Agent) (asid v pos : Nat) (need : Need) (va : Nat) (f : Fail), s.xlate who asid v pos need va = .error f →
      f.cause = 0x04 ∧ f.addr = BitVec.ofNat 64 va ∧ (f.sub = 0x01 ∨ f.sub = 0x02 ∨ f.sub = 0x03 ∨ f.sub = 0x04))
  ∧ (∀ (s : State) (who : Agent) (asid v pos : Nat) (need : Need) (va : Nat) (c : Ctx) (x : Word), s.ctx? asid = some c → s.tlb = [] → s.walks = [] →
      s.tableWord (c.ptroot + 8 * (va / 2 ^ 48 % 256)) = some x → x.getLsbD 0 = false →
      s.xlate who asid v pos need va = .error { cause := 0x04, sub := 0x01, addr := BitVec.ofNat 64 va })
  ∧ (∀ (s : State) (who : Agent) (asid v pos : Nat) (need : Need) (va : Nat) (c : Ctx), s.ctx? asid = some c → s.tlb = [] → s.walks = [] →
      s.tableWord (c.ptroot + 8 * (va / 2 ^ 48 % 256)) = none →
      s.xlate who asid v pos need va = .error { cause := 0x04, sub := 0x04, addr := BitVec.ofNat 64 va })
  ∧ (∀ (s : State) (who : Agent) (asid v pos : Nat) (need : Need) (va : Nat), s.ctx? asid = none →
      s.xlate who asid v pos need va = .error { cause := 0x04, sub := 0x01, addr := BitVec.ofNat 64 va })
  ∧ (∀ (s : State) (who : Agent) (asid v pos : Nat) (need : Need) (va k : Nat) (c : Ctx), s.ctx? asid = some c → s.tlb = [] → s.walks = [] →
      s.walkFrom c va 4 c.ptroot = .error k → s.xlate who asid v pos need va = .error { cause := 0x04, sub := k, addr := BitVec.ofNat 64 va })
  ∧ (∀ (s : State) (c : Ctx) (va k sh n t next : Nat) (w : Word), (k, sh, n) ∈ [(4, 48, 256), (3, 39, 512), (2, 30, 512), (1, 21, 512), (0, 16, 32)] →
      (s.tableWord (t + 8 * (va / 2 ^ sh % n)) = none → s.walkFrom c va k t = .error 0x04)
      ∧ (s.tableWord (t + 8 * (va / 2 ^ sh % n)) = some w → next = bitsOf w 40 8 * 2 ^ 8 →
          (w.getLsbD 0 = false → s.walkFrom c va k t = .error 0x01)
          ∧ (w.getLsbD 0 = true → w.getLsbD 1 = true →
              s.walkFrom c va k t = if 3 ≤ k ∨ leafOk c w (2 ^ sh) = false then .error 0x03 else .ok { base := va / 2 ^ sh * 2 ^ sh, size := 2 ^ sh, leaf := w })
          ∧ (w.getLsbD 0 = true → w.getLsbD 1 = false →
              s.walkFrom c va k t = if k = 0 ∨ bitsOf w 7 2 ≠ 0 ∨ bitsOf w 63 41 ≠ 0 ∨ next % (if k = 1 then 256 else 4096) ≠ 0 ∨ 0x18000000000 ≤ next then .error 0x03
                else s.walkFrom c va (k - 1) next)))
  ∧ (∀ (c : Ctx) (w : Word) (size tt loc : Nat), tt = bitsOf w 11 8 → loc = bitsOf w 55 16 →
      (bitsOf w 7 6 ≠ 0 ∨ bitsOf w 15 12 ≠ 0 ∨ (tt ≠ 8 ∧ bitsOf w 63 56 ≠ 0) ∨ tt ∈ [6, 7, 11, 12, 13, 14, 15]
        ∨ (tt ∈ [0, 5] ∧ loc ≠ 0) ∨ (tt = 1 ∧ 2 ^ 15 ≤ loc) ∨ (tt = 2 ∧ 2 ^ 16 ≤ loc) ∨ (tt = 3 ∧ (2 ^ 14 ≤ loc ∨ 48 ≤ loc % 64)) ∨ (tt = 4 ∧ 2 ^ 12 ≤ loc)
        ∨ (tt ∈ [1, 2, 4] ∧ c.hasVcn (loc % 4096) = false) ∨ (tt = 3 ∧ loc / 64 % (size / 2 ^ 16) ≠ 0) ∨ (tt ∈ [8, 9] ∧ loc % (size / 2 ^ 16) ≠ 0)
        ∨ (tt = 10 ∧ loc / 256 % (size / 2 ^ 16) ≠ 0) ∨ (tt = 8 ∧ 0x18000000000 ≤ loc * 2 ^ 16)
        ∨ (size = 2 ^ 21 ∧ tt ∉ [3, 8, 9, 10]) ∨ (size = 2 ^ 30 ∧ tt ∉ [8, 10])) → leafOk c w size = false)
  ∧ (∀ (s : State) (who : Agent) (asid v pos : Nat) (need : Need) (va : Nat) (c : Ctx) (p : Page), s.ctx? asid = some c → s.page who asid c va = .ok p →
      s.xlate who asid v pos need va = if permits p.leaf need then .ok (placeOf p va v pos) else .error { cause := 0x04, sub := 0x02, addr := BitVec.ofNat 64 va })

/-- A load that passes its checks, from an ordinary place and with fewer than 63 loads outstanding, is sent with its bytes and its destination, LOADS rises by one, and the strand goes on with every register as before; at 63 every load waits. From the strand's own tile slot the bytes reach the register at once, sign- or zero-extended by the width; from the mapped window the register does. A LINE, BARARR or MUTEX load stands at the load until its result, a latched grant completes it, and a kept place is taken up without arriving again; any other event register is loaded without waiting. -/
def Obligations.LoadsIssue : Prop :=
  (∀ (s : State) (w : BitVec 2) (n : MemWidth) (d a b : Reg) (imm : BitVec 16) (i : Instr) (m ad : Nat) (dest : Dest) (l : Loc),
      (i, m, dest) ∈ [(Instr.ld w n d a imm, memBytes n, Dest.scalar d n), (.ldp w d a b imm, 16, .pair d b)] →
      Reached s w .load .rd (s.reg a) imm.toInt m ad l → Ordinary l m →
      (s.counts.loads < 63 → ∃ t, exec i s = .next t ∧ Sent s t .load [{ va := BitVec.ofNat 56 ad, loc := l, n := m }] dest ∧ t.cur.pc = s.nextPc ∧ t.cur.gate = s.cur.gate)
      ∧ (63 ≤ s.counts.loads → exec i s = .next (s.waiting .stall)))
  ∧ (∀ (s : State) (w : BitVec 2) (n : MemWidth) (d a : Reg) (imm : BitVec 16) (ad v p off : Nat) (bs : List Byte),
      Reached s w .load .rd (s.reg a) imm.toInt (memBytes n) ad (.core v p off true) → (Loc.core v p off true).inSlots (memBytes n) = true →
      s.slotBusy [{ va := BitVec.ofNat 56 ad, loc := .core v p off true, n := memBytes n }] = false → s.counts.loads < 63 →
      s.readSegs [{ va := BitVec.ofNat 56 ad, loc := .core v p off true, n := memBytes n }] = .ok bs →
      exec (.ld w n d a imm) s = .next (s.answer d (match n with
        | .d64 => BitVec.ofNat 64 (leNat bs) | .i32 => (BitVec.ofNat 32 (leNat bs)).signExtend 64 | .n32 => (BitVec.ofNat 32 (leNat bs)).zeroExtend 64
        | .i16 => (BitVec.ofNat 16 (leNat bs)).signExtend 64 | .n16 => (BitVec.ofNat 16 (leNat bs)).zeroExtend 64
        | .i8 => (BitVec.ofNat 8 (leNat bs)).signExtend 64 | .n8 => (BitVec.ofNat 8 (leNat bs)).zeroExtend 64)))
  ∧ (∀ (s : State) (w : BitVec 2) (d a b : Reg) (imm : BitVec 16) (ad v p off : Nat) (bs : List Byte),
      Reached s w .load .rd (s.reg a) imm.toInt 16 ad (.core v p off true) → (Loc.core v p off true).inSlots 16 = true →
      s.slotBusy [{ va := BitVec.ofNat 56 ad, loc := .core v p off true, n := 16 }] = false → s.counts.loads < 63 →
      s.readSegs [{ va := BitVec.ofNat 56 ad, loc := .core v p off true, n := 16 }] = .ok bs →
      exec (.ldp w d a b imm) s = .next ((s.setReg d (BitVec.ofNat 64 (leNat (bs.take 8)))).answer b (BitVec.ofNat 64 (leNat ((bs.drop 8).take 8)))))
  ∧ (∀ (s : State) (w : BitVec 2) (d a : Reg) (imm : BitVec 16) (ad off : Nat), Reached s w .load .rd (s.reg a) imm.toInt 8 ad (.window off) →
      exec (.ld w .d64 d a imm) s = .next (if s.counts.loads < 63 then s.answer d (s.windowWord off) else s.waiting .stall))
  ∧ (∀ (s : State) (w : BitVec 2) (n : MemWidth) (d a b : Reg) (imm : BitVec 16) (i : Instr) (m ad v p off : Nat), (i, m) ∈ [(Instr.ld w n d a imm, memBytes n), (.ldp w d a b imm, 16)] →
      Reached s w .load .rd (s.reg a) imm.toInt m ad (.core v p off true) → (Loc.core v p off true).inSlots m = true → 63 ≤ s.counts.loads → exec i s = .next (s.waiting .stall))
  ∧ (∀ (s : State) (w : BitVec 2) (d a : Reg) (imm : BitVec 16) (ad v off : Nat), Reached s w .load .rd (s.reg a) imm.toInt 8 ad (.event v off) → (evReg off).gates = true →
      (∀ x, s.cur.str.grant = some (.value x) → exec (.ld w .d64 d a imm) s = .next ((s.setStr fun y => { y with grant := none }).answer d x))
      ∧ (∀ k, s.cur.str.grant = some (.error k) → exec (.ld w .d64 d a imm) s = .next ((s.setStr fun y => { y with grant := none }).raise 0x03 k (BitVec.ofNat 64 ad)))
      ∧ (s.cur.str.grant = none → s.counts.loads < 63 →
          ∃ t, exec (.ld w .d64 d a imm) s = .next t ∧ t.cur.gate = .access s.nextId ∧ t.cur.pc = s.cur.pc ∧ t.mem = s.mem ∧ t.cur.regs = s.cur.regs
            ∧ t.counts.loads = s.counts.loads + 1
            ∧ (s.queuedAt v (s.cur.run.getD 0) (evReg off) = false → Sent s t (.eventLoad off) [{ va := BitVec.ofNat 56 ad, loc := .event v off, n := 8 }] (.scalar d .d64))))
  ∧ (∀ (s : State) (w : BitVec 2) (d a : Reg) (imm : BitVec 16) (ad v off : Nat), Reached s w .load .rd (s.reg a) imm.toInt 8 ad (.event v off) → (evReg off).gates = false →
      s.counts.loads < 63 →
      ∃ t, exec (.ld w .d64 d a imm) s = .next t ∧ Sent s t (.eventLoad off) [{ va := BitVec.ofNat 56 ad, loc := .event v off, n := 8 }] (.scalar d .d64) ∧ t.cur.pc = s.nextPc)

/-- The window's register at 0x0000 holds the VCN of the running strand, its core position, the live-core mask of the cluster and the two slot bits; the one at 0x0008 the seven counts in their fields; the one at 0x0010 package time as the core's own die counts it; the one at 0x0100, for each core position, the entries on its ready list up to 31, whether a strand runs there, whether both tile slots are held, and whether it is live, all zero where it is not; an offset that no table lists reads zero. No reserved bit of SELF or OUTCNT is ever set. -/
def Obligations.MappedRegisters : Prop :=
  ∀ s : State,
    (s.windowWord 0x0000).extractLsb' 0 12 = BitVec.ofNat 12 s.vcn ∧ (s.windowWord 0x0000).extractLsb' 12 4 = BitVec.ofNat 4 (s.focus % 8)
    ∧ (s.windowWord 0x0000).extractLsb' 16 8 = BitVec.ofNat 8 (s.liveMask s.pcn)
    ∧ (s.windowWord 0x0000).getLsbD 24 = (s.cur.str.slot == some 0) ∧ (s.windowWord 0x0000).getLsbD 25 = (s.cur.str.slot == some 1)
    ∧ (s.windowWord 0x0000).extractLsb' 26 38 = 0
    ∧ (s.windowWord 0x0008).extractLsb' 0 8 = (BitVec.ofNat 6 s.counts.loads).zeroExtend 8 ∧ (s.windowWord 0x0008).extractLsb' 8 8 = (BitVec.ofNat 6 s.counts.stores).zeroExtend 8
    ∧ (s.windowWord 0x0008).extractLsb' 16 8 = (BitVec.ofNat 6 s.counts.copies).zeroExtend 8 ∧ (s.windowWord 0x0008).extractLsb' 24 8 = (BitVec.ofNat 6 s.counts.tiles).zeroExtend 8
    ∧ (s.windowWord 0x0008).extractLsb' 32 8 = (BitVec.ofNat 6 s.counts.cl).zeroExtend 8 ∧ (s.windowWord 0x0008).extractLsb' 40 8 = (BitVec.ofNat 6 s.counts.ch).zeroExtend 8
    ∧ (s.windowWord 0x0008).extractLsb' 48 16 = (BitVec.ofNat 6 s.counts.pn).zeroExtend 16
    ∧ s.windowWord 0x0010 = BitVec.ofNat 64 (s.dieTime s.chipHere)
    ∧ (∀ i : Nat, i < 8 → ∀ f : Word, f = (s.windowWord 0x0100 >>> (8 * i)) &&& 0xFF#64 →
        (s.live s.pcn i = false → f = 0)
        ∧ (s.live s.pcn i = true → f.getLsbD 7 = true ∧ f.getLsbD 5 = (s.coreAt (s.pcn * 8 + i)).run.isSome
          ∧ f.getLsbD 6 = ((s.coreAt (s.pcn * 8 + i)).slot0.isSome && (s.coreAt (s.pcn * 8 + i)).slot1.isSome)
          ∧ (f.extractLsb' 0 5).toNat = min 31 ((s.ready.filter fun e => e.1 % 8 == i && decide ((s.mapNow (e.1 / 8)).pcn = s.pcn) && (s.mapNow (e.1 / 8)).valid
              && !(s.mapNow (e.1 / 8)).nonres).map fun e => e.2.length).sum))
    ∧ ∀ off, off ≠ 0x0000 → off ≠ 0x0008 → off ≠ 0x0010 → off ≠ 0x0100 → s.windowWord off = 0

/-- A store that passes its checks to an ordinary place is sent with the low bytes of sD in little-endian order, STP as two halves of their own; STORES and the class count rise by one each and the strand goes on, with all memory and every register as before: the bytes are written where the store is performed. It waits while a count stands at 63, and a ring without room is UNDO LOGFULL. A store to the mapped window is ignored. One to an event register carries the value of sD. One to the own tile slot is performed at once: those bytes and no others. -/
def Obligations.StoresIssue : Prop :=
  (∀ (s : State) (w : BitVec 2) (n : MemWidth) (d a b : Reg) (imm : BitVec 16) (i : Instr) (m ad : Nat) (l : Loc) (gs : List Seg),
      (i, m, gs) ∈ [(Instr.st w n d a imm, memBytes n, s.withParts [{ va := BitVec.ofNat 56 ad, loc := l, n := memBytes n, data := (toLe (memBytes n) (s.reg d).toNat).map some }]),
        (.stp w d a b imm, 16, s.withParts [{ va := BitVec.ofNat 56 ad, loc := l, n := 8, data := (toLe 8 (s.reg d).toNat).map some },
          { va := BitVec.ofNat 56 ad + 8, loc := l.plus 8, n := 8, data := (toLe 8 (s.reg b).toNat).map some }])] →
      Reached s w .store .wr (s.reg a) imm.toInt m ad l → Ordinary l m →
      (s.full false [s.classOf s.pcn s.vcn l] = true → exec i s = .next (s.waiting .stall))
      ∧ (s.full false [s.classOf s.pcn s.vcn l] = false →
          (s.reserve s.asid (s.segsReq gs) = none → exec i s = .next (s.raise 0x09 0x03))
          ∧ (∀ s1, s.reserve s.asid (s.segsReq gs) = some s1 →
              ∃ t, exec i s = .next t ∧ Sent s t .store gs .none ∧ t.cur.pc = s.nextPc ∧ t.counts.cls (s.classOf s.pcn s.vcn l)
                = s.counts.cls (s.classOf s.pcn s.vcn l) + (if s.classOf s.pcn s.vcn l = .loc then 0 else 1))))
  ∧ (∀ (s : State) (w : BitVec 2) (d a : Reg) (imm : BitVec 16) (ad off : Nat), Reached s w .store .wr (s.reg a) imm.toInt 8 ad (.window off) →
      exec (.st w .d64 d a imm) s = .next s.advance)
  ∧ (∀ (s : State) (w : BitVec 2) (d a : Reg) (imm : BitVec 16) (ad v off : Nat), Reached s w .store .wr (s.reg a) imm.toInt 8 ad (.event v off) →
      s.full false [s.classOf s.pcn s.vcn (.event v off)] = false →
      ∃ t, exec (.st w .d64 d a imm) s = .next t ∧ Sent s t (.eventStore off (s.reg d)) [{ va := BitVec.ofNat 56 ad, loc := .event v off, n := 8 }] .none ∧ t.cur.pc = s.nextPc)
  ∧ (∀ (s : State) (w : BitVec 2) (n : MemWidth) (d a : Reg) (imm : BitVec 16) (ad v p off f : Nat), s.mem.wf = true →
      Reached s w .store .wr (s.reg a) imm.toInt (memBytes n) ad (.core v p off true) → (Loc.core v p off true).inSlots (memBytes n) = true →
      s.slotBusy [{ va := BitVec.ofNat 56 ad, loc := .core v p off true, n := memBytes n, data := (toLe (memBytes n) (s.reg d).toNat).map some }] = false →
      f = s.homeFlat (.core v p off true) → s.homeKey (.core v p off true) = none → s.mirrorOf f = none →
      writeErr s.mem s.lostDies none (memBytes n) f ((toLe (memBytes n) (s.reg d).toNat).map some) = none →
      ∃ t, exec (.st w n d a imm) s = .next t ∧ t.cur.pc = s.nextPc ∧ t.cur.regs = s.cur.regs ∧ t.counts = s.counts
        ∧ t.mem.read f (memBytes n) = toLe (memBytes n) (s.reg d).toNat ∧ ∀ x, x < f ∨ f + memBytes n ≤ x → t.mem.byte x = s.mem.byte x)

/-- An atomic that passes its checks is sent with the operation of its minor, its width, sB and, as the comparand of ACAS, sD; its old value goes to sD unless that is s0; STORES and its class rise by one each, an OPEN window becomes FIXED, and nothing else changes. AFADD's new value is the exact sum of the old value and sB in its precision, rounded once, and it always writes. WAITA that passes its checks sends its comparison with sB and stands at it, with LOADS one higher, until it is answered; with the pass latch set it sends a plain load and clears the latch. WAITA refuses an event unit, the mapped window, HBM, host memory and a peer as ACCESS TARGET and its own tile slot as TSLOT. -/
def Obligations.AtomicsIssue : Prop :=
  (∀ (s : State) (w : BitVec 2) (n m : AWidth) (d a b : Reg) (imm : BitVec 16) (i : Instr) (op : AtomOp) (ad : Nat) (l : Loc) (gs : List Seg),
      (i, op, m) ∈ [(Instr.aadd w n d a b imm, AtomOp.add, n), (.amin w n d a b imm, .min, n), (.amax w n d a b imm, .max, n), (.aminu w n d a b imm, .minu, n),
        (.amaxu w n d a b imm, .maxu, n), (.aand w n d a b imm, .and, n), (.aor w n d a b imm, .or, n), (.axor w n d a b imm, .xor, n), (.aswp w n d a b imm, .swp, n),
        (.acas w n d a b imm, .cas, n), (.afaddF32 w d a b imm, .fadd32, .w32), (.afaddF64 w d a b imm, .fadd64, .w64)] →
      Reached s w .atomic .at (s.reg a) imm.toInt (aBytes m) ad l → gs = s.withParts [{ va := BitVec.ofNat 56 ad, loc := l, n := aBytes m, data := List.replicate (aBytes m) (some 0) }] →
      (s.full false [s.classOf s.pcn s.vcn l] = true → exec i s = .next (s.waiting .stall))
      ∧ (s.full false [s.classOf s.pcn s.vcn l] = false →
          (s.reserve s.asid (s.segsReq gs) = none → exec i s = .next (s.raise 0x09 0x03))
          ∧ (∀ s1, s.reserve s.asid (s.segsReq gs) = some s1 →
              ∃ t, exec i s = .next t ∧ Sent s t (.atomic op m (s.reg b) (s.reg d)) gs (if d = 0 then .none else .atomic d m) ∧ t.cur.pc = s.nextPc
                ∧ (s.cur.run ≠ none → t.cur.str.window.st ≠ .opened))))
  ∧ (∀ (p : Prec) (op : AtomOp) (n : AWidth) (old b c : Nat), (p, op, n) ∈ [(Prec.f32, AtomOp.fadd32, AWidth.w32), (.f64, .fadd64, .w64)] →
      atomApply op n old b c = some ((precLayout p).rne ((fpVal p (BitVec.ofNat 64 old)).add (fpVal p (BitVec.ofNat 64 b)))))
  ∧ (∀ (s : State) (w : BitVec 2) (d a b : Reg) (imm : BitVec 16) (ad : Nat) (l : Loc), Reached s w .load .rd (s.reg a) imm.toInt 8 ad l → Ordinary l 8 → s.counts.loads < 63 →
      ∃ t, exec (.waita w d a b imm) s = .next t ∧ t.cur.gate = .access s.nextId ∧ t.cur.pc = s.cur.pc ∧ (s.cur.run ≠ none → t.cur.str.window.st ≠ .opened) ∧ t.cur.str.passLatch = false
        ∧ Sent s t (if s.cur.str.passLatch then .load else .waita (s.reg b)) [{ va := BitVec.ofNat 56 ad, loc := l, n := 8 }] (.scalar d .d64))
  ∧ (∀ (s : State) (w : BitVec 2) (d a b : Reg) (imm : BitVec 16) (ad : Nat) (l : Loc), (s.reg a).toNat + imm.toInt = ad → ad < 2 ^ 56 → s.classBusy w = false → ad % 8 = 0 →
      s.xlate s.agent s.asid s.vcn s.pos .rd ad = .ok l →
      ((match l with | .event .. | .window _ | .hbm .. | .host _ | .peer .. => true | _ => false) = true → exec (.waita w d a b imm) s = .next (s.raise 0x03 0x02 (BitVec.ofNat 64 ad)))
      ∧ (l.inSlots 8 = true → exec (.waita w d a b imm) s = .next (s.raise 0x03 0x04 (BitVec.ofNat 64 ad))))

/-- With live tile registers and room in the vector queue, VADD, VSUB, VMUL, VFMA, VDIV, VMIN, VMAX, VABS and VSGN write, in every active slot, the exact result of the operation on the elements as they stood: for an integer format modulo 2^w, its elements read with or without sign; for a float rounded once to nearest even. An integer quotient is truncated towards zero and is all ones for a divisor of 0. VSGN gives a float the magnitude of a with the sign of b, and the canonical NaN for a NaN. Inactive slots keep their values; no scalar register and no byte outside the row changes; a transient result leaves the slot alone. -/
def Obligations.RowArithmetic : Prop :=
  (∀ (s : State) (x : Bool) (f : Fmt) (c : Reg) (rd ra rb : RowId) (i : Instr) (k : Nat) (op : Int → Int → Int → Int), RowReady s → f.isInt = true →
      (i, k, op) ∈ [(Instr.vadd x f c rd ra rb, 4, fun a b _ => a + b), (.vsub x f c rd ra rb, 4, fun a b _ => a - b), (.vmul x f c rd ra rb, 4, fun a b _ => a * b),
        (.vfma x f c rd ra rb, 4, fun a b d => a * b + d), (.vdiv x f c rd ra rb, 16, fun a b _ => if b = 0 then -1 else a.tdiv b), (.vmin x f c rd ra rb, 4, fun a b _ => min a b),
        (.vmax x f c rd ra rb, 4, fun a b _ => max a b), (.vabs x f c rd ra, 4, fun a _ _ => if a < 0 then -a else a),
        (.vsgn x f c rd ra rb, 4, fun a b _ => if b < 0 then (if a < 0 then a else -a) else if a < 0 then -a else a)] →
      (f.isSigned = false → ∀ y, i ≠ .vsgn y f c rd ra rb) →
      ∃ t, exec i s = .next t ∧ RowOp s t i k x c f rd fun n => (op (elemInt f (rowElem (s.row ra) f.bits n)) (elemInt f (rowElem (s.row rb) f.bits n)) (elemInt f (rowElem (s.row rd) f.bits n)) % 2 ^ f.bits).toNat)
  ∧ (∀ (s : State) (x : Bool) (f : Fmt) (p : FpLayout) (c : Reg) (rd ra rb : RowId) (i : Instr) (k : Nat) (op : FVal → FVal → FVal → FVal), RowReady s → f.isFloat = true → fmtLayout f = some p →
      (i, k, op) ∈ [(Instr.vadd x f c rd ra rb, 4, fun a b _ => a.add b), (.vsub x f c rd ra rb, 4, fun a b _ => a.add b.neg), (.vmul x f c rd ra rb, 4, fun a b _ => a.mul b),
        (.vfma x f c rd ra rb, 4, fun a b d => (a.mul b).add d), (.vdiv x f c rd ra rb, 16, fun a b _ => a.div b), (.vmin x f c rd ra rb, 4, fun a b _ => a.fmin b),
        (.vmax x f c rd ra rb, 4, fun a b _ => a.fmax b), (.vabs x f c rd ra, 4, fun a _ _ => a.abs)] →
      ∃ t, exec i s = .next t ∧ RowOp s t i k x c f rd fun n => p.rne (op (p.val (rowElem (s.row ra) f.bits n)) (p.val (rowElem (s.row rb) f.bits n)) (p.val (rowElem (s.row rd) f.bits n))))
  ∧ (∀ (s : State) (x : Bool) (f : Fmt) (p : FpLayout) (c : Reg) (rd ra rb : RowId), RowReady s → f.isFloat = true → fmtLayout f = some p →
      ∃ t, exec (.vsgn x f c rd ra rb) s = .next t ∧ RowOp s t (.vsgn x f c rd ra rb) 4 x c f rd fun n =>
        if p.val (rowElem (s.row ra) f.bits n) = .nan then p.nan
        else rowElem (s.row ra) f.bits n % 2 ^ (f.bits - 1) + rowElem (s.row rb) f.bits n / 2 ^ (f.bits - 1) * 2 ^ (f.bits - 1))
  ∧ (∀ (s : State) (x : Bool) (f : Fmt) (p : FpLayout) (c : Reg) (rd ra : RowId) (i : Instr) (op : FVal → FVal), RowReady s → f.isFloat = true → fmtLayout f = some p →
      (i, op) ∈ [(Instr.vrcp x f c rd ra, FVal.rcp), (.vrsq x f c rd ra, .rsqrt), (.vexp2 x f c rd ra, .exp2), (.vlog2 x f c rd ra, .log2)] →
      ∃ t, exec i s = .next t ∧ RowOp s t i 16 x c f rd fun n => p.rne (op (p.val (rowElem (s.row ra) f.bits n))))

/-- With live tile registers and room in the vector queue: VAND, VOR and VXOR act bit by bit; VSHL, VSHR and VSHA shift by an element of RB, or by all of sA where A is not 0, and give 0, 0 and the sign for a count of the width or more; VSEL takes A where the slot is active under sC and else B; VPERM takes the element that the index names, or zero; VBCAST the low bits of sA; VIOTA sA plus the slot's number; VEXT the element sA further on in A followed by B, or zero; VSCAN of an integer format the running sum of the active elements from sA, modulo 2^w, and of a float format the exact running sum of sA, where A is not 0, and the active elements, rounded once for each (log 11). All elements are read as they stood before. -/
def Obligations.RowBitsShiftsAndMoves : Prop :=
  (∀ (s : State) (x : Bool) (f : Fmt) (c : Reg) (rd ra rb : RowId) (i : Instr) (op : Nat → Nat → Nat), RowReady s → f.isInt = true →
      (i, op) ∈ [(Instr.vand x f c rd ra rb, fun a b => a &&& b), (.vor x f c rd ra rb, fun a b => a ||| b), (.vxor x f c rd ra rb, fun a b => a ^^^ b)] →
      ∃ t, exec i s = .next t ∧ RowOp s t i 4 x c f rd fun n => op (rowElem (s.row ra) f.bits n) (rowElem (s.row rb) f.bits n))
  ∧ (∀ (s : State) (x : Bool) (f : Fmt) (a c : Reg) (rd ra rb : RowId) (i : Instr) (op : Nat → Nat → Nat), RowReady s → f.isInt = true →
      (i, op) ∈ [(Instr.vshl x f a c rd ra rb, fun e k => if k < f.bits then e * 2 ^ k else 0), (.vshr x f a c rd ra rb, fun e k => if k < f.bits then e / 2 ^ k else 0),
        (.vsha x f a c rd ra rb, fun e k => (sextInt f.bits e / 2 ^ (min k f.bits) % 2 ^ f.bits).toNat)] →
      ∃ t, exec i s = .next t ∧ RowOp s t i 4 x c f rd fun n => op (rowElem (s.row ra) f.bits n) (if a = 0 then rowElem (s.row rb) f.bits n else (s.reg a).toNat))
  ∧ (∀ (s : State) (x : Bool) (f : Fmt) (a c : Reg) (rd ra rb : RowId), RowReady s → f.rowOk = true →
      (∃ t, exec (.vsel x f c rd ra rb) s = .next t ∧ RowOp s t (.vsel x f c rd ra rb) 4 x 0 f rd fun n =>
          if c = 0 ∨ (s.reg c).getLsbD (n * 64 / perRow f.bits) = true then rowElem (s.row ra) f.bits n else rowElem (s.row rb) f.bits n)
      ∧ (∃ t, exec (.vperm x f c rd ra rb) s = .next t ∧ RowOp s t (.vperm x f c rd ra rb) 8 x c f rd fun n =>
          if rowElem (s.row rb) f.bits n < perRow f.bits then rowElem (s.row ra) f.bits (rowElem (s.row rb) f.bits n) else 0)
      ∧ (∃ t, exec (.vext x f a c rd ra rb) s = .next t ∧ RowOp s t (.vext x f a c rd ra rb) 8 x c f rd fun n =>
          if n + (s.reg a).toNat < perRow f.bits then rowElem (s.row ra) f.bits (n + (s.reg a).toNat)
          else if n + (s.reg a).toNat < 2 * perRow f.bits then rowElem (s.row rb) f.bits (n + (s.reg a).toNat - perRow f.bits) else 0)
      ∧ (∃ t, exec (.vbcast x f a c rd) s = .next t ∧ RowOp s t (.vbcast x f a c rd) 4 x c f rd fun _ => (s.reg a).toNat)
      ∧ (∃ t, exec (.viota x f a c rd) s = .next t ∧ RowOp s t (.viota x f a c rd) 4 x c f rd fun n => (s.reg a).toNat + n))
  ∧ (∀ (s : State) (x : Bool) (f : Fmt) (a c : Reg) (rd ra : RowId), RowReady s → f.isInt = true →
      ∃ t, exec (.vscan x f a c rd ra) s = .next t ∧ RowOp s t (.vscan x f a c rd ra) 8 x c f rd fun n =>
        (s.reg a).toNat + ((List.range (n + 1)).map fun j => if c = 0 ∨ (s.reg c).getLsbD (j * 64 / perRow f.bits) = true then rowElem (s.row ra) f.bits j else 0).sum)
  ∧ (∀ (s : State) (x : Bool) (f : Fmt) (p : FpLayout) (a c : Reg) (rd ra : RowId), RowReady s → f.isFloat = true → fmtLayout f = some p →
      ∃ t, exec (.vscan x f a c rd ra) s = .next t ∧ RowOp s t (.vscan x f a c rd ra) 8 x c f rd fun n =>
        p.rne (match (if a = 0 then [] else [p.val ((s.reg a).toNat % 2 ^ f.bits)]) ++
            ((List.range (n + 1)).filterMap fun j => if c = 0 ∨ (s.reg c).getLsbD (j * 64 / perRow f.bits) = true then some (p.val (rowElem (s.row ra) f.bits j)) else none) with
          | [] => .num false 0 0
          | v :: l => l.foldl FVal.add v))

/-- With live tile registers and room in the vector queue: VCMP writes all ones where the one relation of the elements is in the set sA[3:0], and its lane mask to sA; the reductions write the exact sum, or the largest or smallest, of the active elements, an integer extended by its sign, to sA, touching no row; VCVT between formats without scale converts each active element under the control word; VBFPD scales each element by its block's scale and 2^k and rounds once; VBFPQ writes each block requantised and its scale bytes to sC. A control word that is not valid is ILLEGAL FMT for VCVT and VBFPQ. -/
def Obligations.RowComparesReductionsConversions : Prop :=
  (∀ (s : State) (x : Bool) (df sf : Fmt) (a c : Reg) (rd ra rb : RowId), RowReady s → df.rowOk = true → sf.rowOk = true → (rcwOf (s.reg a)).isSome = true →
      (∃ t, exec (.vcmp x df a c rd ra rb) s = .next t ∧ t.cur.pc = s.nextPc) ∧ (∃ t, exec (.vrsum df a c ra) s = .next t ∧ t.cur.pc = s.nextPc)
      ∧ (∃ t, exec (.vrmax df a c ra) s = .next t ∧ t.cur.pc = s.nextPc) ∧ (∃ t, exec (.vrmin df a c ra) s = .next t ∧ t.cur.pc = s.nextPc)
      ∧ (∃ t, exec (.vcvt x df sf a c rd ra) s = .next t ∧ t.cur.pc = s.nextPc) ∧ (∃ t, exec (.vbfpq x df sf a c rd ra) s = .next t ∧ t.cur.pc = s.nextPc)
      ∧ (∃ t, exec (.vbfpd x df sf a c rd ra) s = .next t ∧ t.cur.pc = s.nextPc))
  ∧ (∀ (s : State) (x : Bool) (f : Fmt) (a c : Reg) (rd ra rb : RowId), RowReady s → f.rowOk = true →
      ∃ t v, exec (.vcmp x f a c rd ra rb) s = .next t ∧ RowWritten s t (.vcmp x f a c rd ra rb) 4 x rd v
        ∧ (∀ n, n < perRow f.bits → rowElem v f.bits n =
            if c = 0 ∨ (s.reg c).getLsbD (n * 64 / perRow f.bits) = true then
              (if (s.reg a).getLsbD (match (elemVal f 0 (rowElem (s.row ra) f.bits n)).rel (elemVal f 0 (rowElem (s.row rb) f.bits n)) with | .lt => 0 | .eq => 1 | .gt => 2 | .un => 3) = true
                then 2 ^ f.bits - 1 else 0)
            else rowElem (s.row rd) f.bits n)
        ∧ (∀ r, r ≠ a → t.reg r = s.reg r)
        ∧ (a ≠ 0 → ∀ j, j < 64 → ((t.reg a).getLsbD j = true ↔ ∀ n, n * 64 / perRow f.bits = j → n < perRow f.bits →
            (c = 0 ∨ (s.reg c).getLsbD j = true) ∧ (s.reg a).getLsbD (match (elemVal f 0 (rowElem (s.row ra) f.bits n)).rel (elemVal f 0 (rowElem (s.row rb) f.bits n)) with | .lt => 0 | .eq => 1 | .gt => 2 | .un => 3) = true)))
  ∧ (∀ (s : State) (f : Fmt) (a c : Reg) (ra : RowId) (i : Instr) (v : Int) (es : List Int), f.isInt = true → s.cur.vq.length < 8 →
      es = ((List.range (perRow f.bits)).filter fun n => c = 0 ∨ (s.reg c).getLsbD (n * 64 / perRow f.bits) = true).map (fun n => elemInt f (rowElem (s.row ra) f.bits n)) →
      (i = .vrsum f a c ra ∧ v = es.sum
        ∨ i = .vrmax f a c ra ∧ (∀ e ∈ es, e ≤ v) ∧ (v ∈ es ∨ es = [] ∧ v = if f.isSigned then -(2 ^ (f.bits - 1)) else 0)
        ∨ i = .vrmin f a c ra ∧ (∀ e ∈ es, v ≤ e) ∧ (v ∈ es ∨ es = [] ∧ v = if f.isSigned then 2 ^ (f.bits - 1) - 1 else 2 ^ f.bits - 1)) →
      ∃ t, exec i s = .next t ∧ t.cur.pc = s.nextPc ∧ t.mem = s.mem ∧ t.cur.bypass = s.cur.bypass ∧ (a ≠ 0 → t.reg a = BitVec.ofInt 64 v) ∧ (∀ r, r ≠ a → t.reg r = s.reg r)
        ∧ t.cur.vq = s.cur.vq ++ [rowEntry i 8 s.cur.pc])
  ∧ (∀ (s : State) (f : Fmt) (p : FpLayout) (a c : Reg) (ra : RowId), f.isFloat = true → fmtLayout f = some p → s.cur.vq.length < 8 →
      ∃ t, exec (.vrsum f a c ra) s = .next t ∧ t.cur.pc = s.nextPc ∧ t.mem = s.mem ∧ (a ≠ 0 → t.reg a = BitVec.ofNat 64 (p.rne (FVal.sum
        (((List.range (perRow f.bits)).filter fun n => c = 0 ∨ (s.reg c).getLsbD (n * 64 / perRow f.bits) = true).map fun n => p.val (rowElem (s.row ra) f.bits n)))))
        ∧ (∀ r, r ≠ a → t.reg r = s.reg r))
  ∧ (∀ (s : State) (f : Fmt) (p : FpLayout) (a c : Reg) (ra : RowId) (i : Instr) (op : FVal → FVal → FVal) (neg : Bool) (vs : List FVal), f.isFloat = true → fmtLayout f = some p →
      s.cur.vq.length < 8 → (i, op, neg) ∈ [(Instr.vrmax f a c ra, FVal.fmax, true), (.vrmin f a c ra, FVal.fmin, false)] →
      vs = ((List.range (perRow f.bits)).filter fun n => c = 0 ∨ (s.reg c).getLsbD (n * 64 / perRow f.bits) = true).map (fun n => p.val (rowElem (s.row ra) f.bits n)) →
      ∃ t, exec i s = .next t ∧ t.cur.pc = s.nextPc ∧ t.mem = s.mem ∧ (∀ r, r ≠ a → t.reg r = s.reg r) ∧ (a ≠ 0 → vs = [] → t.reg a = BitVec.ofNat 64 (p.infBits neg))
        ∧ ∀ v l, a ≠ 0 → vs = v :: l → t.reg a = BitVec.ofNat 64 (p.rne (l.foldl op v)))
  ∧ (∀ (s : State) (x : Bool) (df sf : Fmt) (a c : Reg) (rd ra : RowId), rcwOf (s.reg a) = none →
      exec (.vcvt x df sf a c rd ra) s = .next (s.raise 0x01 0x0A) ∧ exec (.vbfpq x df sf a c rd ra) s = .next (s.raise 0x01 0x0A))
  ∧ (∀ (s : State) (x : Bool) (df sf : Fmt) (a c : Reg) (rd ra : RowId) (r : Rcw), RowReady s → rcwOf (s.reg a) = some r → df.hasScale = false → sf.hasScale = false → df ≠ .raw → sf ≠ .raw →
      ∃ t, exec (.vcvt x df sf a c rd ra) s = .next t ∧ RowOp s t (.vcvt x df sf a c rd ra) 4 x c df rd fun n =>
        if n < perRow (max df.bits sf.bits) then convElem df r n (elemVal sf 0 (rowElem (s.row ra) sf.bits n)) else rowElem (s.row rd) df.bits n)
  ∧ (∀ (s : State) (x : Bool) (df sf : Fmt) (a c : Reg) (rd ra : RowId) (r : Rcw) (N : Nat), RowReady s → rcwOf (s.reg a) = some r → (df.hasScale || sf.hasScale) = true → df ≠ .raw → sf ≠ .raw →
      N = 48 * (if max df.bits sf.bits = 4 then 8 else perRow (max df.bits sf.bits) / 48) →
      ∃ t v, exec (.vcvt x df sf a c rd ra) s = .next t ∧ RowWritten s t (.vcvt x df sf a c rd ra) 4 x rd v ∧ t.cur.regs = s.cur.regs
        ∧ ∀ n, n < perRow df.bits → rowElem v df.bits n =
          if n < N then (if df.hasScale then quantElem df r n ((s.reg c).toNat / 2 ^ (8 * (n / 48)) % 256) (elemVal sf ((s.reg c).toNat / 2 ^ (8 * (n / 48)) % 256) (rowElem (s.row ra) sf.bits n))
              else convElem df r n (elemVal sf ((s.reg c).toNat / 2 ^ (8 * (n / 48)) % 256) (rowElem (s.row ra) sf.bits n))) % 2 ^ df.bits
          else if df.hasScale then 0 else rowElem (s.row rd) df.bits n)
  ∧ (∀ (s : State) (x : Bool) (df sf : Fmt) (p : FpLayout) (a c : Reg) (rd ra : RowId) (N : Nat), RowReady s → df.isFloat = true → fmtLayout df = some p → sf.hasScale = true →
      N = 48 * (if max df.bits sf.bits = 4 then 8 else perRow (max df.bits sf.bits) / 48) →
      ∃ t v, exec (.vbfpd x df sf a c rd ra) s = .next t ∧ RowWritten s t (.vbfpd x df sf a c rd ra) 8 x rd v ∧ t.cur.regs = s.cur.regs
        ∧ ∀ n, n < perRow df.bits → rowElem v df.bits n =
          if n < N then p.rne ((elemVal sf ((s.reg c).toNat / 2 ^ (8 * (n / 48)) % 256) (rowElem (s.row ra) sf.bits n)).scale ((s.reg a).extractLsb' 0 16).toInt) % 2 ^ df.bits
          else rowElem (s.row rd) df.bits n)
  ∧ (∀ (s : State) (x : Bool) (df sf : Fmt) (a c : Reg) (rd ra : RowId) (r : Rcw), RowReady s → rcwOf (s.reg a) = some r → df.hasScale = true → sf.isFloat = true →
      ∃ t v, exec (.vbfpq x df sf a c rd ra) s = .next t ∧ RowWritten s t (.vbfpq x df sf a c rd ra) 8 x rd v ∧ (∀ k, k ≠ c → t.reg k = s.reg k) ∧ (c ≠ 0 → (t.reg c).toNat < 2 ^ (8 * (perRow sf.bits / 48)))
        ∧ (∀ n, 48 * (perRow sf.bits / 48) ≤ n → n < perRow df.bits → rowElem v df.bits n = 0)
        ∧ ∀ b, b < perRow sf.bits / 48 → ∀ q, q = requantise df r (48 * b) ((List.range 48).map fun j => elemVal sf 0 (rowElem (s.row ra) sf.bits (48 * b + j))) →
          (c ≠ 0 → (t.reg c).toNat / 2 ^ (8 * b) % 256 = q.1) ∧ ∀ j, j < 48 → rowElem v df.bits (48 * b + j) = q.2.getD j 0 % 2 ^ df.bits)

/-- A row operation of a strand without live tile registers acts exactly as in the state in which a free slot of its core has been given to it: its own from then on, all 8 KiB zero, no other byte changed. With no slot free it waits for the context of the suspended holder to be saved, and takes STRAND NOSAVE where that strand's context has no unit left. A row read while no slot is held, and not in the bypass, is zero. With eight entries in the vector queue every row operation waits, the reductions too. -/
def Obligations.FirstRowMakesTheRegistersLive : Prop :=
  (∀ (s : State) (k : Nat) (x : Bool) (f sf : Fmt) (a c : Reg) (rd ra rb : RowId) (i : Instr), s.cur.vq.length < 8 → s.cur.str.slot = none → s.cur.freeSlot = some k → rcwOf (s.reg a) ≠ none →
      i ∈ [Instr.vadd x f c rd ra rb, .vsub x f c rd ra rb, .vmul x f c rd ra rb, .vfma x f c rd ra rb, .vdiv x f c rd ra rb, .vmin x f c rd ra rb, .vmax x f c rd ra rb, .vabs x f c rd ra,
        .vsgn x f c rd ra rb, .vand x f c rd ra rb, .vor x f c rd ra rb, .vxor x f c rd ra rb, .vshl x f a c rd ra rb, .vshr x f a c rd ra rb, .vsha x f a c rd ra rb, .vcmp x f a c rd ra rb,
        .vsel x f c rd ra rb, .vcvt x f sf a c rd ra, .vbfpd x f sf a c rd ra, .vbfpq x f sf a c rd ra, .vrcp x f c rd ra, .vrsq x f c rd ra, .vexp2 x f c rd ra, .vlog2 x f c rd ra,
        .vscan x f a c rd ra, .vperm x f c rd ra rb, .vbcast x f a c rd, .vext x f a c rd ra rb, .viota x f a c rd] →
      exec i s = exec i (s.giveSlot k))
  ∧ (∀ (s : State) (k : Nat), s.mem.wf = true → s.cur.freeSlot = some k →
      (s.giveSlot k).cur.str.slot = some k ∧ (s.giveSlot k).cur.slotOwner k = s.cur.run ∧ (s.giveSlot k).cur.regs = s.cur.regs ∧ (s.giveSlot k).cur.bypass = s.cur.bypass
      ∧ (∀ o, o < 0x2000 → (s.giveSlot k).mem.byte (s.slotAddr k o) = 0)
      ∧ ∀ q, (∀ o, o < 0x2000 → q ≠ s.slotAddr k o) → (s.giveSlot k).mem.byte q = s.mem.byte q)
  ∧ (∀ (s : State) (x : Bool) (f sf : Fmt) (a c : Reg) (rd ra rb : RowId) (i : Instr), s.cur.vq.length < 8 → s.cur.str.slot = none → s.cur.freeSlot = none → rcwOf (s.reg a) ≠ none →
      i ∈ [Instr.vadd x f c rd ra rb, .vsub x f c rd ra rb, .vmul x f c rd ra rb, .vfma x f c rd ra rb, .vdiv x f c rd ra rb, .vmin x f c rd ra rb, .vmax x f c rd ra rb, .vabs x f c rd ra,
        .vsgn x f c rd ra rb, .vand x f c rd ra rb, .vor x f c rd ra rb, .vxor x f c rd ra rb, .vshl x f a c rd ra rb, .vshr x f a c rd ra rb, .vsha x f a c rd ra rb, .vcmp x f a c rd ra rb,
        .vsel x f c rd ra rb, .vcvt x f sf a c rd ra, .vbfpd x f sf a c rd ra, .vbfpq x f sf a c rd ra, .vrcp x f c rd ra, .vrsq x f c rd ra, .vexp2 x f c rd ra, .vlog2 x f c rd ra,
        .vscan x f a c rd ra, .vperm x f c rd ra rb, .vbcast x f a c rd, .vext x f a c rd ra rb, .viota x f a c rd] →
      (s.victimSlot = none → exec i s = .next (s.waiting .stall))
      ∧ ∀ k sid y, s.victimSlot = some k → s.cur.slotOwner k = some sid → s.strand? sid = some y →
          ((s.ctx? y.asid).bind Ctx.freeUnit = none → exec i s = .next (s.raise 0x07 0x02))
          ∧ ((s.ctx? y.asid).bind Ctx.freeUnit ≠ none → exec i s = .next (s.waiting .stall)))
  ∧ (∀ (s : State) (r : RowId), s.cur.str.slot = none → s.cur.bypass.lookup r = none → s.row r = 0)
  ∧ (∀ (s : State) (x : Bool) (f sf : Fmt) (a c : Reg) (rd ra rb : RowId) (i : Instr), 8 ≤ s.cur.vq.length → rcwOf (s.reg a) ≠ none →
      i ∈ [Instr.vrsum f a c ra, .vrmax f a c ra, .vrmin f a c ra,
        .vadd x f c rd ra rb, .vsub x f c rd ra rb, .vmul x f c rd ra rb, .vfma x f c rd ra rb, .vdiv x f c rd ra rb, .vmin x f c rd ra rb, .vmax x f c rd ra rb, .vabs x f c rd ra,
        .vsgn x f c rd ra rb, .vand x f c rd ra rb, .vor x f c rd ra rb, .vxor x f c rd ra rb, .vshl x f a c rd ra rb, .vshr x f a c rd ra rb, .vsha x f a c rd ra rb, .vcmp x f a c rd ra rb,
        .vsel x f c rd ra rb, .vcvt x f sf a c rd ra, .vbfpd x f sf a c rd ra, .vbfpq x f sf a c rd ra, .vrcp x f c rd ra, .vrsq x f c rd ra, .vexp2 x f c rd ra, .vlog2 x f c rd ra,
        .vscan x f a c rd ra, .vperm x f c rd ra rb, .vbcast x f a c rd, .vext x f a c rd ra rb, .viota x f a c rd] → exec i s = .next (s.waiting .stall))

/-- With the wait class free, the vector queue empty and live tile registers: VLD checks 256 bytes, VLDS its 32 words in ascending address, VGATH and VSCAT their active elements in order; the first failure is a precise trap and nothing moves. The loads then count once in LOADS and name, for each byte of the row, the loaded byte that replaces it, none in an inactive slot. VST carries the active bytes of the row read through the bypass, and VSCAT sends an access for each element; each counts once in STORES and once in each class. What lies in the own slot moves at once: a load that lies there wholly writes its row and counts nothing, one partly there sends the rest and keeps those bytes; a VST or VSCAT partly there writes that part at once and sends the rest, as one store and one access for each element. A write to the own slot changes exactly its bytes. Behind rows in the queue or at a full count they wait. That a load of the own slot counts nothing once it has issued is the model's reading (log 165). -/
def Obligations.RowMemory : Prop :=
  (∀ (s : State) (x : Bool) (w : BitVec 2) (f : Fmt) (a b c : Reg) (rd rb : RowId) (disp : BitVec 16), s.classBusy w = true →
      ∀ i ∈ [Instr.vld x w a c rd disp, .vlds x w a b c rd disp, .vst w a c rd disp, .vgath x w f a c rd rb disp, .vscat w f a c rd rb disp], exec i s = .next (s.waiting .stall))
  ∧ (∀ (s : State) (k : AKind) (need : Need) (ad : Nat) (l : Loc), ad % 8 = 0 → ad % 2 ^ 16 + 256 ≤ 2 ^ 16 → ad + 256 ≤ 2 ^ 56 →
      s.xlate s.agent s.asid s.vcn s.pos need ad = .ok l → s.refuses s.pcn s.holdsSlot k 256 l = none → sizeRefuses 256 l = false →
      s.checkRange k need (fun _ => true) ad 256 8 = .ok [{ va := BitVec.ofNat 56 ad, loc := l, n := 256 }])
  ∧ (∀ (s : State) (x : Bool) (w : BitVec 2) (f : Fmt) (a b c : Reg) (rd rb : RowId) (disp : BitVec 16) (e : Fail) (words : List (Nat × Int)), s.classBusy w = false →
      words = ((List.range 32).map fun (j : Nat) => (j, (s.reg a).toNat + disp.toInt + j * (s.reg b).toInt)) →
      (s.checkRange .load .rd (fun _ => true) ((s.reg a).toNat + disp.toInt) 256 8 = .error e → exec (.vld x w a c rd disp) s = .next (s.raise e.cause e.sub e.addr))
      ∧ (s.checkRange .store .wr (fun _ => true) ((s.reg a).toNat + disp.toInt) 256 8 = .error e → exec (.vst w a c rd disp) s = .next (s.raise e.cause e.sub e.addr))
      ∧ ((s.reg b).toInt % 8 ≠ 0 → ∃ v, exec (.vlds x w a b c rd disp) s = .next (s.raise 0x03 0x01 v))
      ∧ ((s.reg b).toInt % 8 = 0 → s.checkRanges .load .rd (fun _ => true) 8 8 (if (s.reg b).toInt < 0 then words.reverse else words) 256 = .error e →
          exec (.vlds x w a b c rd disp) s = .next (s.raise e.cause e.sub e.addr))
      ∧ (s.checkRanges .load .rd gatherTarget (f.bits / 8) (f.bits / 8) (s.elemAddrs f a c rb disp) = .error e → exec (.vgath x w f a c rd rb disp) s = .next (s.raise e.cause e.sub e.addr))
      ∧ (s.checkRanges .store .wr gatherTarget (f.bits / 8) (f.bits / 8) (s.elemAddrs f a c rb disp) = .error e → exec (.vscat w f a c rd rb disp) s = .next (s.raise e.cause e.sub e.addr)))
  ∧ (∀ (s : State) (k : AKind) (need : Need) (ok : Loc → Bool) (n al size i : Nat) (ad : Int) (l : List (Nat × Int)) (e : Fail) (segs : List Seg) (ps : List (Nat × List Seg)),
      (s.checkRange k need ok ad n al size = .error e → s.checkRanges k need ok n al ((i, ad) :: l) size = .error e)
      ∧ (s.checkRange k need ok ad n al size = .ok segs → s.checkRanges k need ok n al l size = .error e → s.checkRanges k need ok n al ((i, ad) :: l) size = .error e)
      ∧ (s.checkRange k need ok ad n al size = .ok segs → s.checkRanges k need ok n al l size = .ok ps → s.checkRanges k need ok n al ((i, ad) :: l) size = .ok ((i, segs) :: ps)))
  ∧ (∀ (s : State) (x : Bool) (w : BitVec 2) (f : Fmt) (a b c : Reg) (rd rb : RowId) (disp : BitVec 16) (i : Instr) (segs out : List Seg) (from_ : List (Option Nat)) (known : List (Option Byte)),
      s.classBusy w = false → RowReady s →
      ((i = .vld x w a c rd disp ∧ s.checkRange .load .rd (fun _ => true) ((s.reg a).toNat + disp.toInt) 256 8 = .ok segs
          ∧ from_ = ((List.range 256).map fun n => if c = 0 ∨ (s.reg c).getLsbD (n / 4) = true then some n else none))
        ∨ (i = .vlds x w a b c rd disp ∧ (s.reg b).toInt % 8 = 0 ∧ from_ = ((List.range 256).map fun n => if c = 0 ∨ (s.reg c).getLsbD (n / 4) = true then some n else none)
          ∧ ∃ (words : List (Nat × Int)) (ps : List (Nat × List Seg)), words = ((List.range 32).map fun (j : Nat) => (j, (s.reg a).toNat + disp.toInt + j * (s.reg b).toInt))
            ∧ s.checkRanges .load .rd (fun _ => true) 8 8 (if (s.reg b).toInt < 0 then words.reverse else words) 256 = .ok ps ∧ segs = inOrder 32 ps)
        ∨ (i = .vgath x w f a c rd rb disp ∧ from_ = gatherFrom (f.bits / 8) ((s.elemAddrs f a c rb disp).map fun e => e.1)
          ∧ ∃ ps, s.checkRanges .load .rd gatherTarget (f.bits / 8) (f.bits / 8) (s.elemAddrs f a c rb disp) = .ok ps ∧ segs = ps.flatMap fun p => p.2)) →
      known = slotBytesOf (fun off n => s.mem.read (coreBase s.pcn s.pos + off) n) (segs.flatMap Seg.atSlots) → out = (segs.flatMap Seg.atSlots).filter (fun g => !g.loc.inSlots g.n) →
      ((s.cur.vq ≠ [] ∨ s.slotBusy segs = true ∨ 63 ≤ s.counts.loads) → exec i s = .next (s.waiting .stall))
      ∧ (s.cur.vq = [] → s.slotBusy segs = false → s.counts.loads < 63 → segs ≠ [] → ((segs.flatMap Seg.atSlots).filter fun g => g.loc.inSlots g.n) = [] →
          ∃ t, exec i s = .next t ∧ Sent s t .load segs (.row rd x from_) ∧ t.cur.pc = s.nextPc)
      ∧ (s.cur.vq = [] → s.slotBusy segs = false → s.counts.loads < 63 → out ≠ [] → ((segs.flatMap Seg.atSlots).filter fun g => g.loc.inSlots g.n) ≠ [] →
          (∃ bs, s.readSegs ((segs.flatMap Seg.atSlots).filter fun g => g.loc.inSlots g.n) = .ok bs) →
          ∃ t, exec i s = .next t ∧ Sent s t .load out (.row rd x (splitFrom known from_).2 (splitFrom known from_).1) ∧ t.cur.pc = s.nextPc)
      ∧ (s.cur.vq = [] → s.slotBusy segs = false → s.counts.loads < 63 → out = [] → s.lostWords x rd (fun n => (from_.getD n none).isSome) = [] → ∀ bs, s.readSegs segs = .ok bs →
          ∃ t, exec i s = .next t ∧ t.row rd = rowFrom (s.row rd) bs from_ ∧ t.cur.pc = s.nextPc ∧ t.counts = s.counts ∧ t.cur.regs = s.cur.regs ∧ t.flight = s.flight))
  ∧ (∀ (s u : State) (w : BitVec 2) (a c : Reg) (rd : RowId) (disp : BitVec 16) (segs gs out : List Seg), s.classBusy w = false → s.cur.vq = [] → s.slotBusy gs = false →
      s.checkRange .store .wr (fun _ => true) ((s.reg a).toNat + disp.toInt) 256 8 = .ok segs → gs = withData segs ((List.range 256).map fun n => if c = 0 ∨ (s.reg c).getLsbD (n / 4) = true then some (BitVec.ofNat 8 ((s.row rd).toNat / 2 ^ (8 * n))) else none) →
      out = s.withParts (if segs.any (fun g => g.loc.inSlots g.n) then (gs.flatMap Seg.atSlots).filter (fun g => !g.loc.inSlots g.n) else gs) →
      ((segs.flatMap Seg.atSlots).all fun g => g.loc.inSlots g.n) = false →
      (s.full false (s.classes out) = true → exec (.vst w a c rd disp) s = .next (s.waiting .stall))
      ∧ (s.full false (s.classes out) = false → s.reserve s.asid (s.segsReq out) = none → exec (.vst w a c rd disp) s = .next (s.raise 0x09 0x03))
      ∧ (s.full false (s.classes out) = false → s.reserve s.asid (s.segsReq out) = some u →
          ∃ t x, exec (.vst w a c rd disp) s = .next t ∧ t.flight = s.flight ++ [x] ∧ x.id = s.nextId ∧ x.sid = s.cur.run.getD 0 ∧ x.op = .store ∧ x.segs = out ∧ x.dest = .none
            ∧ t.counts.stores = s.counts.stores + 1 ∧ t.counts.loads = s.counts.loads ∧ t.cur.pc = s.nextPc ∧ t.cur.regs = s.cur.regs
            ∧ (segs.any (fun g => g.loc.inSlots g.n) = false → t.mem = s.mem)
            ∧ (segs.any (fun g => g.loc.inSlots g.n) = true → t.mem = (u.slotStore ((gs.flatMap Seg.atSlots).filter fun g => g.loc.inSlots g.n)).mem)))
  ∧ (∀ (s : State) (w : BitVec 2) (f : Fmt) (a c : Reg) (rd rb : RowId) (disp : BitVec 16) (segs : List Seg) (ps : List (Nat × List Seg)), s.classBusy w = false → s.cur.vq ≠ [] →
      (s.checkRange .store .wr (fun _ => true) ((s.reg a).toNat + disp.toInt) 256 8 = .ok segs → exec (.vst w a c rd disp) s = .next (s.waiting .stall))
      ∧ (s.checkRanges .store .wr gatherTarget (f.bits / 8) (f.bits / 8) (s.elemAddrs f a c rb disp) = .ok ps → exec (.vscat w f a c rd rb disp) s = .next (s.waiting .stall)))
  ∧ (∀ (s : State) (w : BitVec 2) (a c : Reg) (rd : RowId) (disp : BitVec 16) (g : Seg) (p : Nat), s.classBusy w = false → s.cur.vq = [] → s.slotBusy [g] = false → s.mem.wf = true →
      s.checkRange .store .wr (fun _ => true) ((s.reg a).toNat + disp.toInt) 256 8 = .ok [g] → g.n = 256 → (g.atSlots.all fun h => h.loc.inSlots h.n) = true → p = s.homeFlat g.loc → s.mirrorOf p = none →
      writeErr s.mem s.lostDies (s.homeKey g.loc) 256 p ((List.range 256).map fun n => if c = 0 ∨ (s.reg c).getLsbD (n / 4) = true then some (BitVec.ofNat 8 ((s.row rd).toNat / 2 ^ (8 * n))) else none) = none →
      ∃ t, exec (.vst w a c rd disp) s = .next t ∧ t.cur.pc = s.nextPc ∧ t.cur.regs = s.cur.regs
        ∧ (∀ n, n < 256 → t.mem.byte (p + n) = if c = 0 ∨ (s.reg c).getLsbD (n / 4) = true then BitVec.ofNat 8 ((s.row rd).toNat / 2 ^ (8 * n)) else s.mem.byte (p + n))
        ∧ ∀ q, q < p ∨ p + 256 ≤ q → t.mem.byte q = s.mem.byte q)
  ∧ (∀ s : State, s.slotStore [] = s ∧ ∀ (g : Seg) (gs : List Seg), s.slotStore (g :: gs) = (s.slotStore [g]).slotStore gs)
  ∧ (∀ (s : State) (g : Seg) (p : Nat), s.mem.wf = true → p = s.homeFlat g.loc → s.homeKey g.loc = none → s.mirrorOf p = none → g.data.length = g.n → writeErr s.mem s.lostDies none g.n p g.data = none →
      (∀ n, n < g.n → (s.slotStore [g]).mem.byte (p + n) = (g.data.getD n none).getD (s.mem.byte (p + n))) ∧ (s.slotStore [g]).cur.regs = s.cur.regs
      ∧ ∀ q, q < p ∨ p + g.n ≤ q → (s.slotStore [g]).mem.byte q = s.mem.byte q)
  ∧ (∀ (s u : State) (w : BitVec 2) (f : Fmt) (a c : Reg) (rd rb : RowId) (disp : BitVec 16) (ps : List (Nat × List Seg)) (gs out : List Seg), s.classBusy w = false → s.cur.vq = [] → s.slotBusy gs = false →
      s.checkRanges .store .wr gatherTarget (f.bits / 8) (f.bits / 8) (s.elemAddrs f a c rb disp) = .ok ps →
      gs = ps.flatMap (fun p => p.2.map fun g => let h := { g with data := (toLe (f.bits / 8) (rowElem (s.row rd) f.bits p.1)).map some }; { h with parts := s.scatPart h }) →
      out = gs.filter (fun g => !g.loc.inSlots g.n) →
      (((gs.flatMap Seg.atSlots).all fun g => g.loc.inSlots g.n) = true → exec (.vscat w f a c rd rb disp) s = .next (s.slotStore gs).advance)
      ∧ (((gs.flatMap Seg.atSlots).all fun g => g.loc.inSlots g.n) = false →
          (s.full false (s.classes out) = true → exec (.vscat w f a c rd rb disp) s = .next (s.waiting .stall))
          ∧ (s.full false (s.classes out) = false → s.reserve s.asid (s.segsReq out) = none → exec (.vscat w f a c rd rb disp) s = .next (s.raise 0x09 0x03))
          ∧ (s.full false (s.classes out) = false → s.reserve s.asid (s.segsReq out) = some u → out ≠ [] →
              ∃ t xs, exec (.vscat w f a c rd rb disp) s = .next t ∧ t.flight = s.flight ++ xs ∧ xs.length = out.length ∧ t.counts.stores = s.counts.stores + 1 ∧ t.counts.loads = s.counts.loads
                ∧ t.cur.pc = s.nextPc ∧ t.cur.regs = s.cur.regs ∧ t.mem = (u.slotStore (gs.filter fun g => g.loc.inSlots g.n)).mem
                ∧ ∀ n g, out[n]? = some g → ∃ x wh, xs[n]? = some x ∧ x.id = s.nextId + n ∧ x.op = .store ∧ x.segs = [{ g with whole := wh }] ∧ x.group = some s.nextId ∧ x.cls = [s.classOf s.pcn s.vcn g.loc]
                  ∧ (wh = true ↔ ∀ b, b < 8 → ∃ h ∈ out, s.flatOf h.loc ≤ s.flatOf g.loc / 8 * 8 + b ∧ s.flatOf g.loc / 8 * 8 + b < s.flatOf h.loc + h.n))))

/-- With the wait class free, room in the vector queue and live tile registers, at L0: TADD, TMUL, TBAQ and TCVT write element i of tD, below four times the elements per row of the wider format, as the exact result converted to DFMT; TMOV copies all of tA; TFILL writes element 0 of tA everywhere; TTRANS writes element 4j + r from tA.r element j; TRED reduces rows or columns; TMMA adds its blocks to the sixteen accumulators of tD.0, one rounding each. Elements beyond keep their values, and no byte outside the written rows changes. A control word with a reserved bit is ILLEGAL FMT. -/
def Obligations.TileInstructionsAtLevelZero : Prop :=
  (∀ (s : State) (w : BitVec 2) (d a b c : Reg) (i : Instr) (modes : Bool) (k : CtlWord) (n : Nat) (op : FVal → FVal → FVal), RowReady s → s.classBusy w = false →
      (i, modes, op) ∈ [(Instr.tadd .l0 w d a b c, false, FVal.add), (.tmul .l0 w d a b c, false, FVal.mul), (.tbaq .l0 w d a b c, true, FVal.add), (.tcvt .l0 w d a c, true, fun x _ => x)] →
      ctlWord (s.reg c) modes = some k → n = 4 * min (perRow k.sfmt.bits) (perRow k.dfmt.bits) →
      ∃ t, exec i s = .next t ∧ TileWritten s t d k.dfmt.bits n (rowEntry i (4 * rowsTouched k.dfmt.bits n) s.cur.pc) fun e =>
        convElem k.dfmt (if modes then k.rcw else rcwRne true) e
          (op (elemVal k.sfmt 0 ((s.tileElems a k.sfmt.bits).getD e 0)) (elemVal k.sfmt 0 ((s.tileElems b k.sfmt.bits).getD e 0))))
  ∧ (∀ (s : State) (w : BitVec 2) (d a : Reg), RowReady s → s.classBusy w = false →
      ∃ t, exec (.tmov .l0 w d a) s = .next t ∧ TileWritten s t d 32 256 (rowEntry (.tmov .l0 w d a) (16) s.cur.pc) fun e => (s.tileElems a 32).getD e 0)
  ∧ (∀ (s : State) (w : BitVec 2) (d a c : Reg) (k : CtlWord) (e n : Nat), RowReady s → s.classBusy w = false → ctlWord (s.reg c) false = some k → k.sfmt = k.dfmt → e = perRow k.sfmt.bits → n = 4 * e →
      (∃ t, exec (.tfill .l0 w d a c) s = .next t ∧ TileWritten s t d k.dfmt.bits n (rowEntry (.tfill .l0 w d a c) (16) s.cur.pc) fun _ => (s.tileElems a k.sfmt.bits).getD 0 0)
      ∧ (8 ≤ k.sfmt.bits → ∃ t, exec (.ttrans .l0 w d a c) s = .next t
          ∧ TileWritten s t d k.dfmt.bits n (rowEntry (.ttrans .l0 w d a c) (16) s.cur.pc) fun x => rowElem (s.row (tileRow0 a (x % 4))) k.sfmt.bits (x / 4)))
  ∧ (∀ (s : State) (w : BitVec 2) (d a c : Reg) (k : CtlWord) (e n : Nat), RowReady s → s.classBusy w = false → ctlWord (s.reg c) false = some k → k.op ≠ 3 → redFmt k.dfmt = true →
      e = perRow k.sfmt.bits → n = (if k.axis then e else 4) → n ≤ 4 * perRow k.dfmt.bits →
      ∃ t, exec (.tred .l0 w d a c) s = .next t ∧ TileWritten s t d k.dfmt.bits n (rowEntry (.tred .l0 w d a c) (4 * rowsTouched k.dfmt.bits n) s.cur.pc) fun x =>
        convElem k.dfmt (rcwRne true) 0 (reduceLine k.op (if k.axis then (List.range 4).map fun r => elemVal k.sfmt 0 (rowElem (s.row (tileRow0 a r)) k.sfmt.bits x)
          else (List.range e).map fun j => elemVal k.sfmt 0 (rowElem (s.row (tileRow0 a x)) k.sfmt.bits j))))
  ∧ (∀ (s : State) (w : BitVec 2) (d a b c : Reg) (i : Instr) (fa fb : Fmt) (ka kb : FloatAB) (ba bb : Fin 7) (q : Nat), RowReady s → s.classBusy w = false →
      (i, fa, fb) ∈ [(Instr.tmmaFloat .l0 w ka kb d a b c, FloatAB.fmt ka, FloatAB.fmt kb), (.tmmaBlock .l0 w ba bb d a b c, .b ba, .b bb)] →
      q = min 8 (min (perRow fa.bits / 48) (perRow fb.bits / 48)) →
      ∃ t, exec i s = .next t ∧ TileWritten s t d 32 16 { rowEntry i (48 * passesOf fa * q) s.cur.pc with product := true, check := none } fun x =>
        (List.range q).foldl (fun acc blk => addBlock acc
            ((List.range 48).map fun j => elemVal fa (rowElem (s.row (tileRow0 d 1)) 8 (8 * (x / 4) + blk)) (rowElem (s.row (tileRow0 a (x / 4))) fa.bits (48 * blk + j)))
            ((List.range 48).map fun j => elemVal fb (rowElem (s.row (tileRow0 d 1)) 8 (32 + 8 * (x % 4) + blk)) (rowElem (s.row (tileRow0 b (x % 4))) fb.bits (48 * blk + j))))
          (rowElem (s.row (tileRow0 d 0)) 32 x))
  ∧ (∀ (s : State) (w : BitVec 2) (d a b c : Reg) (i : Instr) (modes : Bool), s.classBusy w = false → ctlWord (s.reg c) modes = none →
      (i, modes) ∈ [(Instr.tadd .l0 w d a b c, false), (.tmul .l0 w d a b c, false), (.tbaq .l0 w d a b c, true), (.tcvt .l0 w d a c, true), (.tfill .l0 w d a c, false), (.ttrans .l0 w d a c, false),
        (.tred .l0 w d a c, false)] → exec i s = .next (s.raise 0x01 0x0A))
  ∧ (∀ (x : Word) (modes : Bool), x &&& 0xF8E0E0F0#64 ≠ 0 → ctlWord x modes = none)
  ∧ (∀ (s : State) (w : BitVec 2) (d a b c : Reg), s.classBusy w = true → exec (.tmov .l0 w d a) s = .next (s.waiting .stall) ∧ exec (.tadd .l0 w d a b c) s = .next (s.waiting .stall)
      ∧ exec (.tmmaFloat .l0 w .bf16 .bf16 d a b c) s = .next (s.waiting .stall))

/-- At L1 to L5 an instruction issues only with no store outstanding, its wait class free and fewer than 63 tile instructions outstanding, and waits otherwise. A refused control word is ILLEGAL FMT, an address register with a non-zero top byte ACCESS RANGE, and a descriptor address that is no multiple of 64 TILE DESC, each at its own PC. When every check passes, a root record with its kind, level, descriptors and the SEQ of its virtual cluster's next issue is added, TILES and that count rise by one, its claims are installed, and the strand goes on with its registers as they were; at L2 to L4 an open window is fixed and at L5 sealed, and only the seal writes memory. (That ADDR holds the register as it stands, when records and masks are read, and the order of the checks are the model's, logs 14, 73, 144.) -/
def Obligations.TileInstructionsIssue : Prop :=
  ∀ (s : State) (l : Level) (sn : Bool) (w : BitVec 2) (ka kb : FloatAB) (ba bb : Fin 7) (d a b c : Reg) (i : Instr) (t : TileArgs), l ≠ .l0 →
    (i, t) ∈ [(Instr.tmov l w d a, { kind := .mov, level := Level.num l, d := d, a := a }), (.tadd l w d a b c, { kind := .add, level := Level.num l, d := d, a := a, b := b }),
        (.tmul l w d a b c, { kind := .mul, level := Level.num l, d := d, a := a, b := b }), (.tcvt l w d a c, { kind := .cvt, level := Level.num l, d := d, a := a, c := c }),
        (.tbaq l w d a b c, { kind := .baq, level := Level.num l, d := d, a := a, b := b, c := c }), (.tsortc l sn w d a c, { kind := .sortc, level := Level.num l, snap := sn, d := d, a := a, c := c }),
        (.tcompact l sn w d a b c, { kind := .compact, level := Level.num l, snap := sn, d := d, a := a, b := b, c := c }), (.tred l w d a c, { kind := .red, level := Level.num l, d := d, a := a, c := c }),
        (.ttrans l w d a c, { kind := .trans, level := Level.num l, d := d, a := a }), (.tfill l w d a c, { kind := .fill, level := Level.num l, d := d, a := a }),
        (.tmmaFloat l w ka kb d a b c, { kind := .mma (FloatAB.fmt ka) (FloatAB.fmt kb), level := Level.num l, d := d, a := a, b := b, c := c }),
        (.tmmaBlock l w ba bb d a b c, { kind := .mma (.b ba) (.b bb), level := Level.num l, d := d, a := a, b := b, c := c }),
        (.tmmagFloat l sn w ka kb d a b c, { kind := .mmag (FloatAB.fmt ka) (FloatAB.fmt kb), level := Level.num l, snap := sn, d := d, a := a, b := b, c := c }),
        (.tmmagBlock l sn w ba bb d a b c, { kind := .mmag (.b ba) (.b bb), level := Level.num l, snap := sn, d := d, a := a, b := b, c := c })] →
    ((s.classBusy w = true ∨ s.counts.stores ≠ 0 ∨ 63 ≤ s.counts.tiles) → exec i s = .next (s.waiting .stall))
    ∧ (s.classBusy w = false → s.counts.stores = 0 → s.counts.tiles < 63 →
        (t.badValue (s.reg t.c) = true → exec i s = .next (s.raise 0x01 0x0A))
        ∧ (t.badValue (s.reg t.c) = false → (∃ x ∈ t.addrRegs, 2 ^ 56 ≤ (s.reg x).toNat) → ∃ x ∈ t.addrRegs, 2 ^ 56 ≤ (s.reg x).toNat ∧ exec i s = .next (s.raise 0x03 0x05 (s.reg x)))
        ∧ (t.badValue (s.reg t.c) = false → (∀ x ∈ t.addrRegs, (s.reg x).toNat < 2 ^ 56) → (s.reg t.d).toNat % 64 ≠ 0 → exec i s = .next (s.raise 0x05 0x01 (s.reg t.d))))
    ∧ (∀ (dd : Desc) (da db dc : Option Desc) (gs : List (Nat × Nat)) (gb ks : Nat) (r : TileRoot), TileAdmitted s w t dd da db dc gs gb ks r →
        ∃ u x, exec i s = .next u ∧ u.tiles = s.tiles ++ [x] ∧ { x with rsv := r.rsv, mask := r.mask, spans := r.spans, near := r.near } = r
          ∧ x.seq = s.vcn % 4096 * 2 ^ 52 + (s.vc s.vcn).tileIssue.toNat ∧ x.sid = s.cur.run.getD 0 ∧ x.pc = s.cur.pc ∧ x.kind = t.kind ∧ x.level = t.level ∧ x.d = dd ∧ x.a = da ∧ x.b = db ∧ x.c = dc
          ∧ u.counts.tiles = s.counts.tiles + 1 ∧ u.counts.loads = s.counts.loads ∧ u.counts.stores = 0 ∧ u.counts.copies = s.counts.copies
          ∧ (u.vc s.vcn).tileIssue = (s.vc s.vcn).tileIssue + 1 ∧ u.cur.pc = s.nextPc ∧ u.cur.regs = s.cur.regs ∧ (t.level ≠ 5 → u.mem = s.mem)
          ∧ u.claims = s.claims ++ s.tileClaims r.seq (s.operandsOf r)
          ∧ (2 ≤ t.level → s.cur.run ≠ none → u.cur.str.window.st ≠ .opened))

/-- An engine instruction waits for its wait class, for every older store and atomic, while COPIES stands at 63 or its banks lack room for its claims, and GET and PUT while sixteen of them stand at the core. GET and PUT refuse a range or count outside its bounds, and TCPY, TCPYA and ARMW an address outside the space, as ACCESS RANGE; a range that meets a tile slot is a precise TSLOT; a count of 0 completes at once. Otherwise one engine operation is added, with the planned moves of every page or element that passes its checks; its claims are installed and the strand goes on with every register as before. Only a PUT out of the panel may write memory at issue, for its seal. ARMW of a faulty address issues with nothing to move. -/
def Obligations.EngineInstructionsIssue : Prop :=
  (∀ (s : State) (w : BitVec 2) (d a b c : Reg) (i : Instr), (s.classBusy w = true ∨ s.counts.stores ≠ 0) →
      (i ∈ [Instr.get w d a b c, .put w d a b c, .tcpy w a b c] → exec i s = .next (s.waiting .stall))
      ∧ ((s.reg d).toNat < 32 → exec (.tcpya w d a b c) s = .next (s.waiting .stall))
      ∧ ∀ op, (s.reg a).toNat < 2 ^ 56 → exec (.armw w op d a b) s = .next (s.waiting .stall))
  ∧ (∀ (s : State) (w : BitVec 2) (d a b c : Reg) (i : Instr), s.classBusy w = false → s.counts.stores = 0 → i ∈ [Instr.get w d a b c, .put w d a b c] → s.reg b ≠ 0 → (s.reg b).toNat < 2 ^ 32 →
      (s.reg a).toNat + (s.reg b).toNat ≤ 2 ^ 56 → (s.reg d).toNat + (s.reg b).toNat ≤ 2 ^ 56 → (s.reg c).toNat < 2 ^ 57 →
      16 ≤ (s.engines.filter fun e => e.core == s.focus && (match e.kind with | .get | .put => true | _ => false)).length → exec i s = .next (s.waiting .stall))
  ∧ (∀ (s : State) (w : BitVec 2) (d a b c : Reg) (i : Instr), s.classBusy w = false → s.counts.stores = 0 → i ∈ [Instr.get w d a b c, .put w d a b c] →
      ((2 ^ 56 < (s.reg a).toNat + (s.reg b).toNat ∨ 2 ^ 56 < (s.reg d).toNat + (s.reg b).toNat ∨ 2 ^ 32 ≤ (s.reg b).toNat ∨ 2 ^ 57 ≤ (s.reg c).toNat) → ∃ v, exec i s = .next (s.raise 0x03 0x05 v))
      ∧ (s.reg b = 0 → (s.reg a).toNat < 2 ^ 56 → (s.reg d).toNat < 2 ^ 56 → (s.reg c).toNat < 2 ^ 57 → exec i s = .next (if s.reg c = 0 then s else s.fixWindow).advance))
  ∧ (∀ (s : State) (w : BitVec 2) (d a b c : Reg) (p : Plan), s.reg b ≠ 0 → (s.reg b).toNat < 2 ^ 32 →
      (s.reg a).toNat + (s.reg b).toNat ≤ 2 ^ 56 → (s.reg d).toNat + (s.reg b).toNat ≤ 2 ^ 56 → (s.reg c).toNat < 2 ^ 57 →
      (s.engines.filter fun e => e.core == s.focus && (match e.kind with | .get | .put => true | _ => false)).length < 16 →
      p = (copyPieces (2 * ((s.reg b).toNat / 2 ^ 16) + 4) (s.reg a).toNat (s.reg d).toNat (s.reg b).toNat).foldl (s.plan .outside .scratch true [] none) {} →
      (∀ arrs, EngineReady s w p (s.reg c) none arrs false → ∃ t, exec (.get w d a b c) s = .next t ∧ t.mem = s.mem
        ∧ EngineSent s t .get (s.reg b).toNat (p.moves.map fun m => { m with dst := s.withEngParts m.dst }) false (s.claimsFor s.nextId false p.claims))
      ∧ (s.classBusy w = false → s.counts.stores = 0 → (∀ e ∈ p.fails, e.2.precise = false) → (63 ≤ s.counts.copies ∨ s.claimsWait (s.claimsFor s.nextId false p.claims) p.claims = true) →
          exec (.get w d a b c) s = .next (s.waiting .stall))
      ∧ (s.classBusy w = false → s.counts.stores = 0 → ∀ e, p.fails.find? (fun e => e.2.precise) = some e → exec (.get w d a b c) s = .next (s.raise e.2.cause e.2.sub e.2.addr)))
  ∧ (∀ (s : State) (w : BitVec 2) (d a b c : Reg) (p : Plan) (peer : Option Nat) (ps : List Want), s.reg b ≠ 0 → (s.reg b).toNat < 2 ^ 32 →
      (s.reg a).toNat + (s.reg b).toNat ≤ 2 ^ 56 → (s.reg d).toNat + (s.reg b).toNat ≤ 2 ^ 56 → (s.reg c).toNat < 2 ^ 57 →
      (s.engines.filter fun e => e.core == s.focus && (match e.kind with | .get | .put => true | _ => false)).length < 16 →
      ps = copyPieces (2 * ((s.reg b).toNat / 2 ^ 16) + 4) (s.reg a).toNat (s.reg d).toNat (s.reg b).toNat → peer = ps.findSome? (fun x => x.dst.bind s.peerNamed) →
      p = ps.foldl (s.plan .scratch .outside true [] peer) {} →
      (∀ arrs, EngineReady s w p (s.reg c) peer arrs p.far → ∃ t, exec (.put w d a b c) s = .next t ∧ (p.far = false → t.mem = s.mem)
        ∧ EngineSent s t .put (s.reg b).toNat (p.moves.map fun m => { m with dst := s.withEngParts m.dst }) false (s.claimsFor s.nextId false p.claims))
      ∧ (s.classBusy w = false → s.counts.stores = 0 → (∀ e ∈ p.fails, e.2.precise = false) → (63 ≤ s.counts.copies ∨ s.claimsWait (s.claimsFor s.nextId false p.claims) p.claims = true) →
          exec (.put w d a b c) s = .next (s.waiting .stall))
      ∧ (s.classBusy w = false → s.counts.stores = 0 → ∀ e, p.fails.find? (fun e => e.2.precise) = some e → exec (.put w d a b c) s = .next (s.raise e.2.cause e.2.sub e.2.addr)))
  ∧ (∀ (s : State) (ss ds : EngSide) (fill : List Byte) (a d n : Nat) (la ld : Loc) (pg : Page), 0 < n → s.pageOf d = some pg → a % 2 ^ 16 + n ≤ 2 ^ 16 → d % 2 ^ 16 + n ≤ 2 ^ 16 →
      s.engPlace ss .rd a n 1 = .ok la → s.engPlace ds .wr d n 1 = .ok ld →
      (copyPieces (2 * (n / 2 ^ 16) + 4) a d n).foldl (s.plan ss ds true fill none) {}
        = { moves := [{ sva := a, src := some la, fill := fill, dst := { va := BitVec.ofInt 56 d, loc := ld, n := n } }], claims := [(false, la, n), (true, ld, n)],
            hbm := bitsOf pg.leaf 11 8 == 0x8, far := bitsOf pg.leaf 11 8 == 0x9 || bitsOf pg.leaf 11 8 == 0xA })
  ∧ (∀ (s : State) (w : BitVec 2) (d a b c : Reg) (i : Instr) (kind : EngKind) (f : Option Fmt) (p : Plan) (x y : Shape),
      (i = .tcpy w a b c ∧ kind = .tcpy ∧ f = none ∨ i = .tcpya w d a b c ∧ kind = .tcpya ∧ (s.reg d).toNat < 32 ∧ f = fmtOf (BitVec.ofNat 5 (s.reg d).toNat) ∧ (∃ g, f = some g ∧ addFmtOk g = true)) →
      (s.reg a).toNat < 2 ^ 56 → (s.reg b).toNat < 2 ^ 56 → (s.reg c).toNat < 2 ^ 57 → s.twoShapes (s.reg a).toNat (s.reg b).toNat f = .ok (x, y) →
      p = ((allIdx x.ext).map fun j => ({ src := if x.outside j then none else some (x.addr j), dst := if y.outside j then none else some (y.addr j), n := x.esize, al := x.esize } : Want)).foldl
        (s.plan .panel .panel false x.fill none) {} →
      (∀ arrs, EngineReady s w p (s.reg c) none arrs false → ∃ t, exec i s = .next t ∧ t.mem = s.mem
        ∧ EngineSent s t kind (x.elems * x.esize) (p.moves.map fun m => { m with dst := s.withEngParts m.dst }) false (s.claimsFor s.nextId false p.claims))
      ∧ (s.classBusy w = false → s.counts.stores = 0 → (∀ e ∈ p.fails, e.2.precise = false) → (63 ≤ s.counts.copies ∨ s.claimsWait (s.claimsFor s.nextId false p.claims) p.claims = true) →
          exec i s = .next (s.waiting .stall))
      ∧ (s.classBusy w = false → s.counts.stores = 0 → ∀ e, p.fails.find? (fun e => e.2.precise) = some e → exec i s = .next (s.raise e.2.cause e.2.sub e.2.addr)))
  ∧ (∀ (s : State) (w : BitVec 2) (d a b c : Reg) (i : Instr), s.classBusy w = false → s.counts.stores = 0 → (s.reg d).toNat < 32 → i ∈ [Instr.tcpy w a b c, .tcpya w d a b c] →
      (2 ^ 56 ≤ (s.reg a).toNat → exec i s = .next (s.raise 0x03 0x05 (s.reg a))) ∧ ((s.reg a).toNat < 2 ^ 56 → 2 ^ 56 ≤ (s.reg b).toNat → exec i s = .next (s.raise 0x03 0x05 (s.reg b))))
  ∧ (∀ (s : State) (w : BitVec 2) (d a b c : Reg), 32 ≤ (s.reg d).toNat → exec (.tcpya w d a b c) s = .next (s.raise 0x01 0x0A))
  ∧ (∀ (s : State) (w : BitVec 2) (op : AtomOp) (d a b : Reg), 2 ^ 56 ≤ (s.reg a).toNat → exec (.armw w op d a b) s = .next (s.raise 0x03 0x05 (s.reg a)))
  ∧ (∀ (s : State) (w : BitVec 2) (op : AtomOp) (d a b : Reg) (ph key n : Nat) (parts : List Part) (u : State), (s.reg a).toNat < 2 ^ 56 → s.classBusy w = false → s.counts.stores = 0 → s.counts.copies < 63 →
      n = aBytes (armwWidth op) → (s.reg a).toNat % n = 0 → s.xlate (.chiplet s.chipHere) s.asid s.vcn s.pos .at (s.reg a).toNat = .ok (.hbm ph key) → s.homeKey (.hbm ph key) ≠ none →
      s.claimsWait (s.claimsFor s.nextId false [(false, .hbm ph key, n), (true, .hbm ph key, n)]) [(false, .hbm ph key, n), (true, .hbm ph key, n)] = false →
      parts = (if 1 ≤ (s.log s.asid).mode then [partAt { va := BitVec.ofNat 56 (s.reg a).toNat, loc := .hbm ph key, n := n } ph (ph / 64 * 64) 64] else []) →
      s.reserve s.asid (s.segsReq [{ va := BitVec.ofNat 56 (s.reg a).toNat, loc := .hbm ph key, n := n, parts := parts }]) = some u →
      ∃ t, exec (.armw w op d a b) s = .next t ∧ t.mem = s.mem
        ∧ EngineSent s t (.armw op (s.reg b) (s.reg d)) 0 [{ sva := (s.reg a).toNat, src := some (.hbm ph key), dst := { va := BitVec.ofNat 56 (s.reg a).toNat, loc := .hbm ph key, n := n, parts := parts } }]
          false (s.claimsFor s.nextId false [(false, .hbm ph key, n), (true, .hbm ph key, n)]))
  ∧ (∀ (s : State) (w : BitVec 2) (op : AtomOp) (d a b : Reg) (ph key n : Nat), (s.reg a).toNat < 2 ^ 56 → s.classBusy w = false → s.counts.stores = 0 →
      (63 ≤ s.counts.copies → exec (.armw w op d a b) s = .next (s.waiting .stall))
      ∧ (n = aBytes (armwWidth op) → (s.reg a).toNat % n = 0 → s.xlate (.chiplet s.chipHere) s.asid s.vcn s.pos .at (s.reg a).toNat = .ok (.hbm ph key) → s.homeKey (.hbm ph key) ≠ none →
          s.claimsWait (s.claimsFor s.nextId false [(false, .hbm ph key, n), (true, .hbm ph key, n)]) [(false, .hbm ph key, n), (true, .hbm ph key, n)] = true →
          exec (.armw w op d a b) s = .next (s.waiting .stall)))
  ∧ (∀ (s : State) (w : BitVec 2) (op : AtomOp) (d a b : Reg), (s.reg a).toNat < 2 ^ 56 → s.classBusy w = false → s.counts.stores = 0 → s.counts.copies < 63 →
      (s.reg a).toNat % aBytes (armwWidth op) ≠ 0 →
      ∃ t, exec (.armw w op d a b) s = .next t ∧ t.mem = s.mem ∧ EngineSent s t (.armw op (s.reg b) (s.reg d)) 0 [] true [])

/-- CLAIM_RELEASE of an operation whose piece is readable and writable writes exactly the source's bytes to the destination and drops its claims. HOST_READ_COMPLETION records that the far end has performed it. ARRIVAL of an operation whose bytes have been performed writes its word back with COUNT, GEN, ERR and SAT as the pseudocode of the arrival gives, or adds the byte count to a completion counter; one that meets a claim takes its place behind those that came before, and one whose stamp is refused is STALE. ENGINE_COMPLETION of one that has arrived removes it, lowers COPIES by one, writes the old value to ARMW's register, and latches COPY ROLLUP, or SHAPE, for its strand's first boundary where it met a fault. -/
def Obligations.EngineOperationsMoveArriveAndComplete : Prop :=
  (∀ (s : State) (id : Nat) (e : EngOp) (m : EMove) (l : Loc), s.engine? id = some e → e.id = id → e.moved = false → e.moves = [m] → e.kind ∈ [EngKind.get, .put, .tcpy] → e.add = none → e.parked = none →
      e.out = [] ∧ e.again = [] ∧ e.hold = [] → m.src = some l → (∀ i o, l ≠ .peer i o) → (∀ i o, m.dst.loc ≠ .peer i o) → m.dst.parts = [] → s.migrations = [] → s.mem.wf = true →
      s.homeFault l = none → s.homeFault m.dst.loc = none → readErr s.mem s.lostDies (s.keyOf l) m.dst.n (s.flatOf l) m.dst.n = none →
      writeErr s.mem s.lostDies (s.keyOf m.dst.loc) m.dst.n (s.flatOf m.dst.loc) ((s.mem.read (s.flatOf l) m.dst.n).map some) = none →
      ∃ t, exec (.claimRelease id) s = .next t ∧ t.mem.read (s.flatOf m.dst.loc) m.dst.n = s.mem.read (s.flatOf l) m.dst.n
        ∧ (∀ a, a < s.flatOf m.dst.loc ∨ s.flatOf m.dst.loc + m.dst.n ≤ a → t.mem.byte a = s.mem.byte a)
        ∧ (∀ c ∈ t.claims, c.tile = true ∨ c.owner ≠ id) ∧ (∀ c ∈ s.claims, c.tile = true ∨ c.owner ≠ id → c ∈ t.claims) ∧ t.engine? id = some { e with moved := true })
  ∧ (∀ (s : State) (id : Nat) (e : EngOp), s.engine? id = some e → e.settled = true → s.hostIf.sigReads.lookup id = none → ∃ t, exec (.hostReadCompletion id) s = .next t ∧ t.engine? id = some { e with farDone := true } ∧ t.mem = s.mem)
  ∧ (∀ (s : State) (id : Nat) (e : EngOp) (c : Word) (g : Seg) (w : List Byte), s.engine? id = some e → e.performedAll = true → e.arrived = false → e.arr = some (c, g) →
      ((s.wayOf (s.arrStamps e) e.arrFwd = .waits ∨ (e.arrGens = [] ∧ s.genWaits e.core e.id (s.arrStamps e) = true)) → exec (.arrival id) s = .next s)
      ∧ (e.arrGens ≠ [] ∨ s.genWaits e.core e.id (s.arrStamps e) = false →
      (s.wayOf (s.arrStamps e) e.arrFwd = .held → ∃ t, exec (.arrival id) s = .next t ∧ t.engine? id = some { e with arrGens := s.arrStamps e, arrFwd := some s.nextId } ∧ t.mem = s.mem)
      ∧ (s.wayOf (s.arrStamps e) e.arrFwd = .stale → ∃ t, exec (.arrival id) s = .next t ∧ t.engine? id = some { e with arrGens := s.arrStamps e, staleAt := some (e.staleAt.getD s.ptime) } ∧ t.mem = s.mem)
      ∧ (s.wayOf (s.arrStamps e) e.arrFwd = .there → s.arrivalHeld e.arrSeq g = true → ∃ t, exec (.arrival id) s = .next t ∧ t.mem = s.mem
          ∧ t.engine? id = some { e with arrGens := s.arrStamps e, arrSeq := some (e.arrSeq.getD s.nextId) })
      ∧ (s.wayOf (s.arrStamps e) e.arrFwd = .there → s.homeFault g.loc = none → s.arrivalHeld e.arrSeq g = false → s.parkedBefore none [g] = false →
      s.readSegs [g] = .ok w → g.parts = [] → s.migrations = [] → s.mem.wf = true → g.n = (if c.getLsbD 56 then 8 else 16) →
      ∃ t, exec (.arrival id) s = .next t ∧ t.mem.read (s.flatOf g.loc) g.n = (if c.getLsbD 56 then toLe 8 (leNat w + e.bytes) else arrivalUpdate w e.bytes (decide (e.subs ≠ [])))
        ∧ (∀ a, a < s.flatOf g.loc ∨ s.flatOf g.loc + g.n ≤ a → t.mem.byte a = s.mem.byte a) ∧ t.engine? id = some { e with arrived := true })))
  ∧ (∀ (w : List Byte) (n : Nat) (err : Bool) (T C G H : Nat), w.length = 16 → T = leNat (w.take 4) → C = leNat ((w.drop 4).take 4) + n → G = leNat ((w.drop 8).take 4) → H = leNat (w.drop 12) →
      arrivalUpdate w n err = toLe 4 T
        ++ (if T ≠ 0 ∧ T ≤ C then toLe 4 (C % T) ++ toLe 4 ((G + C / T) % 2 ^ 32) else if 0xFFFFFFFF < C then toLe 4 0xFFFFFFFF ++ toLe 4 G else toLe 4 C ++ toLe 4 G)
        ++ toLe 4 (H / 4 * 4 + (if err then 1 else H % 2) + 2 * (if ¬ (T ≠ 0 ∧ T ≤ C) ∧ 0xFFFFFFFF < C then 1 else H / 2 % 2)))
  ∧ (∀ (s : State) (id : Nat) (e : EngOp), s.engine? id = some e → e.performedAll = true → e.arrived = true → (∀ c ∈ s.claims, c.tile = true ∨ c.owner ≠ id) →
      ∃ t, exec (.engineCompletion id) s = .next t ∧ t.engines = s.engines.filter (fun x => x.id != id) ∧ t.mem = s.mem
        ∧ (s.cur.run = some e.sid → t.counts.copies = s.counts.copies - 1)
        ∧ (∀ d, e.dest = some d → e.subs = [] → e.core = s.focus → d ≠ 0 → t.reg d = e.result) ∧ (e.dest = none → t.cur.regs = s.cur.regs)
        ∧ ∀ y, s.strand? e.sid = some y → ∃ z, t.strand? e.sid = some z
          ∧ (e.shapeErr = none → e.subs = [] → z.pending = y.pending)
          ∧ (e.shapeErr = none → e.subs ≠ [] → ∃ x, z.pending = y.pending ++ [x] ∧ x.cause = 0x06 ∧ x.sub = 0x02 ∧ x.fpc = e.pc ∧ x.roll = true ∧ x.subs = e.subs.take 32)
          ∧ (∀ a, e.shapeErr = some a → ∃ x, z.pending = y.pending ++ [x] ∧ x.cause = 0x06 ∧ x.sub = 0x01 ∧ x.fpc = e.pc ∧ x.addr = a))

/-- At its home a load reads its bytes, a store writes its bytes and no others, an atomic replaces its word by f(old), WAITA completes or is watched; a store with log space waits for its log writer, which writes the entry first; a claim holds an access. STORES falls when a store or atomic is performed, that of a scatter with its last element, LOADS and the class counts when the answer reaches the core, which writes the destination as its width says. A merge group is carried by its first request. A parked atomic is performed when replayed; a refused one is sent again; one that meets a drained cluster goes to its shadow; a stale one is retranslated or is VCNGONE; a watch without a place takes its latch. -/
def Obligations.AccessesArePerformedAndAnswered : Prop :=
  (∀ (s : State) (id : Nat) (a : Access) (bs : List Byte), ArrivesHere s id a → a.stage ≠ .parked → a.op = .load → s.claimed false a.segs = false → s.readSegs a.segs = .ok bs → s.staging a = [] →
      ∃ t, exec (.homeAccess id) s = .next t ∧ t.access? id = some { a with stage := .performed bs 0 } ∧ t.mem = s.mem ∧ t.counts = s.counts)
  ∧ (∀ (s : State) (id : Nat) (a : Access), ArrivesHere s id a → a.stage ≠ .parked → (a.op = .load ∨ a.op = .store) → s.claimed (a.op == .store) a.segs = true →
      ∃ t, exec (.homeAccess id) s = .next t ∧ t.access? id = some { a with stage := .held, seqNo := if a.stage = .held ∨ a.replayed = true then a.seqNo else s.nextId } ∧ t.mem = s.mem)
  ∧ (∀ (s : State) (id : Nat) (a : Access) (g : Seg), ArrivesHere s id a → a.stage ≠ .parked → a.op = .store → s.claimed true a.segs = false → a.segs = [g] → g.data.length = g.n → s.migrations = [] → s.mem.wf = true →
      (a.rsv ≠ [] → ∃ t, exec (.homeAccess id) s = .next t ∧ t.access? id = some { a with stage := .logWait } ∧ t.mem = s.mem)
      ∧ (a.rsv = [] → writeErr s.mem s.lostDies (s.keyOf g.loc) g.n (s.flatOf g.loc) g.data = none →
          ∃ t b, exec (.homeAccess id) s = .next t ∧ t.access? id = some b ∧ b.stage = .performed [] 0
            ∧ (∀ k (hk : k < g.data.length), t.mem.byte (s.flatOf g.loc + k) = g.data[k].getD (s.mem.byte (s.flatOf g.loc + k)))
            ∧ (∀ x, x < s.flatOf g.loc ∨ s.flatOf g.loc + g.n ≤ x → t.mem.byte x = s.mem.byte x)
            ∧ (s.cur.run = some a.sid → (a.group = none → t.counts.stores = s.counts.stores - 1)
                ∧ ((∃ c ∈ s.flight, c.id ≠ a.id ∧ c.group = a.group ∧ a.group ≠ none ∧ c.stage.isPerformed = false) → t.counts.stores = s.counts.stores))))
  ∧ (∀ (s : State) (id : Nat) (a : Access) (i : Instr) (g : Seg) (op : AtomOp) (n : AWidth) (b c : Word) (bs : List Byte), ArrivesHere s id a →
      (i = .homeAccess id ∧ a.stage ≠ .parked ∨ i = .faultQueueReplay id ∧ a.stage = .parked) → a.op = .atomic op n b c → s.claimed true a.segs = false → a.segs = [g] → a.rsv = [] → a.merged = [] → a.group = none →
      s.migrations = [] → s.rewriting a.segs = false → s.mem.wf = true → s.readSegs [{ g with n := aBytes n }] = .ok bs →
      ∃ t x, exec i s = .next t ∧ t.access? id = some x ∧ x.stage = .performed [] (BitVec.ofNat 64 (leNat bs)) ∧ (s.cur.run = some a.sid → t.counts.stores = s.counts.stores - 1)
        ∧ (∀ v, atomApply op n (leNat bs) b.toNat c.toNat = some v → t.mem.read (s.flatOf g.loc) (aBytes n) = toLe (aBytes n) v)
        ∧ (atomApply op n (leNat bs) b.toNat c.toNat = none → t.mem = s.mem)
        ∧ ∀ y, y < s.flatOf g.loc ∨ s.flatOf g.loc + aBytes n ≤ y → t.mem.byte y = s.mem.byte y)
  ∧ (∀ (n : AWidth) (w o b c : Nat), w = 8 * aBytes n → o < 2 ^ w → b < 2 ^ w → c < 2 ^ w →
      atomApply .add n o b c = some ((o + b) % 2 ^ w) ∧ atomApply .minu n o b c = some (min o b) ∧ atomApply .maxu n o b c = some (max o b) ∧ atomApply .and n o b c = some (o &&& b)
      ∧ atomApply .or n o b c = some (o ||| b) ∧ atomApply .xor n o b c = some (o ^^^ b) ∧ atomApply .swp n o b c = some b
      ∧ atomApply .cas n o b c = (if o = c then some b else none)
      ∧ (∃ v, atomApply .min n o b c = some v ∧ (v = o ∨ v = b) ∧ sextInt w v = min (sextInt w o) (sextInt w b))
      ∧ (∃ v, atomApply .max n o b c = some v ∧ (v = o ∨ v = b) ∧ sextInt w v = max (sextInt w o) (sextInt w b)))
  ∧ (∀ (s : State) (id : Nat) (a : Access) (g : Seg) (c : Word) (bs : List Byte), ArrivesHere s id a → a.stage ≠ .parked → a.op = .waita c → a.segs = [g] → s.claimed false a.segs = false → s.readSegs a.segs = .ok bs →
      (BitVec.ofNat 64 (leNat bs) ≠ c → ∃ t, exec (.homeAccess id) s = .next t ∧ t.access? id = some { a with stage := .performed bs 0 } ∧ t.mem = s.mem)
      ∧ (BitVec.ofNat 64 (leNat bs) = c → s.passLatched a.sid = true → ∃ t, exec (.homeAccess id) s = .next t ∧ t.access? id = some { a with stage := .performed bs 0 } ∧ t.mem = s.mem)
      ∧ (BitVec.ofNat 64 (leNat bs) = c → s.passLatched a.sid = false → ∃ t x, exec (.homeAccess id) s = .next t ∧ t.access? id = some { a with stage := .watching } ∧ t.watches = s.watches ++ [x]
          ∧ x.sid = a.sid ∧ x.access = a.id ∧ x.cmp = c ∧ t.mem = s.mem))
  ∧ (∀ (s : State) (id : Nat) (a : Access) (bs : List Byte) (old : Word), s.access? id = some a → a.stage = .performed bs old → a.core = s.focus → s.cur.run = some a.sid → a.group = none → (∀ k x y, a.op ≠ .spawn k x y) → (∀ k x y, a.op ≠ .qpush k x y) →
      ∃ t, exec (.accessResponse id) s = .next t ∧ t.flight = s.flight.filter (fun b => b.id != a.id)
        ∧ t.counts = (if a.op.isLoad then { s.counts with loads := s.counts.loads - 1 } else a.cls.foldl Counts.subCls s.counts)
        ∧ (∀ d n, a.dest = .scalar d n → d ≠ 0 → t.reg d = memExtend n (leNat (bs.take (memBytes n))))
        ∧ (∀ d b, a.dest = .pair d b → (b ≠ 0 → t.reg b = BitVec.ofNat 64 (leNat ((bs.drop 8).take 8))) ∧ (d ≠ 0 → d ≠ b → t.reg d = BitVec.ofNat 64 (leNat (bs.take 8))))
        ∧ (∀ d n o x y, a.dest = .atomic d n → a.op = .atomic o n x y → d ≠ 0 → t.reg d = atomReturned o n old.toNat)
        ∧ (∀ d, a.dest = .status d → d ≠ 0 → t.reg d = old)
        ∧ (∀ d x f h, a.dest = .row d x f h → s.lostWords x d (wroteBy f h) = [] → t.row d = overlay (rowFrom (s.row d) bs f) h)
        ∧ (∀ r, r ∉ a.dest.regs → t.reg r = s.reg r)
        ∧ (s.cur.gate = .access a.id → t.cur.gate = .none ∧ t.cur.pc = s.nextPc) ∧ (s.cur.gate ≠ .access a.id → t.cur.pc = s.cur.pc ∧ t.cur.gate = s.cur.gate))
  ∧ (∀ (s : State) (id : Nat) (a : Access) (x : Trap), s.access? id = some a → a.stage = .failed x → a.core = s.focus → s.cur.run = some a.sid → a.group = none → (∀ k y z, a.op ≠ .spawn k y z) → (∀ k y z, a.op ≠ .qpush k y z) → s.cur.str.st ≠ .blocked →
      ∃ t, exec (.accessResponse id) s = .next t ∧ t.cur.str.pending = s.cur.str.pending ++ [x] ∧ t.cur.regs = s.cur.regs ∧ t.mem = s.mem ∧ t.cur.pc = s.cur.pc
        ∧ t.counts.loads = s.counts.loads - (if a.op.isLoad then 1 else 0) ∧ t.counts.stores = s.counts.stores - (if a.op.isLoad then 0 else 1))
  ∧ (∀ (n : AWidth) (old : Nat), old < 2 ^ (8 * aBytes n) → (∀ o, o ≠ .min → o ≠ .max → atomReturned o n old = BitVec.ofNat 64 old)
      ∧ ∀ o, o = .min ∨ o = .max → (atomReturned o n old).toInt = sextInt (8 * aBytes n) old)
  ∧ (∀ (s : State) (ids : List Nat) (a : Access) (l : List Access), ids.filterMap s.access? = a :: l → l ≠ [] → (a :: l).length ≤ 16 → (a :: l).length = ids.length → ids.Nodup →
      (∀ b ∈ a :: l, s.loose b = true) → (∀ b ∈ l, s.mergeWith a b = true) →
      ∃ t, exec (.atomicMerge ids) s = .next t ∧ t.access? a.id = some { a with merged := l.map fun b => b.id } ∧ t.mem = s.mem ∧ ∀ b ∈ l, ∃ x, t.access? b.id = some x ∧ x.stage = .merged)
  ∧ (∀ (s : State) (id : Nat) (a : Access), s.access? id = some a → a.stage = .refused →
      (s.ptime < resendAt a.staleAt → exec (.faultQueueResend id) s = .next s)
      ∧ (resendAt a.staleAt ≤ s.ptime → ∃ t, exec (.faultQueueResend id) s = .next t ∧ t.access? id = some { a with stage := .issued } ∧ t.mem = s.mem))
  ∧ (∀ (s : State) (id : Nat) (a : Access), s.access? id = some a → a.stage = .issued → s.arrive a = .forward → s.behindOlder a = false →
      ((s.heldFor a.gens).length < 2048 → ∃ t, exec (.forwardedMessage id) s = .next t ∧ t.access? id = some { a with stage := .forwarded, seqNo := s.nextId } ∧ t.mem = s.mem)
      ∧ (2048 ≤ (s.heldFor a.gens).length → ∃ t, exec (.forwardedMessage id) s = .next t ∧ t.access? id = some { a with stage := .stale, staleAt := s.ptime } ∧ t.mem = s.mem))
  ∧ (∀ (s : State) (id : Nat) (a : Access), s.access? id = some a → a.stage = .stale → (s.ptime < resendAt a.staleAt → exec (.staleResend id) s = .next s) ∧ (resendAt a.staleAt ≤ s.ptime →
      ((∀ p ∈ a.gens, (s.entryAt (a.core / 8) p.1).valid = true) → ∃ t, exec (.staleResend id) s = .next t
        ∧ t.access? id = some { a with stage := .issued, gens := a.gens.map fun p => (p.1, (s.entryAt (a.core / 8) p.1).gen) } ∧ t.mem = s.mem)
      ∧ ((∃ p ∈ a.gens, (s.entryAt (a.core / 8) p.1).valid = false) → ∃ t x, exec (.staleResend id) s = .next t ∧ t.access? id = some { a with stage := .failed x, rsv := [] } ∧ x.cause = 0x03 ∧ x.sub = 0x07 ∧ x.fpc = a.pc)))
  ∧ (∀ (s : State) (id : Nat) (x : Watch), s.watches.find? (fun w => w.access == id && w.bank == noBank) = some x → s.cur.run = some x.sid → s.cur.str.st ≠ .blocked →
      (∀ a ∈ s.flight, a.sid = x.sid → a.stage ≠ .watching) → ∃ t, exec (.watchTimeout id) s = .next t ∧ t.cur.str.passLatch = true ∧ x ∉ t.watches ∧ t.mem = s.mem)
  ∧ (∀ (s : State) (id : Nat) (x : Watch) (a : Access), s.watches.find? (fun w => w.access == id && w.bank == noBank) = some x →
      s.flight.find? (fun a => a.sid == x.sid && a.stage == .watching && (match a.op with | .waita _ => true | _ => false)) = some a →
      ∃ t b, exec (.watchTimeout id) s = .next t ∧ t.access? a.id = some b ∧ b.stage = .performed (s.watchedWord a) 0 ∧ t.mem = s.mem)
  ∧ (∀ (s u : State) (id : Nat) (a : Access) (g : Seg), s.access? id = some a → a.stage = .logWait → s.arrive a = .here → s.noPlace a = none → s.claimed true a.segs = false → a.op = .store → a.segs = [g] → s.migrations = [] →
      writeErr s.mem s.lostDies (s.keyOf g.loc) g.n (s.flatOf g.loc) g.data = none → (s.modAccess id fun x => { x with rsv := [] }).appendParts a.asid a.win a.winStamp .store g.parts = .ok u →
      ∃ t x, exec (.logEntryAccept id) s = .next t ∧ t.mem = u.mem.store (s.keyOf g.loc) (s.flatOf g.loc) g.data ∧ t.access? id = some x ∧ x.stage = .performed [] 0)

/-- A LINE load takes one signal and returns the number that stood pending, or waits; a LINE store adds its low 32 bits and EVSIG one, saturating. A BARCFG store sets the configuration unless arrivals stand. A BARARR load arrives: at COUNT 0 it is ACCESS TARGET; below COUNT it waits; the last arrival of a root starts the next episode and gives every waiter SPREAD and EPISODE, and that of a chained barrier goes to its parent; a parent outside the map cancels the episode. A MUTEX load takes a free mutex and returns 1, or waits; the holder's store passes it on, any other is ignored. Configurations and last words are read as they stand. (What EPISODE and IMBAL count is the model's reading, log 85.) -/
def Obligations.EventUnitsServeTheirRegisters : Prop :=
  (∀ (s : State) (id v e off : Nat) (a : Access), ArrivesHere s id a → a.op = .eventLoad off → a.unitReg = some (v, .line e) → (s.vc v).lineWaiters.getD e [] = [] →
      (∀ b ∈ s.flight, b.sid = a.sid → b.stage ≠ .watching) →
      (∀ k, (s.vc v).lines.getD e 0 = k + 1 → ∃ t b, exec (.eventLineLoad id) s = .next t ∧ (t.vc v).lines.getD e 0 = k ∧ t.access? id = some b ∧ b.stage = .performed (wordLe (BitVec.ofNat 64 (k + 1))) 0 ∧ t.mem = s.mem)
      ∧ ((s.vc v).lines.getD e 0 = 0 → ∃ t, exec (.eventLineLoad id) s = .next t ∧ (t.vc v).lineWaiters.getD e [] = [a.waiter] ∧ t.access? id = some { a with stage := .watching } ∧ t.mem = s.mem))
  ∧ (∀ (s : State) (id v e n off : Nat) (w : Word) (a : Access), ArrivesHere s id a → s.releaseMet a 4 = true → (a.op = .eventStore off w ∧ a.unitReg = some (v, .line e) ∧ n = bitsOf w 31 0 ∨ a.op = .evsig v e ∧ n = 1) →
      ((s.vc v).lineWaiters.getD e [] = [] → ∃ t, exec (.eventLineStore id) s = .next t ∧ (t.vc v).lines.getD e 0 = min 0xFFFFFFFF ((s.vc v).lines.getD e 0 + n)
        ∧ t.access? id = some { a with stage := .performed [] 0 } ∧ t.mem = s.mem ∧ (s.cur.run = some a.sid → a.group = none → t.counts.stores = s.counts.stores - 1))
      ∧ (∀ y x, (s.vc v).lineWaiters.getD e [] = [y] → (s.vc v).lines.getD e 0 = 0 → 0 < n → s.coreOf y.sid = none → s.strands.get? y.sid = some x → (∀ b ∈ s.flight, b.sid ≠ y.sid) →
          ∃ t z, exec (.eventLineStore id) s = .next t ∧ t.strands.get? y.sid = some z ∧ z.grant = some (.value (BitVec.ofNat 64 (min 0xFFFFFFFF n))) ∧ (t.vc v).lineWaiters.getD e [] = []))
  ∧ (∀ (s : State) (id v b off : Nat) (w : Word) (a : Access), ArrivesHere s id a → a.op = .eventStore off w → a.unitReg = some (v, .barcfg b) →
      ∃ t, exec (.barcfgStore id) s = .next t ∧ t.access? id = some { a with stage := .performed [] 0 } ∧ t.mem = s.mem
        ∧ ((s.bar v b).arrivals ≠ [] → t.bar v b = s.bar v b)
        ∧ ((s.bar v b).arrivals = [] → (w.getLsbD 16 = true → ∃ e c, s.ctxOfVcn v = some (e, c) ∧ c.hasVcn (w.extractLsb' 17 12).toNat = true) →
            t.bar v b = { s.bar v b with count := (w.extractLsb' 0 16).toNat, chain := w.getLsbD 16, pvcn := (w.extractLsb' 17 12).toNat, pbar := (w.extractLsb' 29 3).toNat, scope := (w.extractLsb' 32 2).toNat })
        ∧ (w.getLsbD 16 = true → (∀ e c, s.ctxOfVcn v = some (e, c) → c.hasVcn (w.extractLsb' 17 12).toNat = false) → t.bar v b = s.bar v b))
  ∧ (∀ (s : State) (id v b off : Nat) (a : Access), ArrivesHere s id a → a.op = .eventLoad off → a.unitReg = some (v, .bararr b) → s.releaseMet a (max 2 ((s.bar v b).scope + 1)) = true →
      ((s.bar v b).count = 0 → ∃ t x, exec (.barrierArrival id) s = .next t ∧ t.access? id = some { a with stage := .failed x, rsv := [] } ∧ x.cause = 0x03 ∧ x.sub = 0x02 ∧ x.fpc = a.pc ∧ x.addr = a.va.zeroExtend 64 ∧ t.bar v b = s.bar v b)
      ∧ ((s.bar v b).complete = false → (s.bar v b).arrivals.length + 1 < (s.bar v b).count →
          ∃ t x, exec (.barrierArrival id) s = .next t ∧ t.access? id = some { a with stage := .watching } ∧ (t.bar v b).arrivals = (s.bar v b).arrivals ++ [x] ∧ x.waiter = some a.waiter ∧ x.first = s.dieTime (chipOf (s.host v)) ∧ x.last = x.first ∧ t.mem = s.mem)
      ∧ ((s.bar v b).complete = false → (s.bar v b).count = (s.bar v b).arrivals.length + 1 → (s.bar v b).chain = true →
          ∃ t x, exec (.barrierArrival id) s = .next t ∧ (t.bar v b).complete = true ∧ (t.bar v b).arrivals.length = (s.bar v b).count ∧ t.parentArrivals = s.parentArrivals ++ [(v, b, x)] ∧ x.child = (v, b))
      ∧ ((s.bar v b).complete = false → (s.bar v b).count = (s.bar v b).arrivals.length + 1 → (s.bar v b).chain = false → (∀ e c, s.ctxOfVcn v = some (e, c) → c.armed = none) →
          ∃ t, exec (.barrierArrival id) s = .next t ∧ (t.bar v b).arrivals = [] ∧ (t.bar v b).episode = (s.bar v b).episode + 1 ∧ ((t.bar v b).val.extractLsb' 32 32) = (s.bar v b).episode + 1 ∧ t.mem = s.mem
            ∧ ((s.bar v b).arrivals = [] → (∀ x ∈ s.flight, x.sid = a.sid → x.stage ≠ .watching) → (t.bar v b).val.extractLsb' 0 32 = 0 ∧ ∃ x, t.access? id = some x ∧ x.stage = .performed (wordLe (t.bar v b).val) 0)))
  ∧ (∀ (s : State) (v b : Nat) (x : Nat × Nat × BarArrival) (c : Barrier), s.parentArrivals.find? (fun x => x.1 == v && x.2.1 == b) = some x → c = s.bar v b → c.held = [] → (v, b) ≠ (c.pvcn, c.pbar) →
      ((s.mapNow c.pvcn).valid = true → (s.bar c.pvcn c.pbar).complete = false → (s.bar c.pvcn c.pbar).arrivals.length + 1 < (s.bar c.pvcn c.pbar).count →
        ∃ t, exec (.barrierParentArrival v b) s = .next t ∧ (t.bar c.pvcn c.pbar).arrivals = (s.bar c.pvcn c.pbar).arrivals ++ [x.2.2] ∧ x ∉ t.parentArrivals ∧ t.bar v b = c)
      ∧ (((s.mapNow c.pvcn).valid = false ∨ (s.bar c.pvcn c.pbar).count = 0) → ∃ t, exec (.barrierParentArrival v b) s = .next t ∧ (t.bar v b).arrivals = [] ∧ (t.bar v b).complete = false ∧ (t.bar v b).val = c.val ∧ x ∉ t.parentArrivals))
  ∧ (∀ (s : State) (v b : Nat) (x : Nat × Nat × Grant) (w : Word), s.releases.find? (fun x => x.1 == v && x.2.1 == b) = some x → x.2.2 = .value w → (s.bar v b).held = [] → (∀ y ∈ (s.bar v b).arrivals, y.waiter ≠ none) →
      ∃ t, exec (.barrierRelease v b) s = .next t ∧ (t.bar v b).val = w ∧ (t.bar v b).arrivals = [] ∧ (t.bar v b).complete = false ∧ t.releases = s.releases.filter (fun y => y != x)
        ∧ (t.bar v b).episode = (s.bar v b).episode + (if (s.bar v b).complete = true ∧ (s.bar v b).withheld = none then 1 else 0))
  ∧ (∀ (s : State) (id v m off : Nat) (a : Access), ArrivesHere s id a → a.op = .eventLoad off → a.unitReg = some (v, .mutex m) →
      (((s.vc v).mutexes.getD m {}).holder = none → ∃ t, exec (.mutexAcquire id) s = .next t ∧ ((t.vc v).mutexes.getD m {}).holder = some a.sid ∧ t.access? id = some { a with stage := .performed (wordLe 1) 0 } ∧ t.mem = s.mem)
      ∧ (∀ h, ((s.vc v).mutexes.getD m {}).holder = some h → ∃ t, exec (.mutexAcquire id) s = .next t ∧ ((t.vc v).mutexes.getD m {}).holder = some h
          ∧ ((t.vc v).mutexes.getD m {}).waiters = ((s.vc v).mutexes.getD m {}).waiters ++ [a.waiter] ∧ t.access? id = some { a with stage := .watching } ∧ t.mem = s.mem))
  ∧ (∀ (s : State) (id v m off : Nat) (w : Word) (a : Access), ArrivesHere s id a → s.releaseMet a 4 = true → a.op = .eventStore off w → a.unitReg = some (v, .mutex m) →
      ∃ t, exec (.mutexRelease id) s = .next t ∧ t.mem = s.mem ∧ (∃ x, t.access? id = some x ∧ x.stage = .performed [] 0)
        ∧ (((s.vc v).mutexes.getD m {}).holder ≠ some a.sid → (t.vc v).mutexes.getD m {} = (s.vc v).mutexes.getD m {})
        ∧ (((s.vc v).mutexes.getD m {}).holder = some a.sid → ((s.vc v).mutexes.getD m {}).waiters = [] → ((t.vc v).mutexes.getD m {}).holder = none)
        ∧ (∀ y l, ((s.vc v).mutexes.getD m {}).holder = some a.sid → ((s.vc v).mutexes.getD m {}).waiters = y :: l → ((t.vc v).mutexes.getD m {}).holder = some y.sid ∧ ((t.vc v).mutexes.getD m {}).waiters = l))
  ∧ (∀ (s : State) (id v off : Nat) (a : Access) (r : EvReg), ArrivesHere s id a → a.stage ≠ .parked → a.op = .eventLoad off → a.unitReg = some (v, r) →
      (∀ b, r = .barcfg b → ∃ t, exec (.homeAccess id) s = .next t ∧ t.access? id = some { a with stage := .performed (wordLe (s.bar v b).cfgWord) 0 } ∧ t.mem = s.mem)
      ∧ (∀ b, r = .barval b → ∃ t, exec (.homeAccess id) s = .next t ∧ t.access? id = some { a with stage := .performed (wordLe (s.bar v b).val) 0 } ∧ t.mem = s.mem)
      ∧ (r = .other → ∃ t, exec (.homeAccess id) s = .next t ∧ t.access? id = some { a with stage := .performed (wordLe 0) 0 } ∧ t.mem = s.mem))
  ∧ (∀ x : Barrier, x.cfgWord.extractLsb' 0 16 = BitVec.ofNat 16 x.count ∧ x.cfgWord.getLsbD 16 = x.chain ∧ x.cfgWord.extractLsb' 17 12 = BitVec.ofNat 12 x.pvcn ∧ x.cfgWord.extractLsb' 29 3 = BitVec.ofNat 3 x.pbar
      ∧ x.cfgWord.extractLsb' 32 2 = BitVec.ofNat 2 x.scope ∧ x.cfgWord.extractLsb' 34 14 = 0 ∧ x.cfgWord.extractLsb' 48 16 = BitVec.ofNat 16 (min x.arrivals.length 0xFFFF))

/-- A root behind no older conflict is decomposed: the mask of a compaction is read once and kept, its pieces are dealt to its children in order, each leaf once; behind one it waits, and a mask that cannot be read, or members that differ, roll it up without pieces. The oldest READY piece of a queue is staged; the copy ends RUNNING, with what was copied and with a fault charged to its block. A block is added once, and KBLK rises by one, the leaf going on, ending, or giving the unit up for a drain, still RUNNING (log 167); a residue failure is retried once and then is MEMERR RESIDUE. The matrix unit and the lane groups go to the lowest pass, ties to the lowest position, which is charged; a candidate that has become ready first takes the lowest pass of those that were ready before it, where that is larger. A group released lets its leaf write, or count its items. A piece reports; after the last one the items are placed, or the instruction completes and TILES falls once its release's older accesses have been performed, or, where a piece is FAULTED, one ROLLUP trap goes to the strand. A thief takes a stealable piece, which is then in its queue and marked STOLEN. A gateway core writes its block. Leaf clocks and the instants of grants are the model's, and so are the share of another panel and what is ready in the previous clock (log 40, 41, 42, 43, 77). -/
def Obligations.TileTasksAreDealtRunAndReported : Prop :=
  (∀ (s : State) (seq : Nat) (r : TileRoot), s.root? seq = some r → r.st = .waiting →
      (s.olderConflict r = true ∨ r.gateway = true ∧ s.gatewayCores = [] → exec (.tileDecompose seq) s = .next s)
      ∧ (s.olderConflict r = false → (r.gateway = true → s.gatewayCores ≠ []) → r.leafUnits ≠ [] → s.membersDiffer r = true → s.cur.run = some r.sid → s.cur.str.ending = false →
          ∃ t q x, exec (.tileDecompose seq) s = .next t ∧ t.root? seq = some q ∧ q.st = .faulted ∧ q.leaves = r.leaves ∧ q.own = some x ∧ x.cause = 0x05 ∧ x.sub = 0x02 ∧ x.level = r.level ∧ t.mem = s.mem)
      ∧ (∀ f, s.olderConflict r = false → (r.gateway = true → s.gatewayCores ≠ []) → r.leafUnits ≠ [] → s.membersDiffer r = false → s.readMask r = .error f → s.cur.run = some r.sid → s.cur.str.ending = false →
          ∃ t q x, exec (.tileDecompose seq) s = .next t ∧ t.root? seq = some q ∧ q.st = .faulted ∧ q.leaves = r.leaves ∧ q.own = some x ∧ x.cause = f.cause ∧ x.sub = f.sub ∧ x.addr = f.addr ∧ t.mem = s.mem)
      ∧ (∀ m, s.olderConflict r = false → (r.gateway = true → s.gatewayCores ≠ []) → r.leafUnits ≠ [] → s.membersDiffer r = false → s.readMask r = .ok m →
          ∃ t q, exec (.tileDecompose seq) s = .next t ∧ t.root? seq = some q ∧ q.st = .running ∧ q.mask = m ∧ t.mem = s.mem ∧ q.mids = s.midRecords r r.leafUnits.length
          ∧ q.leaves.map (fun l => (l.idx, l.vcn)) = s.deal r r.leafUnits.length
          ∧ ∀ l ∈ q.leaves, l.kblk = 0 ∧ l.stolen = false ∧ (r.gateway = true → l.gate = s.gatewayCores[l.idx % s.gatewayCores.length]?) ∧ l.st = (if r.gateway = true ∨ farVcn ≤ l.vcn then .running else .ready)
              ∧ (l.group, l.rowOrg, l.rowCnt, l.colOrg, l.colCnt) = r.leafUnits.getD l.idx (0, 0, 0, 0, 0)))
  ∧ (∀ (vs : List Nat) (n : Nat), vs ≠ [] → (dealAmong vs 0 n).map (fun p => p.1) = List.range n ∧ ∀ p ∈ dealAmong vs 0 n, p.2 ∈ vs)
  ∧ (∀ (s : State) (seq i : Nat) (r : TileRoot) (l : Leaf), s.leaf? seq i = some (r, l) → l.st = .ready → l.stealTo = none → s.clusterWorks (s.host l.vcn) = true →
      s.tasksAt l.vcn (fun q x => sameQueue r q && x.st == .staging) = [] →
      (∀ x ∈ s.tasksAt l.vcn (fun q x => sameQueue r q && x.st == .ready && x.stealTo.isNone), (x.1.seq, x.2.idx) = (r.seq, l.idx) ∨ l.order < x.2.order) →
      ∃ t q, exec (.stagingStart seq i) s = .next t ∧ t.leaf? seq i = some (q, { l with st := .staging }) ∧ t.mem = s.mem)
  ∧ (∀ (s : State) (seq i : Nat) (r : TileRoot) (l : Leaf), s.leaf? seq i = some (r, l) → l.st = .staging →
      (r.level = 1 → 8 ≤ (s.coreAt (s.pieceCore r)).vq.length → exec (.stagingDone seq i) s = .next s)
      ∧ (r.level = 1 → (s.coreAt (s.pieceCore r)).vq.length < 8 → s.clusterWorks (s.host l.vcn) = false →
          ∃ t q, exec (.stagingDone seq i) s = .next t ∧ t.leaf? seq i = some (q, { l with st := .ready }) ∧ t.mem = s.mem)
      ∧ (r.level = 1 → (s.coreAt (s.pieceCore r)).vq.length < 8 → s.clusterWorks (s.host l.vcn) = true → s.stageFault r l = none → ∃ t q e, exec (.stagingDone seq i) s = .next t
          ∧ t.leaf? seq i = some (q, { l with st := .running, copy := s.stagedCopy r l, fail := none }) ∧ (t.coreAt (s.pieceCore r)).vq = (s.coreAt (s.pieceCore r)).vq ++ [e]
          ∧ e.product = r.product ∧ e.tile = some (r.seq, l.idx) ∧ e.clocks = (if r.product then r.productClocks l else r.leafClocks l) ∧ t.mem = s.mem)
      ∧ (r.level ≠ 1 → s.stageFault r l = none → ∃ t q, exec (.stagingDone seq i) s = .next t ∧ t.leaf? seq i = some (q, { l with st := .running, copy := s.stagedCopy r l, fail := none }) ∧ t.mem = s.mem)
      ∧ (∀ a bs, (a, bs) ∈ s.stagedCopy r l ↔ ∃ n, (a, n) ∈ r.stagedPieces l ∧ s.tileRead (r.via { l with copy := [] }) a n = .ok bs)
      ∧ (∀ b f, (r.level = 1 → (s.coreAt (s.pieceCore r)).vq.length < 8 ∧ s.clusterWorks (s.host l.vcn) = true) → s.stageFault r l = some (b, f) → ∃ t q x, exec (.stagingDone seq i) s = .next t
          ∧ t.leaf? seq i = some (q, { l with st := .running, copy := s.stagedCopy r l, fail := some (b, x) })
          ∧ x.cause = f.cause ∧ x.sub = f.sub ∧ x.addr = f.addr ∧ x.kblk = b ∧ x.leaf = l.idx ∧ x.seq = BitVec.ofNat 64 seq))
  ∧ (∀ (s : State) (seq i : Nat) (r : TileRoot) (l : Leaf), s.leaf? seq i = some (r, l) → r.product = true → l.active = true → l.kblk < r.kblocks →
      (∀ f ok, l.fail = some (l.kblk, f) → ∃ t q, exec (.kblockDone seq i ok) s = .next t ∧ t.leaf? seq i = some (q, { l with st := .faulted, active := false, sub := some f, fail := none }))
      ∧ ((∀ f, l.fail ≠ some (l.kblk, f)) →
          (∀ acc, s.nextAcc r l = .ok acc → l.kblk + 1 < r.kblocks → ∃ t q, exec (.kblockDone seq i true) s = .next t ∧ t.mem = s.mem
            ∧ (s.clusterWorks (s.host l.vcn) = true → t.leaf? seq i = some (q, { l with acc := acc, begun := true, kblk := l.kblk + 1, retried := false }))
            ∧ (s.clusterWorks (s.host l.vcn) = false →
                t.leaf? seq i = some (q, { l with acc := acc, begun := true, kblk := l.kblk + 1, retried := false, active := false }) ∧ (t.cluster (s.host l.vcn)).matrix = none))
          ∧ (l.retried = false → ∃ t q, exec (.kblockDone seq i false) s = .next t ∧ t.leaf? seq i = some (q, { l with retried := true })
              ∧ (t.cluster (s.host l.vcn)).resid = min 255 ((s.cluster (s.host l.vcn)).resid + 1) ∧ t.mem = s.mem)
          ∧ (l.retried = true → ∃ t q f, exec (.kblockDone seq i false) s = .next t ∧ t.leaf? seq i = some (q, { l with st := .faulted, active := false, sub := some f, fail := none })
              ∧ f.cause = 0x0D ∧ f.sub = 0x03 ∧ f.kblk = l.kblk ∧ (t.cluster (s.host l.vcn)).matrix = none)))
  ∧ (∀ (s u v : State) (seq i : Nat) (r : TileRoot) (l m : Leaf) (acc : List Nat) (ws : List (Nat × List Byte)), s.leaf? seq i = some (r, l) → r.product = true → l.active = true → l.kblk + 1 = r.kblocks →
      (∀ f, l.fail ≠ some (l.kblk, f)) → s.nextAcc r l = .ok acc → r.spoiled = false →
      m = { l with acc := acc, begun := true, kblk := l.kblk + 1, retried := false } → u = s.modLeaf r.seq l.idx (fun _ => m) → u.productWrites r m = .ok ws → u.tileWrites (r.via m) ws = .ok v →
      ∃ t, exec (.kblockDone seq i true) s = .next t ∧ t.mem = v.mem ∧ (t.cluster (s.host l.vcn)).matrix = none
        ∧ ∀ q x, v.leaf? seq i = some (q, x) → ∃ q', t.leaf? seq i = some (q', { x with st := .done, active := false, copy := [], placed := true, spots := [] }))
  ∧ (∀ (cs : List Machine.Cand) (w : Machine.Cand), lowestPass cs = some w → w ∈ cs ∧ ∀ c ∈ cs, w.pass < c.pass ∨ w.pass = c.pass ∧ w.key ≤ c.key)
  ∧ (∀ (low : Option (BitVec 64)) (known : List Nat) (c : Machine.Cand), (c.key ∈ known ∨ low = none → risePass low known c = c)
      ∧ ∀ p, c.key ∉ known → low = some p → risePass low known c = { c with pass := if c.pass < p then p else c.pass })
  ∧ (∀ l : List (BitVec 64), (lowPass l = none ↔ l = []) ∧ ∀ p, lowPass l = some p → p ∈ l ∧ ∀ q ∈ l, p ≤ q)
  ∧ (∀ (s : State) (pcn : Nat) (cl : Cluster), cl = s.cluster pcn →
      s.matrixRisen pcn = (s.matrixCands pcn).map (risePass (lowPass (cl.mready.map fun k => cl.mpass.getD k 0)) (cl.mready ++ cl.mrisen))
      ∧ s.lanesRisen pcn = (s.laneCands pcn).map (risePass (lowPass (cl.ready.map fun k => if k = 8 then cl.taskPass else (s.coreAt (pcn * 8 + k)).pass)) (cl.ready ++ cl.risen))
      ∧ ((s.matrixBusy pcn = true ∨ s.grants pcn = false ∨ s.matrixCands pcn = []) → exec (.matrixGrant pcn) s = .next s))
  ∧ (∀ (s : State) (pcn : Nat) (cs : List Machine.Cand) (w : Machine.Cand), s.matrixBusy pcn = false → s.grants pcn = true →
      cs = s.matrixRisen pcn → lowestPass cs = some w →
      (∀ e, w.key < 8 → s.vqHead (pcn * 8 + w.key) = some e → e.tile = none → ∃ t, exec (.matrixGrant pcn) s = .next t ∧ (t.cluster pcn).matrix = some (.core w.key e.writes)
        ∧ (t.cluster pcn).matrixUntil = s.ptime + s.clocksNs (chipOf pcn) w.clocks ∧ (t.coreAt (pcn * 8 + w.key)).vq = (s.coreAt (pcn * 8 + w.key)).vq.drop 1
        ∧ (t.cluster pcn).mpass.get? w.key = some w.charged ∧ t.mem = s.mem)
      ∧ (∀ e r m, w.key < 8 → s.vqHead (pcn * 8 + w.key) = some e → e.tile = some (r.seq, m.idx) → s.leaf? r.seq m.idx = some (r, m) → ∃ t q, exec (.matrixGrant pcn) s = .next t
        ∧ (t.cluster pcn).matrix = some (.leaf r.seq m.idx) ∧ (t.coreAt (pcn * 8 + w.key)).vq = (s.coreAt (pcn * 8 + w.key)).vq.drop 1
        ∧ (t.cluster pcn).mpass.get? w.key = some w.charged ∧ t.leaf? r.seq m.idx = some (q, { m with active := true }) ∧ t.mem = s.mem)
      ∧ (∀ r l m, 8 ≤ w.key → s.productTask (w.key - 8) = some (r, l) → s.leaf? r.seq l.idx = some (r, m) → ∃ t q, exec (.matrixGrant pcn) s = .next t ∧ (t.cluster pcn).matrix = some (.leaf r.seq l.idx)
        ∧ (t.cluster pcn).mpass.get? w.key = some w.charged ∧ t.leaf? r.seq l.idx = some (q, { m with active := true }) ∧ t.mem = s.mem))
  ∧ (∀ (s : State) (pcn g : Nat) (cs : List Machine.Cand) (w : Machine.Cand), ((List.range 4).find? fun g => ((s.cluster pcn).groups.get? g).isNone) = some g → s.grants pcn = true →
      cs = s.lanesRisen pcn → lowestPass cs = some w →
      (∀ e, w.key < 8 → s.vqHead (pcn * 8 + w.key) = some e → ∃ t, exec (.laneGroupGrant pcn) s = .next t
        ∧ (t.cluster pcn).groups.get? g = some (match e.tile with | some x => .leaf x.1 x.2 | none => .core w.key e.writes) ∧ (t.coreAt (pcn * 8 + w.key)).vq = (s.coreAt (pcn * 8 + w.key)).vq.drop 1
        ∧ (t.coreAt (pcn * 8 + w.key)).pass = w.charged ∧ t.mem = s.mem)
      ∧ (∀ r l m, w.key = 8 → s.laneTask pcn = some (r, l) → s.leaf? r.seq l.idx = some (r, m) → ∃ t q, exec (.laneGroupGrant pcn) s = .next t ∧ (t.cluster pcn).groups.get? g = some (.leaf r.seq l.idx)
        ∧ (t.cluster pcn).taskPass = w.charged ∧ t.leaf? r.seq l.idx = some (q, { m with active := true }) ∧ t.mem = s.mem))
  ∧ (∀ (s u : State) (pcn g : Nat) (o : Occupant), (s.cluster pcn).groups.get? g = some o → u = s.setCluster pcn { s.cluster pcn with groups := (s.cluster pcn).groups.drop g } →
      (∀ p ws, o = .core p ws → ∃ t, exec (.laneGroupRelease pcn g) s = .next t ∧ (t.cluster pcn).groups.get? g = none ∧ t.mem = s.mem ∧ t.tiles = s.tiles)
      ∧ (∀ seq i r l b f, o = .leaf seq i → s.leaf? seq i = some (r, l) → l.fail = some (b, f) → ∃ t q, exec (.laneGroupRelease pcn g) s = .next t ∧ (t.cluster pcn).groups.get? g = none
          ∧ t.leaf? seq i = some (q, { l with st := .faulted, active := false, sub := some f, fail := none }) ∧ t.mem = s.mem)
      ∧ (∀ seq i r l ws v, o = .leaf seq i → s.leaf? seq i = some (r, l) → l.fail = none → r.twoPhase = false → r.spoiled = false → u.leafWrites r l = .ok ws → u.tileWrites (r.via l) ws = .ok v →
          ∃ t, exec (.laneGroupRelease pcn g) s = .next t ∧ t.mem = v.mem ∧ ∀ q x, v.leaf? seq i = some (q, x) → ∃ q', t.leaf? seq i = some (q', { x with st := .done, active := false, copy := [], placed := true, spots := [] }))
      ∧ (∀ seq i r l ks, o = .leaf seq i → s.leaf? seq i = some (r, l) → l.fail = none → r.twoPhase = true → l.placed = false → l.go = false → u.itemKeys r l = .ok ks →
          ∃ t q, exec (.laneGroupRelease pcn g) s = .next t ∧ t.leaf? seq i = some (q, { l with active := false, begun := true, acc := tally r.classes ks }) ∧ t.mem = s.mem)
      ∧ (∀ seq i r l ws v, o = .leaf seq i → s.leaf? seq i = some (r, l) → l.fail = none → r.twoPhase = true → l.placed = false → l.go = true → r.spoiled = false → u.placeWrites r l = .ok ws → u.tileWrites (r.via l) ws = .ok v →
          ∃ t, exec (.laneGroupRelease pcn g) s = .next t ∧ t.mem = v.mem ∧ ∀ q x, v.leaf? seq i = some (q, x) → ∃ q', t.leaf? seq i = some (q', { x with st := .done, active := false, copy := [], placed := true, spots := u.spotsOf r l })))
  ∧ (∀ (s : State) (seq i : Nat) (r : TileRoot) (l : Leaf), s.leaf? seq i = some (r, l) → r.st ≠ .done → l.reported = false → l.vcn < farVcn → s.cur.run = some r.sid → s.cur.str.ending = false →
      ((∃ x ∈ r.leaves, x.idx ≠ i ∧ x.reported = false) → l.st = .done ∨ l.st = .faulted →
        ∃ t q, exec (.childCompletion seq i) s = .next t ∧ t.leaf? seq i = some (q, { l with reported := true }) ∧ t.counts = s.counts ∧ t.asyncFlight = s.asyncFlight ∧ t.mem = s.mem)
      ∧ ((∀ x ∈ r.leaves, x.idx ≠ i → x.reported = true) → (∀ x ∈ r.leaves, x.st ≠ .faulted) → l.st = .done → r.twoPhase = false → s.rootReleased r = true → (∀ q ∈ s.tiles, q.sid = r.sid → q.st ≠ .done) →
          ∃ t, exec (.childCompletion seq i) s = .next t ∧ t.root? seq = none ∧ t.counts = { s.counts with tiles := s.counts.tiles - 1 } ∧ t.asyncFlight = s.asyncFlight ∧ t.mem = s.mem)
      ∧ ((∀ x ∈ r.leaves, x.idx ≠ i → x.reported = true) → (∀ x ∈ r.leaves, x.st ≠ .faulted) → l.st = .done → r.twoPhase = false → s.rootReleased r = false → (∀ q ∈ s.tiles, q.sid = r.sid → q.st ≠ .done) → (∀ q ∈ s.tiles, q.seq = seq → q = r) →
          ∃ t q, exec (.childCompletion seq i) s = .next t ∧ t.root? seq = some q ∧ q.st = .done ∧ t.counts = s.counts ∧ t.mem = s.mem)
      ∧ ((∀ x ∈ r.leaves, x.idx ≠ i → x.reported = true) → (∀ x ∈ r.leaves, x.st = .running ∧ x.begun = true ∧ x.go = false ∧ x.active = false ∧ x.placed = false) → r.twoPhase = true → r.level ≠ 1 →
          ∃ t q, exec (.childCompletion seq i) s = .next t ∧ t.root? seq = some q ∧ (∀ x ∈ q.leaves, x.go = true ∧ x.reported = false) ∧ t.counts = s.counts ∧ t.mem = s.mem)
      ∧ ((∀ x ∈ r.leaves, x.idx ≠ i → x.reported = true) → l.st = .faulted →
          ∃ t q x, exec (.childCompletion seq i) s = .next t ∧ t.root? seq = some q ∧ q.st = .faulted ∧ t.asyncFlight = s.asyncFlight ++ [(r.sid, x)]
            ∧ x.cause = 0x05 ∧ x.sub = 0x06 ∧ x.roll = true ∧ x.fpc = r.pc ∧ x.seq = BitVec.ofNat 64 seq ∧ x.subs.length ≤ 32 ∧ t.counts = s.counts ∧ t.mem = s.mem))
  ∧ (∀ (l : List (Nat × Nat)) (v : Nat), fullest l = some v → ∃ n, (v, n) ∈ l ∧ 0 < n ∧ ∀ y ∈ l, y.2 ≤ n)
  ∧ (∀ (s : State) (vcn v asid : Nat) (c : Ctx) (r : TileRoot) (l : Leaf), (s.ctxs.find? fun e => e.2.hasVcn vcn && e.2.resident) = some (asid, c) → s.clusterWorks (s.host vcn) = true →
      s.tasksAt vcn (fun q l => l.st == .ready && l.stealTo.isNone && q.level != 1) = [] → (∀ q ∈ s.tiles, ∀ x ∈ q.leaves, x.stealTo ≠ some vcn) →
      fullest (((s.ctxOn asid (chipOf (s.host vcn))).filter fun v => v != vcn && s.trades (s.host v)).map fun v => (v, (s.tasksAt v stealable).length)) = some v →
      youngestTask (s.tasksAt v stealable) = some (r, l) → s.leaf? r.seq l.idx = some (r, l) →
      ∃ t q, exec (.taskSteal vcn) s = .next t ∧ t.leaf? r.seq l.idx = some (q, { l with stealTo := some vcn }) ∧ t.mem = s.mem)
  ∧ (∀ (s : State) (seq i v : Nat) (r : TileRoot) (l : Leaf), s.leaf? seq i = some (r, l) → l.stealTo = some v →
      ∃ t q, exec (.stealDone seq i) s = .next t ∧ t.leaf? seq i = some (q, { l with vcn := v, stolen := true, stealTo := none, order := s.nextId }) ∧ t.mem = s.mem)
  ∧ (∀ (s u v : State) (asid k b : Nat) (r : TileRoot) (l : Leaf) (own : List FVal) (resid w : List (Nat × List Byte)) (acc : List Nat) (q : List Nat × List Nat),
      (s.tiles.find? fun r => r.asid == asid && r.gateway && r.order == k && r.st == .running) = some r → (r.leaves.find? fun l => l.idx == b && l.st == .running) = some l →
      (∃ p ∈ s.ports, p.2.st = 2) → r.twoPhase = false → r.spoiled = false → s.ownContribution r l = .ok (own, resid) →
      s.gatewaySum (if r.b.isSome then r.d.fmt else (r.a.getD {}).fmt) own l.colCnt (((s.ctx? asid).map fun c => c.peerList).getD []) (List.replicate l.colCnt 0) = (acc, u) →
      q = convRow r.d.fmt r.rcw (l.rowOrg * r.d.cols + l.colOrg) (acc.map fun c => fp32.val c) → u.tileRow r r.d l.rowOrg l.colOrg q.1 q.2 = .ok w → u.tileWrites (r.via l) (w ++ resid) = .ok v →
      ∃ t, exec (.gatewayReduction asid k b) s = .next t ∧ t.mem = v.mem ∧ ∀ x y, v.leaf? r.seq l.idx = some (x, y) → ∃ x', t.leaf? r.seq l.idx = some (x', { y with st := .done, active := false, copy := [], placed := true, spots := [] }))
end

