-- ==== Sys2Proof/Laws/Memory.lean ====
section
/-! SUPPORT. Memory: every write keeps the canonical form, a read after a write, and that a write leaves every other byte alone. -/

namespace Sys2Proof.Machine

/-- Every listed address is above a bound. -/
def cellsAbove (lo : Nat) (l : List Host.Cell) : Prop := ∀ e ∈ l, lo < e.1

theorem cellsWf_cons (i : Nat) (b : Byte) (t : List Host.Cell) :
    cellsWf ((i, b) :: t) = true ↔ b ≠ unlisted ∧ cellsAbove i t ∧ cellsWf t = true := by
  induction t generalizing i b with
  | nil => simp [cellsWf, cellsAbove]
  | cons e t ih =>
    obtain ⟨j, c⟩ := e
    simp only [cellsWf, Bool.and_eq_true, bne_iff_ne, decide_eq_true_eq]
    refine ⟨fun ⟨⟨hb, hij⟩, hw⟩ => ⟨hb, ?_, hw⟩, fun ⟨hb, ha, hw⟩ => ⟨⟨hb, ha (j, c) (by simp)⟩, hw⟩⟩
    intro e he
    rcases List.mem_cons.1 he with rfl | he
    · exact hij
    · exact Nat.lt_trans hij (((ih j c).1 hw).2.1 e he)

theorem cellsAbove_cellSet {lo : Nat} {l : List Host.Cell} (h : cellsAbove lo l) {a : Nat} (ha : lo < a) (x : Byte) :
    cellsAbove lo (cellSet l a x) := by
  induction l with
  | nil => unfold cellSet; split <;> simp [cellsAbove, ha]
  | cons e t ih =>
    obtain ⟨i, b⟩ := e
    have hi : lo < i := h (i, b) (by simp)
    have ht : cellsAbove lo t := fun e he => h e (by simp [he])
    unfold cellSet
    intro e he
    split at he
    · split at he
      · exact h e he
      · rcases List.mem_cons.1 he with rfl | he
        · exact ha
        · exact h e he
    · split at he
      · split at he
        · exact ht e he
        · rcases List.mem_cons.1 he with rfl | he
          · exact ha
          · exact ht e he
      · rcases List.mem_cons.1 he with rfl | he
        · exact hi
        · exact ih ht e he

theorem cellsWf_cellSet {l : List Host.Cell} (h : cellsWf l = true) (a : Nat) (x : Byte) : cellsWf (cellSet l a x) = true := by
  induction l with
  | nil => unfold cellSet; split <;> simp_all [cellsWf]
  | cons e t ih =>
    obtain ⟨i, b⟩ := e
    obtain ⟨hb, ht, hw⟩ := (cellsWf_cons i b t).1 h
    unfold cellSet
    split
    · rename_i hai
      split
      · exact h
      · rename_i hx
        refine (cellsWf_cons _ _ _).2 ⟨hx, ?_, h⟩
        intro e he
        rcases List.mem_cons.1 he with rfl | he
        · exact hai
        · exact Nat.lt_trans hai (ht e he)
    · split
      · rename_i hia
        split
        · exact hw
        · rename_i hx
          exact (cellsWf_cons _ _ _).2 ⟨hx, by rw [← hia]; exact ht, hw⟩
      · rename_i h1 h2
        exact (cellsWf_cons _ _ _).2 ⟨hb, cellsAbove_cellSet ht (by omega) x, ih hw⟩

theorem cellGet_cons (i : Nat) (b : Byte) (t : List Host.Cell) (a : Nat) :
    cellGet ((i, b) :: t) a = if i = a then b else if a < i then unlisted else cellGet t a := rfl

theorem cellGet_of_above {a : Nat} {l : List Host.Cell} (h : cellsAbove a l) : cellGet l a = unlisted := by
  cases l with
  | nil => rfl
  | cons e t =>
    have : a < e.1 := h e (by simp)
    obtain ⟨i, b⟩ := e
    rw [cellGet_cons, if_neg (by simp at this; omega), if_pos this]

theorem cellGet_cellSet_same {l : List Host.Cell} (h : cellsWf l = true) (a : Nat) (x : Byte) : cellGet (cellSet l a x) a = x := by
  induction l with
  | nil => unfold cellSet; split <;> simp_all [cellGet]
  | cons e t ih =>
    obtain ⟨i, b⟩ := e
    obtain ⟨hb, ht, hw⟩ := (cellsWf_cons i b t).1 h
    unfold cellSet
    split
    · rename_i hai
      split
      · rename_i hx; subst hx; unfold cellGet; simp [hai, Nat.ne_of_gt hai]
      · simp [cellGet]
    · split
      · rename_i hia
        split
        · rename_i hx; subst hx; subst hia; exact cellGet_of_above ht
        · simp [cellGet]
      · rename_i h1 h2
        unfold cellGet
        simp [h1, h2, ih hw]

theorem cellGet_cellSet_other {l : List Host.Cell} (h : cellsWf l = true) {a c : Nat} (x : Byte) (hne : c ≠ a) :
    cellGet (cellSet l a x) c = cellGet l c := by
  induction l with
  | nil =>
    unfold cellSet
    split
    · rfl
    · simp only [cellGet]; split
      · omega
      · simp
  | cons e t ih =>
    obtain ⟨i, b⟩ := e
    obtain ⟨hb, ht, hw⟩ := (cellsWf_cons i b t).1 h
    unfold cellSet
    split
    · rename_i hai
      split
      · rfl
      · by_cases hc : c < a
        · have h1 : i ≠ c := by omega
          have h2 : c < i := by omega
          simp [cellGet, h1, h2, hc, Ne.symm hne]
        · have h1 : ¬ a = c := fun h => hne h.symm
          rw [cellGet_cons a]
          simp [h1, hc]
    · split
      · rename_i hia
        subst hia
        have h1 : ¬ i = c := fun h => hne h.symm
        have hrest : cellGet ((i, b) :: t) c = if c < i then unlisted else cellGet t c := by
          rw [cellGet_cons]
          simp [h1]
        rw [hrest]
        split
        · split
          · rename_i hlt
            exact cellGet_of_above fun e he => Nat.lt_trans hlt (ht e he)
          · rfl
        · rw [cellGet_cons]
          simp [h1]
      · rw [cellGet_cons, cellGet_cons, ih hw]

/-! The operations of Mem.lean. -/

theorem wf_setByte {m : Memory} (h : m.wf = true) (a : Nat) (b : Byte) : (m.setByte a b).wf = true := cellsWf_cellSet h a b

theorem byte_setByte_same {m : Memory} (h : m.wf = true) (a : Nat) (b : Byte) : (m.setByte a b).byte a = b := cellGet_cellSet_same h a b

theorem byte_setByte_other {m : Memory} (h : m.wf = true) {a c : Nat} (b : Byte) (hne : c ≠ a) : (m.setByte a b).byte c = m.byte c :=
  cellGet_cellSet_other h b hne

theorem wf_write {m : Memory} (h : m.wf = true) (a : Nat) (bs : List (Option Byte)) : (m.write a bs).wf = true := by
  induction bs generalizing m a with
  | nil => exact h
  | cons b t ih =>
    cases b with
    | none => exact ih h (a + 1)
    | some b => exact ih (wf_setByte h a b) (a + 1)

/-- A write leaves every byte outside its range. -/
theorem byte_write_outside {m : Memory} (h : m.wf = true) (a : Nat) (bs : List (Option Byte)) {c : Nat} (hc : c < a ∨ a + bs.length ≤ c) :
    (m.write a bs).byte c = m.byte c := by
  induction bs generalizing m a with
  | nil => rfl
  | cons b t ih =>
    simp only [List.length_cons] at hc
    cases b with
    | none => exact ih h (a + 1) (by omega)
    | some b =>
      show ((m.setByte a b).write (a + 1) t).byte c = m.byte c
      rw [ih (wf_setByte h a b) (a + 1) (by omega), byte_setByte_other h b (by omega)]

/-- Byte k of a write: what is written, or what was there. -/
theorem byte_write_inside {m : Memory} (h : m.wf = true) (a : Nat) (bs : List (Option Byte)) (k : Nat) (hk : k < bs.length) :
    (m.write a bs).byte (a + k) = (bs[k]).getD (m.byte (a + k)) := by
  induction bs generalizing m a k with
  | nil => simp at hk
  | cons b t ih =>
    cases b with
    | none =>
      show (m.write (a + 1) t).byte (a + k) = _
      cases k with
      | zero => simp [byte_write_outside h (a + 1) t (c := a) (by omega)]
      | succ k =>
        have := ih h (a + 1) k (by simpa using hk)
        rw [show a + (k + 1) = a + 1 + k by omega, this]; simp
    | some b =>
      show ((m.setByte a b).write (a + 1) t).byte (a + k) = _
      have hw := wf_setByte h a b
      cases k with
      | zero => simp [byte_write_outside hw (a + 1) t (c := a) (by omega), byte_setByte_same h]
      | succ k =>
        have := ih hw (a + 1) k (by simpa using hk)
        rw [show a + (k + 1) = a + 1 + k by omega, this, byte_setByte_other h b (by omega)]; simp

@[simp] theorem heal_cells (m : Memory) (key : Option Nat) (n a : Nat) (bs : List (Option Byte)) : (heal m key n a bs).cells = m.cells := by
  induction n generalizing m a bs with
  | zero => rfl
  | succ n ih =>
    unfold heal
    split
    · rfl
    · simp only [ih]; split <;> split <;> rfl

theorem heal_wf {m : Memory} (h : m.wf = true) (key : Option Nat) (n a : Nat) (bs : List (Option Byte)) : (heal m key n a bs).wf = true := by
  simpa [Memory.wf] using h

@[simp] theorem heal_byte (m : Memory) (key : Option Nat) (n a : Nat) (bs : List (Option Byte)) (c : Nat) : (heal m key n a bs).byte c = m.byte c := by
  simp [Memory.byte]

/-- Everything that a store can do to the bytes: it keeps the canonical form, leaves every byte outside its range, and writes its own. -/
theorem wf_store {m : Memory} (h : m.wf = true) (key : Option Nat) (a : Nat) (bs : List (Option Byte)) : (m.store key a bs).wf = true :=
  wf_write (heal_wf h _ _ _ _) _ _

theorem byte_store_outside {m : Memory} (h : m.wf = true) (key : Option Nat) (a : Nat) (bs : List (Option Byte)) {c : Nat}
    (hc : c < a ∨ a + bs.length ≤ c) : (m.store key a bs).byte c = m.byte c := by
  unfold Memory.store
  rw [byte_write_outside (heal_wf h _ _ _ _) _ _ hc, heal_byte]

theorem byte_store_inside {m : Memory} (h : m.wf = true) (key : Option Nat) (a : Nat) (bs : List (Option Byte)) (k : Nat) (hk : k < bs.length) :
    (m.store key a bs).byte (a + k) = (bs[k]).getD (m.byte (a + k)) := by
  unfold Memory.store
  rw [byte_write_inside (heal_wf h _ _ _ _) _ _ k hk, heal_byte]

@[simp] theorem read_length (m : Memory) (a n : Nat) : (m.read a n).length = n := by
  induction n generalizing a with
  | zero => rfl
  | succ n ih => simp [Memory.read, ih]

theorem read_getElem (m : Memory) (a n k : Nat) (hk : k < n) : (m.read a n)[k]'(by simpa using hk) = m.byte (a + k) := by
  induction n generalizing a k with
  | zero => omega
  | succ n ih =>
    cases k with
    | zero => simp [Memory.read]
    | succ k => simp [Memory.read, ih (a + 1) k (by omega), show a + 1 + k = a + (k + 1) by omega]

/-- Reading back what a store wrote whole. -/
theorem read_store {m : Memory} (h : m.wf = true) (key : Option Nat) (a : Nat) (bs : List Byte) :
    (m.store key a (bs.map some)).read a bs.length = bs := by
  apply List.ext_getElem (by simp)
  intro k h1 h2
  rw [read_getElem _ _ _ _ h2, byte_store_inside h _ _ _ _ (by simpa using h2)]
  simp

/-- A read of bytes that no store touched. -/
theorem read_congr {m n : Memory} {a k : Nat} (h : ∀ c, a ≤ c → c < a + k → m.byte c = n.byte c) : m.read a k = n.read a k := by
  induction k generalizing a with
  | zero => rfl
  | succ k ih =>
    simp only [Memory.read]
    rw [h a (by omega) (by omega), ih fun c h1 h2 => h c (by omega) (by omega)]

/-- Nothing that a write meets is in error: scratchpad words and HBM blocks are correctable, no stack is lost, and the blocks were last written under the key. -/
theorem writeErr_none {m : Memory} {lost : List Nat} {key : Option Nat} (fuel a n : Nat) (bs : List (Option Byte)) (hn : bs.length ≤ n)
    (h : ∀ c, a ≤ c → c < a + n → m.bad.contains (errUnit c) = false ∧ (isHbm c = true → stackLost lost c = false ∧ keyMatches m key c = true)) :
    writeErr m lost key fuel a bs = none := by
  induction fuel generalizing a n bs with
  | zero => rfl
  | succ k ih =>
    cases bs with
    | nil => rfl
    | cons x t =>
      have hb := h a (Nat.le_refl a) (by simp at hn; omega)
      have hk : isHbm a = true → key.isNone = false := by
        intro e
        have := (hb.2 e).2
        cases key with
        | none => simp [keyMatches] at this
        | some y => rfl
      unfold writeErr
      simp only [List.isEmpty_cons, Bool.false_eq_true, if_false, hb.1]
      cases he : isHbm a with
      | false =>
        simp only [Bool.and_false, Bool.false_and, Bool.false_or, Bool.false_eq_true, if_false]
        refine ite_eq_left_iff.mpr fun _ => ?_
        refine ih _ _ _ (Nat.le_refl _) ?_
        intro c hc hd
        simp at hc hd hn
        refine h c (by omega) ?_
        omega
      | true =>
        simp only [(hb.2 he).1, (hb.2 he).2, hk he, Bool.and_false, Bool.not_true, Bool.false_or, Bool.false_eq_true, if_false]
        refine ite_eq_left_iff.mpr fun _ => ?_
        refine ih _ _ _ (Nat.le_refl _) ?_
        intro c hc hd
        simp at hc hd hn
        refine h c (by omega) ?_
        omega

theorem reset_wf : State.reset.mem.wf = true := rfl

end Sys2Proof.Machine
end

