-- ==== Sys2Proof/Laws/PerInstr.lean ====
section
/-! SUPPORT. For every constructor: an instruction of a strand has an encoding, a device event has none. -/

namespace Sys2Proof.Laws.EncodeScope

/-- Exactly the instructions of a strand have words (R108, R120). -/
def Statement (i : Instr) : Prop := (encode i).isSome = !i.isEvent

theorem nop : Statement (.nop) := rfl
theorem exit : Statement (.exit) := rfl
theorem yield : Statement (.yield) := rfl
theorem yieldRel : Statement (.yieldRel) := rfl
theorem suspend : Statement (.suspend) := rfl
theorem suspendRel : Statement (.suspendRel) := rfl
theorem pin : Statement (.pin) := rfl
theorem quiet : Statement (.quiet) := rfl
theorem brk (n : BitVec 4) : Statement (.brk n) := rfl
theorem tack : Statement (.tack) := rfl
theorem tretResume : Statement (.tretResume) := rfl
theorem tretAbandon : Statement (.tretAbandon) := rfl
theorem idle : Statement (.idle) := rfl
theorem uwseal : Statement (.uwseal) := rfl
theorem ifence : Statement (.ifence) := rfl
theorem add (d : Reg) (a : Reg) (b : Reg) : Statement (.add d a b) := rfl
theorem sub (d : Reg) (a : Reg) (b : Reg) : Statement (.sub d a b) := rfl
theorem mul (d : Reg) (a : Reg) (b : Reg) : Statement (.mul d a b) := rfl
theorem mulh (d : Reg) (a : Reg) (b : Reg) : Statement (.mulh d a b) := rfl
theorem mulhu (d : Reg) (a : Reg) (b : Reg) : Statement (.mulhu d a b) := rfl
theorem div (d : Reg) (a : Reg) (b : Reg) : Statement (.div d a b) := rfl
theorem divu (d : Reg) (a : Reg) (b : Reg) : Statement (.divu d a b) := rfl
theorem rem (d : Reg) (a : Reg) (b : Reg) : Statement (.rem d a b) := rfl
theorem remu (d : Reg) (a : Reg) (b : Reg) : Statement (.remu d a b) := rfl
theorem and (d : Reg) (a : Reg) (b : Reg) : Statement (.and d a b) := rfl
theorem or (d : Reg) (a : Reg) (b : Reg) : Statement (.or d a b) := rfl
theorem xor (d : Reg) (a : Reg) (b : Reg) : Statement (.xor d a b) := rfl
theorem shl (d : Reg) (a : Reg) (b : Reg) : Statement (.shl d a b) := rfl
theorem shr (d : Reg) (a : Reg) (b : Reg) : Statement (.shr d a b) := rfl
theorem sha (d : Reg) (a : Reg) (b : Reg) : Statement (.sha d a b) := rfl
theorem slt (d : Reg) (a : Reg) (b : Reg) : Statement (.slt d a b) := rfl
theorem sltu (d : Reg) (a : Reg) (b : Reg) : Statement (.sltu d a b) := rfl
theorem min (d : Reg) (a : Reg) (b : Reg) : Statement (.min d a b) := rfl
theorem minu (d : Reg) (a : Reg) (b : Reg) : Statement (.minu d a b) := rfl
theorem max (d : Reg) (a : Reg) (b : Reg) : Statement (.max d a b) := rfl
theorem maxu (d : Reg) (a : Reg) (b : Reg) : Statement (.maxu d a b) := rfl
theorem clz (d : Reg) (a : Reg) : Statement (.clz d a) := rfl
theorem ctz (d : Reg) (a : Reg) : Statement (.ctz d a) := rfl
theorem popc (d : Reg) (a : Reg) : Statement (.popc d a) := rfl
theorem sel (d : Reg) (a : Reg) (b : Reg) (c : Reg) : Statement (.sel d a b c) := rfl
theorem fadd (p : Prec) (d : Reg) (a : Reg) (b : Reg) : Statement (.fadd p d a b) := rfl
theorem fsub (p : Prec) (d : Reg) (a : Reg) (b : Reg) : Statement (.fsub p d a b) := rfl
theorem fmul (p : Prec) (d : Reg) (a : Reg) (b : Reg) : Statement (.fmul p d a b) := rfl
theorem ffma (p : Prec) (d : Reg) (a : Reg) (b : Reg) (c : Reg) : Statement (.ffma p d a b c) := rfl
theorem fdiv (p : Prec) (d : Reg) (a : Reg) (b : Reg) : Statement (.fdiv p d a b) := rfl
theorem fsqrt (p : Prec) (d : Reg) (a : Reg) : Statement (.fsqrt p d a) := rfl
theorem fmin (p : Prec) (d : Reg) (a : Reg) (b : Reg) : Statement (.fmin p d a b) := rfl
theorem fmax (p : Prec) (d : Reg) (a : Reg) (b : Reg) : Statement (.fmax p d a b) := rfl
theorem fcmp (p : Prec) (d : Reg) (a : Reg) (b : Reg) : Statement (.fcmp p d a b) := rfl
theorem fclass (p : Prec) (d : Reg) (a : Reg) : Statement (.fclass p d a) := rfl
theorem fsgn (p : Prec) (m : SgnMode) (d : Reg) (a : Reg) (b : Reg) : Statement (.fsgn p m d a b) := rfl
theorem fcvt (p : Prec) (src : CvtSrc) (d : Reg) (a : Reg) : Statement (.fcvt p src d a) := rfl
theorem fcvtSint (src : Prec) (d : Reg) (a : Reg) : Statement (.fcvtSint src d a) := rfl
theorem fcvtUint (src : Prec) (d : Reg) (a : Reg) : Statement (.fcvtUint src d a) := rfl
theorem jalr (d : Reg) (a : Reg) : Statement (.jalr d a) := rfl
theorem wake (a : Reg) : Statement (.wake a) := rfl
theorem waitc (d : Reg) (a : Reg) (b : Reg) : Statement (.waitc d a b) := rfl
theorem spawn (d : Reg) (a : Reg) (b : Reg) : Statement (.spawn d a b) := rfl
theorem ltrig : Statement (.ltrig) := rfl
theorem qpush (d : Reg) (a : Reg) (b : Reg) : Statement (.qpush d a b) := rfl
theorem qpop (d : Reg) (a : Reg) (b : Reg) : Statement (.qpop d a b) := rfl
theorem evsig (a : Reg) : Statement (.evsig a) := rfl
theorem fenceL1 : Statement (.fenceL1) := rfl
theorem fenceL2 : Statement (.fenceL2) := rfl
theorem fenceL3 : Statement (.fenceL3) := rfl
theorem fenceL4 : Statement (.fenceL4) := rfl
theorem fenceL5 : Statement (.fenceL5) := rfl
theorem fencei (l5 : Bool) (d : Reg) : Statement (.fencei l5 d) := by cases l5 <;> rfl
theorem fencew (l5 : Bool) (a : Reg) : Statement (.fencew l5 a) := by cases l5 <;> rfl
theorem get (w : BitVec 2) (d : Reg) (a : Reg) (b : Reg) (c : Reg) : Statement (.get w d a b c) := rfl
theorem put (w : BitVec 2) (d : Reg) (a : Reg) (b : Reg) (c : Reg) : Statement (.put w d a b c) := rfl
theorem tcpy (w : BitVec 2) (a : Reg) (b : Reg) (c : Reg) : Statement (.tcpy w a b c) := rfl
theorem tcpya (w : BitVec 2) (d : Reg) (a : Reg) (b : Reg) (c : Reg) : Statement (.tcpya w d a b c) := rfl
theorem armw (w : BitVec 2) (op : AtomOp) (d : Reg) (a : Reg) (b : Reg) : Statement (.armw w op d a b) := rfl
theorem trap (a : Reg) : Statement (.trap a) := rfl
theorem csrr (d : Reg) (a : Reg) : Statement (.csrr d a) := rfl
theorem csrw (a : Reg) (b : Reg) : Statement (.csrw a b) := rfl
theorem asgen (d : Reg) : Statement (.asgen d) := rfl
theorem maprd (d : Reg) (a : Reg) : Statement (.maprd d a) := rfl
theorem uwopen (d : Reg) : Statement (.uwopen d) := rfl
theorem uwnum (d : Reg) : Statement (.uwnum d) := rfl
theorem trec (a : Reg) (b : Reg) : Statement (.trec a b) := rfl
theorem aadd (w : BitVec 2) (n : AWidth) (d : Reg) (a : Reg) (b : Reg) (imm : BitVec 16) : Statement (.aadd w n d a b imm) := rfl
theorem amin (w : BitVec 2) (n : AWidth) (d : Reg) (a : Reg) (b : Reg) (imm : BitVec 16) : Statement (.amin w n d a b imm) := rfl
theorem amax (w : BitVec 2) (n : AWidth) (d : Reg) (a : Reg) (b : Reg) (imm : BitVec 16) : Statement (.amax w n d a b imm) := rfl
theorem aminu (w : BitVec 2) (n : AWidth) (d : Reg) (a : Reg) (b : Reg) (imm : BitVec 16) : Statement (.aminu w n d a b imm) := rfl
theorem amaxu (w : BitVec 2) (n : AWidth) (d : Reg) (a : Reg) (b : Reg) (imm : BitVec 16) : Statement (.amaxu w n d a b imm) := rfl
theorem aand (w : BitVec 2) (n : AWidth) (d : Reg) (a : Reg) (b : Reg) (imm : BitVec 16) : Statement (.aand w n d a b imm) := rfl
theorem aor (w : BitVec 2) (n : AWidth) (d : Reg) (a : Reg) (b : Reg) (imm : BitVec 16) : Statement (.aor w n d a b imm) := rfl
theorem axor (w : BitVec 2) (n : AWidth) (d : Reg) (a : Reg) (b : Reg) (imm : BitVec 16) : Statement (.axor w n d a b imm) := rfl
theorem aswp (w : BitVec 2) (n : AWidth) (d : Reg) (a : Reg) (b : Reg) (imm : BitVec 16) : Statement (.aswp w n d a b imm) := rfl
theorem acas (w : BitVec 2) (n : AWidth) (d : Reg) (a : Reg) (b : Reg) (imm : BitVec 16) : Statement (.acas w n d a b imm) := rfl
theorem afaddF32 (w : BitVec 2) (d : Reg) (a : Reg) (b : Reg) (imm : BitVec 16) : Statement (.afaddF32 w d a b imm) := rfl
theorem afaddF64 (w : BitVec 2) (d : Reg) (a : Reg) (b : Reg) (imm : BitVec 16) : Statement (.afaddF64 w d a b imm) := rfl
theorem waita (w : BitVec 2) (d : Reg) (a : Reg) (b : Reg) (imm : BitVec 16) : Statement (.waita w d a b imm) := rfl
theorem addi (d : Reg) (a : Reg) (imm : BitVec 16) : Statement (.addi d a imm) := rfl
theorem andi (d : Reg) (a : Reg) (imm : BitVec 16) : Statement (.andi d a imm) := rfl
theorem ori (d : Reg) (a : Reg) (imm : BitVec 16) : Statement (.ori d a imm) := rfl
theorem xori (d : Reg) (a : Reg) (imm : BitVec 16) : Statement (.xori d a imm) := rfl
theorem shli (d : Reg) (a : Reg) (e : BitVec 6) : Statement (.shli d a e) := rfl
theorem shri (d : Reg) (a : Reg) (e : BitVec 6) : Statement (.shri d a e) := rfl
theorem shai (d : Reg) (a : Reg) (e : BitVec 6) : Statement (.shai d a e) := rfl
theorem slti (d : Reg) (a : Reg) (imm : BitVec 16) : Statement (.slti d a imm) := rfl
theorem bfx (d : Reg) (a : Reg) (p : BitVec 6) (w1 : BitVec 6) : Statement (.bfx d a p w1) := rfl
theorem bfxu (d : Reg) (a : Reg) (p : BitVec 6) (w1 : BitVec 6) : Statement (.bfxu d a p w1) := rfl
theorem bfi (d : Reg) (a : Reg) (p : BitVec 6) (w1 : BitVec 6) : Statement (.bfi d a p w1) := rfl
theorem wid (d : Reg) (a : Reg) (i : Fin 6) (k : WidKind) : Statement (.wid d a i k) := rfl
theorem beq (a : Reg) (b : Reg) (imm : BitVec 16) : Statement (.beq a b imm) := rfl
theorem bne (a : Reg) (b : Reg) (imm : BitVec 16) : Statement (.bne a b imm) := rfl
theorem blt (a : Reg) (b : Reg) (imm : BitVec 16) : Statement (.blt a b imm) := rfl
theorem bge (a : Reg) (b : Reg) (imm : BitVec 16) : Statement (.bge a b imm) := rfl
theorem bltu (a : Reg) (b : Reg) (imm : BitVec 16) : Statement (.bltu a b imm) := rfl
theorem bgeu (a : Reg) (b : Reg) (imm : BitVec 16) : Statement (.bgeu a b imm) := rfl
theorem loop (d : Reg) (imm : BitVec 16) : Statement (.loop d imm) := rfl
theorem ld (w : BitVec 2) (n : MemWidth) (d : Reg) (a : Reg) (imm : BitVec 16) : Statement (.ld w n d a imm) := rfl
theorem ldp (w : BitVec 2) (d : Reg) (a : Reg) (b : Reg) (imm : BitVec 16) : Statement (.ldp w d a b imm) := rfl
theorem st (w : BitVec 2) (n : MemWidth) (d : Reg) (a : Reg) (imm : BitVec 16) : Statement (.st w n d a imm) := rfl
theorem stp (w : BitVec 2) (d : Reg) (a : Reg) (b : Reg) (imm : BitVec 16) : Statement (.stp w d a b imm) := rfl
theorem jmp (imm : BitVec 32) : Statement (.jmp imm) := rfl
theorem jal (d : Reg) (imm : BitVec 32) : Statement (.jal d imm) := rfl
theorem lim (hi : Bool) (d : Reg) (imm : BitVec 32) : Statement (.lim hi d imm) := by cases hi <;> rfl
theorem vadd (x : Bool) (f : Fmt) (c : Reg) (rd : RowId) (ra : RowId) (rb : RowId) : Statement (.vadd x f c rd ra rb) := rfl
theorem vsub (x : Bool) (f : Fmt) (c : Reg) (rd : RowId) (ra : RowId) (rb : RowId) : Statement (.vsub x f c rd ra rb) := rfl
theorem vmul (x : Bool) (f : Fmt) (c : Reg) (rd : RowId) (ra : RowId) (rb : RowId) : Statement (.vmul x f c rd ra rb) := rfl
theorem vfma (x : Bool) (f : Fmt) (c : Reg) (rd : RowId) (ra : RowId) (rb : RowId) : Statement (.vfma x f c rd ra rb) := rfl
theorem vdiv (x : Bool) (f : Fmt) (c : Reg) (rd : RowId) (ra : RowId) (rb : RowId) : Statement (.vdiv x f c rd ra rb) := rfl
theorem vmin (x : Bool) (f : Fmt) (c : Reg) (rd : RowId) (ra : RowId) (rb : RowId) : Statement (.vmin x f c rd ra rb) := rfl
theorem vmax (x : Bool) (f : Fmt) (c : Reg) (rd : RowId) (ra : RowId) (rb : RowId) : Statement (.vmax x f c rd ra rb) := rfl
theorem vabs (x : Bool) (f : Fmt) (c : Reg) (rd : RowId) (ra : RowId) : Statement (.vabs x f c rd ra) := rfl
theorem vsgn (x : Bool) (f : Fmt) (c : Reg) (rd : RowId) (ra : RowId) (rb : RowId) : Statement (.vsgn x f c rd ra rb) := rfl
theorem vand (x : Bool) (f : Fmt) (c : Reg) (rd : RowId) (ra : RowId) (rb : RowId) : Statement (.vand x f c rd ra rb) := rfl
theorem vor (x : Bool) (f : Fmt) (c : Reg) (rd : RowId) (ra : RowId) (rb : RowId) : Statement (.vor x f c rd ra rb) := rfl
theorem vxor (x : Bool) (f : Fmt) (c : Reg) (rd : RowId) (ra : RowId) (rb : RowId) : Statement (.vxor x f c rd ra rb) := rfl
theorem vshl (x : Bool) (f : Fmt) (a : Reg) (c : Reg) (rd : RowId) (ra : RowId) (rb : RowId) : Statement (.vshl x f a c rd ra rb) := rfl
theorem vshr (x : Bool) (f : Fmt) (a : Reg) (c : Reg) (rd : RowId) (ra : RowId) (rb : RowId) : Statement (.vshr x f a c rd ra rb) := rfl
theorem vsha (x : Bool) (f : Fmt) (a : Reg) (c : Reg) (rd : RowId) (ra : RowId) (rb : RowId) : Statement (.vsha x f a c rd ra rb) := rfl
theorem vcmp (x : Bool) (f : Fmt) (a : Reg) (c : Reg) (rd : RowId) (ra : RowId) (rb : RowId) : Statement (.vcmp x f a c rd ra rb) := rfl
theorem vsel (x : Bool) (f : Fmt) (c : Reg) (rd : RowId) (ra : RowId) (rb : RowId) : Statement (.vsel x f c rd ra rb) := rfl
theorem vcvt (x : Bool) (df : Fmt) (sf : Fmt) (a : Reg) (c : Reg) (rd : RowId) (ra : RowId) : Statement (.vcvt x df sf a c rd ra) := rfl
theorem vrcp (x : Bool) (f : Fmt) (c : Reg) (rd : RowId) (ra : RowId) : Statement (.vrcp x f c rd ra) := rfl
theorem vrsq (x : Bool) (f : Fmt) (c : Reg) (rd : RowId) (ra : RowId) : Statement (.vrsq x f c rd ra) := rfl
theorem vexp2 (x : Bool) (f : Fmt) (c : Reg) (rd : RowId) (ra : RowId) : Statement (.vexp2 x f c rd ra) := rfl
theorem vlog2 (x : Bool) (f : Fmt) (c : Reg) (rd : RowId) (ra : RowId) : Statement (.vlog2 x f c rd ra) := rfl
theorem vrsum (f : Fmt) (a : Reg) (c : Reg) (ra : RowId) : Statement (.vrsum f a c ra) := rfl
theorem vrmax (f : Fmt) (a : Reg) (c : Reg) (ra : RowId) : Statement (.vrmax f a c ra) := rfl
theorem vrmin (f : Fmt) (a : Reg) (c : Reg) (ra : RowId) : Statement (.vrmin f a c ra) := rfl
theorem vscan (x : Bool) (f : Fmt) (a : Reg) (c : Reg) (rd : RowId) (ra : RowId) : Statement (.vscan x f a c rd ra) := rfl
theorem vperm (x : Bool) (f : Fmt) (c : Reg) (rd : RowId) (ra : RowId) (rb : RowId) : Statement (.vperm x f c rd ra rb) := rfl
theorem vbcast (x : Bool) (f : Fmt) (a : Reg) (c : Reg) (rd : RowId) : Statement (.vbcast x f a c rd) := rfl
theorem vext (x : Bool) (f : Fmt) (a : Reg) (c : Reg) (rd : RowId) (ra : RowId) (rb : RowId) : Statement (.vext x f a c rd ra rb) := rfl
theorem viota (x : Bool) (f : Fmt) (a : Reg) (c : Reg) (rd : RowId) : Statement (.viota x f a c rd) := rfl
theorem vbfpq (x : Bool) (df : Fmt) (sf : Fmt) (a : Reg) (c : Reg) (rd : RowId) (ra : RowId) : Statement (.vbfpq x df sf a c rd ra) := rfl
theorem vbfpd (x : Bool) (df : Fmt) (sf : Fmt) (a : Reg) (c : Reg) (rd : RowId) (ra : RowId) : Statement (.vbfpd x df sf a c rd ra) := rfl
theorem vld (x : Bool) (w : BitVec 2) (a : Reg) (c : Reg) (rd : RowId) (disp : BitVec 16) : Statement (.vld x w a c rd disp) := rfl
theorem vst (w : BitVec 2) (a : Reg) (c : Reg) (rd : RowId) (disp : BitVec 16) : Statement (.vst w a c rd disp) := rfl
theorem vlds (x : Bool) (w : BitVec 2) (a : Reg) (b : Reg) (c : Reg) (rd : RowId) (disp : BitVec 16) : Statement (.vlds x w a b c rd disp) := rfl
theorem vgath (x : Bool) (w : BitVec 2) (f : Fmt) (a : Reg) (c : Reg) (rd : RowId) (rb : RowId) (disp : BitVec 16) : Statement (.vgath x w f a c rd rb disp) := rfl
theorem vscat (w : BitVec 2) (f : Fmt) (a : Reg) (c : Reg) (rd : RowId) (rb : RowId) (disp : BitVec 16) : Statement (.vscat w f a c rd rb disp) := rfl
theorem tmov (l : Level) (w : BitVec 2) (d : Reg) (a : Reg) : Statement (.tmov l w d a) := rfl
theorem tadd (l : Level) (w : BitVec 2) (d : Reg) (a : Reg) (b : Reg) (c : Reg) : Statement (.tadd l w d a b c) := rfl
theorem tmul (l : Level) (w : BitVec 2) (d : Reg) (a : Reg) (b : Reg) (c : Reg) : Statement (.tmul l w d a b c) := rfl
theorem tcvt (l : Level) (w : BitVec 2) (d : Reg) (a : Reg) (c : Reg) : Statement (.tcvt l w d a c) := rfl
theorem tbaq (l : Level) (w : BitVec 2) (d : Reg) (a : Reg) (b : Reg) (c : Reg) : Statement (.tbaq l w d a b c) := rfl
theorem tsortc (l : Level) (snap : Bool) (w : BitVec 2) (d : Reg) (a : Reg) (c : Reg) : Statement (.tsortc l snap w d a c) := rfl
theorem tcompact (l : Level) (snap : Bool) (w : BitVec 2) (d : Reg) (a : Reg) (b : Reg) (c : Reg) : Statement (.tcompact l snap w d a b c) := rfl
theorem tred (l : Level) (w : BitVec 2) (d : Reg) (a : Reg) (c : Reg) : Statement (.tred l w d a c) := rfl
theorem ttrans (l : Level) (w : BitVec 2) (d : Reg) (a : Reg) (c : Reg) : Statement (.ttrans l w d a c) := rfl
theorem tfill (l : Level) (w : BitVec 2) (d : Reg) (a : Reg) (c : Reg) : Statement (.tfill l w d a c) := rfl
theorem tmmaFloat (l : Level) (w : BitVec 2) (fa : FloatAB) (fb : FloatAB) (d : Reg) (a : Reg) (b : Reg) (c : Reg) : Statement (.tmmaFloat l w fa fb d a b c) := rfl
theorem tmmaBlock (l : Level) (w : BitVec 2) (fa : Fin 7) (fb : Fin 7) (d : Reg) (a : Reg) (b : Reg) (c : Reg) : Statement (.tmmaBlock l w fa fb d a b c) := rfl
theorem tmmagFloat (l : Level) (snap : Bool) (w : BitVec 2) (fa : FloatAB) (fb : FloatAB) (d : Reg) (a : Reg) (b : Reg) (c : Reg) : Statement (.tmmagFloat l snap w fa fb d a b c) := rfl
theorem tmmagBlock (l : Level) (snap : Bool) (w : BitVec 2) (fa : Fin 7) (fb : Fin 7) (d : Reg) (a : Reg) (b : Reg) (c : Reg) : Statement (.tmmagBlock l snap w fa fb d a b c) := rfl
theorem lineFetch : Statement (.lineFetch) := rfl
theorem powerOnReset (badDies : List Nat) : Statement (.powerOnReset badDies) := rfl
theorem qtailWrite (q : Nat) (v : Word) : Statement (.qtailWrite q v) := rfl
theorem queueEnable (q : Nat) (v : Word) : Statement (.queueEnable q v) := rfl
theorem queueDisable (q : Nat) (v : Word) : Statement (.queueDisable q v) := rfl
theorem queueReset (q : Nat) (v : Word) : Statement (.queueReset q v) := rfl
theorem queuePreempt (q : Nat) (v : Word) : Statement (.queuePreempt q v) := rfl
theorem registerWrite (off : Nat) (v : HostWord) : Statement (.registerWrite off v) := rfl
theorem errheadWrite (v : Word) : Statement (.errheadWrite v) := rfl
theorem apertureRead (off : Nat) (n : Nat) : Statement (.apertureRead off n) := rfl
theorem apertureWrite (off : Nat) (bytes : List Byte) : Statement (.apertureWrite off bytes) := rfl
theorem nopPacket (q : Nat) : Statement (.nopPacket q) := rfl
theorem launch (q : Nat) : Statement (.launch q) := rfl
theorem launchi (q : Nat) : Statement (.launchi q) := rfl
theorem loopPacket (q : Nat) : Statement (.loopPacket q) := rfl
theorem condPacket (q : Nat) : Statement (.condPacket q) := rfl
theorem waitPacket (q : Nat) : Statement (.waitPacket q) := rfl
theorem signalPacket (q : Nat) : Statement (.signalPacket q) := rfl
theorem queueUnblock (q : Nat) : Statement (.queueUnblock q) := rfl
theorem waitReread (q : Nat) : Statement (.waitReread q) := rfl
theorem queueStarvation (q : Nat) : Statement (.queueStarvation q) := rfl
theorem launchMessage (k : Nat) (vcn : Nat) : Statement (.launchMessage k vcn) := rfl
theorem kernelCompletion (k : Nat) : Statement (.kernelCompletion k) := rfl
theorem dispatch (core : Nat) : Statement (.dispatch core) := rfl
theorem suspensionThreshold (core : Nat) : Statement (.suspensionThreshold core) := rfl
theorem suspensionDrain (core : Nat) : Statement (.suspensionDrain core) := rfl
theorem recordWritten (sid : Nat) : Statement (.recordWritten sid) := rfl
theorem wakeArrival (id : Nat) : Statement (.wakeArrival id) := rfl
theorem spawnArrival (id : Nat) : Statement (.spawnArrival id) := rfl
theorem qpushArrival (id : Nat) : Statement (.qpushArrival id) := rfl
theorem quiescence (k : Nat) : Statement (.quiescence k) := rfl
theorem quiescenceArrival (k : Nat) (vcn : Nat) : Statement (.quiescenceArrival k vcn) := rfl
theorem tileEvictionDone (core : Nat) : Statement (.tileEvictionDone core) := rfl
theorem tileRestoreDone (core : Nat) : Statement (.tileRestoreDone core) := rfl
theorem residencyArbitration (asid : Nat) (victim : Nat) : Statement (.residencyArbitration asid victim) := rfl
theorem residencyQuantum (asid : Nat) : Statement (.residencyQuantum asid) := rfl
theorem contextEviction (asid : Nat) : Statement (.contextEviction asid) := rfl
theorem saveAcknowledged (asid : Nat) : Statement (.saveAcknowledged asid) := rfl
theorem makeResident (asid : Nat) (pcns : List Nat) : Statement (.makeResident asid pcns) := rfl
theorem tileDecompose (seq : Nat) : Statement (.tileDecompose seq) := rfl
theorem stagingStart (seq : Nat) (leaf : Nat) : Statement (.stagingStart seq leaf) := rfl
theorem stagingDone (seq : Nat) (leaf : Nat) : Statement (.stagingDone seq leaf) := rfl
theorem matrixGrant (pcn : Nat) : Statement (.matrixGrant pcn) := rfl
theorem kblockDone (seq : Nat) (leaf : Nat) (residueOk : Bool) : Statement (.kblockDone seq leaf residueOk) := rfl
theorem laneGroupGrant (pcn : Nat) : Statement (.laneGroupGrant pcn) := rfl
theorem laneGroupRelease (pcn : Nat) (group : Nat) : Statement (.laneGroupRelease pcn group) := rfl
theorem childCompletion (seq : Nat) (leaf : Nat) : Statement (.childCompletion seq leaf) := rfl
theorem taskSteal (vcn : Nat) : Statement (.taskSteal vcn) := rfl
theorem stealDone (seq : Nat) (leaf : Nat) : Statement (.stealDone seq leaf) := rfl
theorem pageWalkDone (w : Walk) (asid : Nat) (va : Nat) : Statement (.pageWalkDone w asid va) := rfl
theorem asgenDone (asid : Nat) : Statement (.asgenDone asid) := rfl
theorem homeAccess (id : Nat) : Statement (.homeAccess id) := rfl
theorem accessResponse (id : Nat) : Statement (.accessResponse id) := rfl
theorem atomicMerge (ids : List Nat) : Statement (.atomicMerge ids) := rfl
theorem claimRelease (id : Nat) : Statement (.claimRelease id) := rfl
theorem engineCompletion (id : Nat) : Statement (.engineCompletion id) := rfl
theorem faultQueueReplay (id : Nat) : Statement (.faultQueueReplay id) := rfl
theorem faultQueueResend (id : Nat) : Statement (.faultQueueResend id) := rfl
theorem eventLineLoad (id : Nat) : Statement (.eventLineLoad id) := rfl
theorem eventLineStore (id : Nat) : Statement (.eventLineStore id) := rfl
theorem barcfgStore (id : Nat) : Statement (.barcfgStore id) := rfl
theorem barrierArrival (id : Nat) : Statement (.barrierArrival id) := rfl
theorem barrierParentArrival (vcn : Nat) (bar : Nat) : Statement (.barrierParentArrival vcn bar) := rfl
theorem barrierRelease (vcn : Nat) (bar : Nat) : Statement (.barrierRelease vcn bar) := rfl
theorem mutexAcquire (id : Nat) : Statement (.mutexAcquire id) := rfl
theorem mutexRelease (id : Nat) : Statement (.mutexRelease id) := rfl
theorem arrival (id : Nat) : Statement (.arrival id) := rfl
theorem watchTimeout (id : Nat) : Statement (.watchTimeout id) := rfl
theorem logEntryAccept (id : Nat) : Statement (.logEntryAccept id) := rfl
theorem residueReject (core : Nat) (back : Nat) : Statement (.residueReject core back) := rfl
theorem rollbackDone (sid : Nat) : Statement (.rollbackDone sid) := rfl
theorem watchdogLimit (k : Nat) : Statement (.watchdogLimit k) := rfl
theorem watchdogTrap (k : Nat) : Statement (.watchdogTrap k) := rfl
theorem watchdogKill (k : Nat) : Statement (.watchdogKill k) := rfl
theorem countWaitMet (core : Nat) : Statement (.countWaitMet core) := rfl
theorem trapStop (core : Nat) : Statement (.trapStop core) := rfl
theorem asyncTrapArrival (sid : Nat) : Statement (.asyncTrapArrival sid) := rfl
theorem frameSlotGrant (asid : Nat) (chain : Nat) : Statement (.frameSlotGrant asid chain) := rfl
theorem mapPublication : Statement (.mapPublication) := rfl
theorem publicationArrival (router : Nat) : Statement (.publicationArrival router) := rfl
theorem rotationStepInstant (chip : Nat) : Statement (.rotationStepInstant chip) := rfl
theorem drainPoint (chip : Nat) : Statement (.drainPoint chip) := rfl
theorem drainDeadline (chip : Nat) : Statement (.drainDeadline chip) := rfl
theorem finalCopyDone (chip : Nat) : Statement (.finalCopyDone chip) := rfl
theorem forwardedMessage (id : Nat) : Statement (.forwardedMessage id) := rfl
theorem staleResend (id : Nat) : Statement (.staleResend id) := rfl
theorem graceWindowClose (chip : Nat) : Statement (.graceWindowClose chip) := rfl
theorem selfTestDone (pcn : Nat) (result : TestResult) : Statement (.selfTestDone pcn result) := rfl
theorem patch (chip : Nat) (seg : Nat) : Statement (.patch chip seg) := rfl
theorem routerDead (pcn : Nat) : Statement (.routerDead pcn) := rfl
theorem deadRouterRetirement (pcn : Nat) : Statement (.deadRouterRetirement pcn) := rfl
theorem healthSweep : Statement (.healthSweep) := rfl
theorem ageingSave : Statement (.ageingSave) := rfl
theorem hartRestart (queues : List Nat) : Statement (.hartRestart queues) := rfl
theorem migrate (i : Inst) : Statement (.migrate i) := rfl
theorem migrationBlockCopy (mid : Nat) (ok : Bool) : Statement (.migrationBlockCopy mid ok) := rfl
theorem migrationFlip (mid : Nat) : Statement (.migrationFlip mid) := rfl
theorem moor (i : Inst) : Statement (.moor i) := rfl
theorem unmoor (i : Inst) : Statement (.unmoor i) := rfl
theorem peerset (i : Inst) : Statement (.peerset i) := rfl
theorem peerclr (i : Inst) : Statement (.peerclr i) := rfl
theorem retrain (i : Inst) : Statement (.retrain i) := rfl
theorem ctxstop (i : Inst) : Statement (.ctxstop i) := rfl
theorem ctxstopComplete (asid : Nat) : Statement (.ctxstopComplete asid) := rfl
theorem ctxgo (i : Inst) : Statement (.ctxgo i) := rfl
theorem rstep (i : Inst) : Statement (.rstep i) := rfl
theorem pktbrk (i : Inst) : Statement (.pktbrk i) := rfl
theorem pktgo (i : Inst) : Statement (.pktgo i) := rfl
theorem sstop (i : Inst) : Statement (.sstop i) := rfl
theorem traceopen (i : Inst) : Statement (.traceopen i) := rfl
theorem traceclose (i : Inst) : Statement (.traceclose i) := rfl
theorem traceFlush (chip : Nat) : Statement (.traceFlush chip) := rfl
theorem keygen (i : Inst) : Statement (.keygen i) := rfl
theorem keywipe (i : Inst) : Statement (.keywipe i) := rfl
theorem dbgchal (i : Inst) : Statement (.dbgchal i) := rfl
theorem dbgunlock (i : Inst) : Statement (.dbgunlock i) := rfl
theorem nonceExpiry : Statement (.nonceExpiry) := rfl
theorem physrd (i : Inst) : Statement (.physrd i) := rfl
theorem fwstate (i : Inst) : Statement (.fwstate i) := rfl
theorem unknownMailboxOp (i : Inst) : Statement (.unknownMailboxOp i) := rfl
theorem endpointIdAssignment (eid : Nat) : Statement (.endpointIdAssignment eid) := rfl
theorem versionDiscovery : Statement (.versionDiscovery) := rfl
theorem messageTypeDiscovery : Statement (.messageTypeDiscovery) := rfl
theorem numericSensorRead (sensor : Nat) : Statement (.numericSensorRead sensor) := rfl
theorem getVersion : Statement (.getVersion) := rfl
theorem getCapabilities : Statement (.getCapabilities) := rfl
theorem negotiateAlgorithms (mlDsa : Bool) (shake : Bool) : Statement (.negotiateAlgorithms mlDsa shake) := rfl
theorem getDigests : Statement (.getDigests) := rfl
theorem getCertificate : Statement (.getCertificate) := rfl
theorem challenge (nonce : List Byte) : Statement (.challenge nonce) := rfl
theorem getMeasurements (slot : Nat) (nonce : List Byte) : Statement (.getMeasurements slot nonce) := rfl
theorem regrd (off : Nat) (n : Nat) : Statement (.regrd off n) := rfl
theorem regwr (off : Nat) (v : Word) : Statement (.regwr off v) := rfl
theorem sidebandMaprd (vcn : Nat) : Statement (.sidebandMaprd vcn) := rfl
theorem errrd (idx : Nat) : Statement (.errrd idx) := rfl
theorem unsupportedMessage (ty : Nat) : Statement (.unsupportedMessage ty) := rfl
theorem sxctlEnable (p : Nat) : Statement (.sxctlEnable p) := rfl
theorem sxctlReset (p : Nat) : Statement (.sxctlReset p) := rfl
theorem portTrained (p : Nat) (width : Nat) (remote : Word) : Statement (.portTrained p width remote) := rfl
theorem flitReceive (p : Nat) (flit : List Byte) : Statement (.flitReceive p flit) := rfl
theorem nakReceive (p : Nat) (ack : Nat) : Statement (.nakReceive p ack) := rfl
theorem replayTimeout (p : Nat) : Statement (.replayTimeout p) := rfl
theorem laneDeath (p : Nat) (lane : Nat) : Statement (.laneDeath p lane) := rfl
theorem retrainDone (p : Nat) : Statement (.retrainDone p) := rfl
theorem shadexWrite (p : Nat) : Statement (.shadexWrite p) := rfl
theorem readreq (p : Nat) : Statement (.readreq p) := rfl
theorem readdata (p : Nat) : Statement (.readdata p) := rfl
theorem response (p : Nat) : Statement (.response p) := rfl
theorem peerRetry (id : Nat) : Statement (.peerRetry id) := rfl
theorem gatewayReduction (asid : Nat) (k : Nat) (block : Nat) : Statement (.gatewayReduction asid k block) := rfl
theorem hostReadCompletion (id : Nat) : Statement (.hostReadCompletion id) := rfl
theorem beaconExchange (die : Nat) (offset : Int) : Statement (.beaconExchange die offset) := rfl
theorem pmcEvent (vcn : Nat) (code : Nat) (n : Nat) : Statement (.pmcEvent vcn code n) := rfl
theorem junctionThrottle (chip : Nat) : Statement (.junctionThrottle chip) := rfl
theorem junctionRecover (chip : Nat) : Statement (.junctionRecover chip) := rfl
theorem dieOvertemp (die : Nat) (temp : Nat) : Statement (.dieOvertemp die temp) := rfl
theorem clusterReinstatement (pcn : Nat) : Statement (.clusterReinstatement pcn) := rfl
theorem orderlyShutdown : Statement (.orderlyShutdown) := rfl
theorem cpReadRetry (q : Nat) : Statement (.cpReadRetry q) := rfl
theorem hostPortDown : Statement (.hostPortDown) := rfl
theorem hostPortUp (width : Nat) : Statement (.hostPortUp width) := rfl
theorem csrwCompletion (asid : Nat) : Statement (.csrwCompletion asid) := rfl

end Sys2Proof.Laws.EncodeScope
end

