-- ==== Sys2Proof/Laws/State.lean ====
section
/-! SUPPORT. One lemma per field for the updates of the running strand's core: what each leaves as it was. -/

namespace Sys2Proof.Machine

@[simp] theorem advance_focus (s : State) : (s.advance).focus = s.focus := rfl
@[simp] theorem advance_cores (s : State) : (s.advance).cores = s.cores := rfl
@[simp] theorem advance_strands (s : State) : (s.advance).strands = s.strands := rfl
@[simp] theorem advance_nextSid (s : State) : (s.advance).nextSid = s.nextSid := rfl
@[simp] theorem advance_ready (s : State) : (s.advance).ready = s.ready := rfl
@[simp] theorem advance_mem (s : State) : (s.advance).mem = s.mem := rfl
@[simp] theorem advance_keys (s : State) : (s.advance).keys = s.keys := rfl
@[simp] theorem advance_keyCtr (s : State) : (s.advance).keyCtr = s.keyCtr := rfl
@[simp] theorem advance_tlb (s : State) : (s.advance).tlb = s.tlb := rfl
@[simp] theorem advance_walks (s : State) : (s.advance).walks = s.walks := rfl
@[simp] theorem advance_icache (s : State) : (s.advance).icache = s.icache := rfl
@[simp] theorem advance_flight (s : State) : (s.advance).flight = s.flight := rfl
@[simp] theorem advance_engines (s : State) : (s.advance).engines = s.engines := rfl
@[simp] theorem advance_claims (s : State) : (s.advance).claims = s.claims := rfl
@[simp] theorem advance_watches (s : State) : (s.advance).watches = s.watches := rfl
@[simp] theorem advance_nextId (s : State) : (s.advance).nextId = s.nextId := rfl
@[simp] theorem advance_tiles (s : State) : (s.advance).tiles = s.tiles := rfl
@[simp] theorem advance_vcs (s : State) : (s.advance).vcs = s.vcs := rfl
@[simp] theorem advance_ctxs (s : State) : (s.advance).ctxs = s.ctxs := rfl
@[simp] theorem advance_queues (s : State) : (s.advance).queues = s.queues := rfl
@[simp] theorem advance_kernels (s : State) : (s.advance).kernels = s.kernels := rfl
@[simp] theorem advance_nextKernel (s : State) : (s.advance).nextKernel = s.nextKernel := rfl
@[simp] theorem advance_lastQueue (s : State) : (s.advance).lastQueue = s.lastQueue := rfl
@[simp] theorem advance_map (s : State) : (s.advance).map = s.map := rfl
@[simp] theorem advance_mapSeq (s : State) : (s.advance).mapSeq = s.mapSeq := rfl
@[simp] theorem advance_pubs (s : State) : (s.advance).pubs = s.pubs := rfl
@[simp] theorem advance_pubReqs (s : State) : (s.advance).pubReqs = s.pubReqs := rfl
@[simp] theorem advance_clusters (s : State) : (s.advance).clusters = s.clusters := rfl
@[simp] theorem advance_chips (s : State) : (s.advance).chips = s.chips := rfl
@[simp] theorem advance_lostDies (s : State) : (s.advance).lostDies = s.lostDies := rfl
@[simp] theorem advance_stackErrs (s : State) : (s.advance).stackErrs = s.stackErrs := rfl
@[simp] theorem advance_asyncFlight (s : State) : (s.advance).asyncFlight = s.asyncFlight := rfl
@[simp] theorem advance_releases (s : State) : (s.advance).releases = s.releases := rfl
@[simp] theorem advance_parentArrivals (s : State) : (s.advance).parentArrivals = s.parentArrivals := rfl
@[simp] theorem advance_arrivals (s : State) : (s.advance).arrivals = s.arrivals := rfl
@[simp] theorem advance_migrations (s : State) : (s.advance).migrations = s.migrations := rfl
@[simp] theorem advance_peers (s : State) : (s.advance).peers = s.peers := rfl
@[simp] theorem advance_ports (s : State) : (s.advance).ports = s.ports := rfl
@[simp] theorem advance_mboxHost (s : State) : (s.advance).mboxHost = s.mboxHost := rfl
@[simp] theorem advance_mboxSide (s : State) : (s.advance).mboxSide = s.mboxSide := rfl
@[simp] theorem advance_mbOrder (s : State) : (s.advance).mbOrder = s.mbOrder := rfl
@[simp] theorem advance_fuses (s : State) : (s.advance).fuses = s.fuses := rfl
@[simp] theorem advance_trust (s : State) : (s.advance).trust = s.trust := rfl
@[simp] theorem advance_hostIf (s : State) : (s.advance).hostIf = s.hostIf := rfl
@[simp] theorem advance_ptime (s : State) : (s.advance).ptime = s.ptime := rfl
@[simp] theorem advance_freeCtr (s : State) : (s.advance).freeCtr = s.freeCtr := rfl
@[simp] theorem advance_sched (s : State) : (s.advance).sched = s.sched := rfl
@[simp] theorem advance_cur_run (s : State) : (s.advance).cur.run = s.cur.run := rfl
@[simp] theorem advance_cur_str (s : State) : (s.advance).cur.str = s.cur.str := rfl
@[simp] theorem advance_cur_regs (s : State) : (s.advance).cur.regs = s.cur.regs := rfl
@[simp] theorem advance_cur_line (s : State) : (s.advance).cur.line = s.cur.line := rfl
@[simp] theorem advance_cur_bypass (s : State) : (s.advance).cur.bypass = s.cur.bypass := rfl
@[simp] theorem advance_cur_runStamp (s : State) : (s.advance).cur.runStamp = s.cur.runStamp := rfl
@[simp] theorem advance_cur_mark (s : State) : (s.advance).cur.mark = s.cur.mark := rfl
@[simp] theorem advance_cur_gate (s : State) : (s.advance).cur.gate = s.cur.gate := rfl
@[simp] theorem advance_cur_susp (s : State) : (s.advance).cur.susp = s.cur.susp := rfl
@[simp] theorem advance_cur_stop (s : State) : (s.advance).cur.stop = s.cur.stop := rfl
@[simp] theorem advance_cur_idles (s : State) : (s.advance).cur.idles = s.cur.idles := rfl
@[simp] theorem advance_cur_slot0 (s : State) : (s.advance).cur.slot0 = s.cur.slot0 := rfl
@[simp] theorem advance_cur_slot1 (s : State) : (s.advance).cur.slot1 = s.cur.slot1 := rfl
@[simp] theorem advance_cur_l5Marks (s : State) : (s.advance).cur.l5Marks = s.cur.l5Marks := rfl
@[simp] theorem advance_cur_vq (s : State) : (s.advance).cur.vq = s.cur.vq := rfl
@[simp] theorem advance_cur_pass (s : State) : (s.advance).cur.pass = s.cur.pass := rfl

@[simp] theorem jump_focus (s : State) (pc : BitVec 56) (past : Bool) : (s.jump pc past).focus = s.focus := rfl
@[simp] theorem jump_cores (s : State) (pc : BitVec 56) (past : Bool) : (s.jump pc past).cores = s.cores := rfl
@[simp] theorem jump_strands (s : State) (pc : BitVec 56) (past : Bool) : (s.jump pc past).strands = s.strands := rfl
@[simp] theorem jump_nextSid (s : State) (pc : BitVec 56) (past : Bool) : (s.jump pc past).nextSid = s.nextSid := rfl
@[simp] theorem jump_ready (s : State) (pc : BitVec 56) (past : Bool) : (s.jump pc past).ready = s.ready := rfl
@[simp] theorem jump_mem (s : State) (pc : BitVec 56) (past : Bool) : (s.jump pc past).mem = s.mem := rfl
@[simp] theorem jump_keys (s : State) (pc : BitVec 56) (past : Bool) : (s.jump pc past).keys = s.keys := rfl
@[simp] theorem jump_keyCtr (s : State) (pc : BitVec 56) (past : Bool) : (s.jump pc past).keyCtr = s.keyCtr := rfl
@[simp] theorem jump_tlb (s : State) (pc : BitVec 56) (past : Bool) : (s.jump pc past).tlb = s.tlb := rfl
@[simp] theorem jump_walks (s : State) (pc : BitVec 56) (past : Bool) : (s.jump pc past).walks = s.walks := rfl
@[simp] theorem jump_icache (s : State) (pc : BitVec 56) (past : Bool) : (s.jump pc past).icache = s.icache := rfl
@[simp] theorem jump_flight (s : State) (pc : BitVec 56) (past : Bool) : (s.jump pc past).flight = s.flight := rfl
@[simp] theorem jump_engines (s : State) (pc : BitVec 56) (past : Bool) : (s.jump pc past).engines = s.engines := rfl
@[simp] theorem jump_claims (s : State) (pc : BitVec 56) (past : Bool) : (s.jump pc past).claims = s.claims := rfl
@[simp] theorem jump_watches (s : State) (pc : BitVec 56) (past : Bool) : (s.jump pc past).watches = s.watches := rfl
@[simp] theorem jump_nextId (s : State) (pc : BitVec 56) (past : Bool) : (s.jump pc past).nextId = s.nextId := rfl
@[simp] theorem jump_tiles (s : State) (pc : BitVec 56) (past : Bool) : (s.jump pc past).tiles = s.tiles := rfl
@[simp] theorem jump_vcs (s : State) (pc : BitVec 56) (past : Bool) : (s.jump pc past).vcs = s.vcs := rfl
@[simp] theorem jump_ctxs (s : State) (pc : BitVec 56) (past : Bool) : (s.jump pc past).ctxs = s.ctxs := rfl
@[simp] theorem jump_queues (s : State) (pc : BitVec 56) (past : Bool) : (s.jump pc past).queues = s.queues := rfl
@[simp] theorem jump_kernels (s : State) (pc : BitVec 56) (past : Bool) : (s.jump pc past).kernels = s.kernels := rfl
@[simp] theorem jump_nextKernel (s : State) (pc : BitVec 56) (past : Bool) : (s.jump pc past).nextKernel = s.nextKernel := rfl
@[simp] theorem jump_lastQueue (s : State) (pc : BitVec 56) (past : Bool) : (s.jump pc past).lastQueue = s.lastQueue := rfl
@[simp] theorem jump_map (s : State) (pc : BitVec 56) (past : Bool) : (s.jump pc past).map = s.map := rfl
@[simp] theorem jump_mapSeq (s : State) (pc : BitVec 56) (past : Bool) : (s.jump pc past).mapSeq = s.mapSeq := rfl
@[simp] theorem jump_pubs (s : State) (pc : BitVec 56) (past : Bool) : (s.jump pc past).pubs = s.pubs := rfl
@[simp] theorem jump_pubReqs (s : State) (pc : BitVec 56) (past : Bool) : (s.jump pc past).pubReqs = s.pubReqs := rfl
@[simp] theorem jump_clusters (s : State) (pc : BitVec 56) (past : Bool) : (s.jump pc past).clusters = s.clusters := rfl
@[simp] theorem jump_chips (s : State) (pc : BitVec 56) (past : Bool) : (s.jump pc past).chips = s.chips := rfl
@[simp] theorem jump_lostDies (s : State) (pc : BitVec 56) (past : Bool) : (s.jump pc past).lostDies = s.lostDies := rfl
@[simp] theorem jump_stackErrs (s : State) (pc : BitVec 56) (past : Bool) : (s.jump pc past).stackErrs = s.stackErrs := rfl
@[simp] theorem jump_asyncFlight (s : State) (pc : BitVec 56) (past : Bool) : (s.jump pc past).asyncFlight = s.asyncFlight := rfl
@[simp] theorem jump_releases (s : State) (pc : BitVec 56) (past : Bool) : (s.jump pc past).releases = s.releases := rfl
@[simp] theorem jump_parentArrivals (s : State) (pc : BitVec 56) (past : Bool) : (s.jump pc past).parentArrivals = s.parentArrivals := rfl
@[simp] theorem jump_arrivals (s : State) (pc : BitVec 56) (past : Bool) : (s.jump pc past).arrivals = s.arrivals := rfl
@[simp] theorem jump_migrations (s : State) (pc : BitVec 56) (past : Bool) : (s.jump pc past).migrations = s.migrations := rfl
@[simp] theorem jump_peers (s : State) (pc : BitVec 56) (past : Bool) : (s.jump pc past).peers = s.peers := rfl
@[simp] theorem jump_ports (s : State) (pc : BitVec 56) (past : Bool) : (s.jump pc past).ports = s.ports := rfl
@[simp] theorem jump_mboxHost (s : State) (pc : BitVec 56) (past : Bool) : (s.jump pc past).mboxHost = s.mboxHost := rfl
@[simp] theorem jump_mboxSide (s : State) (pc : BitVec 56) (past : Bool) : (s.jump pc past).mboxSide = s.mboxSide := rfl
@[simp] theorem jump_mbOrder (s : State) (pc : BitVec 56) (past : Bool) : (s.jump pc past).mbOrder = s.mbOrder := rfl
@[simp] theorem jump_fuses (s : State) (pc : BitVec 56) (past : Bool) : (s.jump pc past).fuses = s.fuses := rfl
@[simp] theorem jump_trust (s : State) (pc : BitVec 56) (past : Bool) : (s.jump pc past).trust = s.trust := rfl
@[simp] theorem jump_hostIf (s : State) (pc : BitVec 56) (past : Bool) : (s.jump pc past).hostIf = s.hostIf := rfl
@[simp] theorem jump_ptime (s : State) (pc : BitVec 56) (past : Bool) : (s.jump pc past).ptime = s.ptime := rfl
@[simp] theorem jump_freeCtr (s : State) (pc : BitVec 56) (past : Bool) : (s.jump pc past).freeCtr = s.freeCtr := rfl
@[simp] theorem jump_sched (s : State) (pc : BitVec 56) (past : Bool) : (s.jump pc past).sched = s.sched := rfl
@[simp] theorem jump_cur_run (s : State) (pc : BitVec 56) (past : Bool) : (s.jump pc past).cur.run = s.cur.run := rfl
@[simp] theorem jump_cur_str (s : State) (pc : BitVec 56) (past : Bool) : (s.jump pc past).cur.str = s.cur.str := rfl
@[simp] theorem jump_cur_regs (s : State) (pc : BitVec 56) (past : Bool) : (s.jump pc past).cur.regs = s.cur.regs := rfl
@[simp] theorem jump_cur_line (s : State) (pc : BitVec 56) (past : Bool) : (s.jump pc past).cur.line = s.cur.line := rfl
@[simp] theorem jump_cur_bypass (s : State) (pc : BitVec 56) (past : Bool) : (s.jump pc past).cur.bypass = s.cur.bypass := rfl
@[simp] theorem jump_cur_runStamp (s : State) (pc : BitVec 56) (past : Bool) : (s.jump pc past).cur.runStamp = s.cur.runStamp := rfl
@[simp] theorem jump_cur_mark (s : State) (pc : BitVec 56) (past : Bool) : (s.jump pc past).cur.mark = s.cur.mark := rfl
@[simp] theorem jump_cur_gate (s : State) (pc : BitVec 56) (past : Bool) : (s.jump pc past).cur.gate = s.cur.gate := rfl
@[simp] theorem jump_cur_susp (s : State) (pc : BitVec 56) (past : Bool) : (s.jump pc past).cur.susp = s.cur.susp := rfl
@[simp] theorem jump_cur_stop (s : State) (pc : BitVec 56) (past : Bool) : (s.jump pc past).cur.stop = s.cur.stop := rfl
@[simp] theorem jump_cur_idles (s : State) (pc : BitVec 56) (past : Bool) : (s.jump pc past).cur.idles = s.cur.idles := rfl
@[simp] theorem jump_cur_slot0 (s : State) (pc : BitVec 56) (past : Bool) : (s.jump pc past).cur.slot0 = s.cur.slot0 := rfl
@[simp] theorem jump_cur_slot1 (s : State) (pc : BitVec 56) (past : Bool) : (s.jump pc past).cur.slot1 = s.cur.slot1 := rfl
@[simp] theorem jump_cur_l5Marks (s : State) (pc : BitVec 56) (past : Bool) : (s.jump pc past).cur.l5Marks = s.cur.l5Marks := rfl
@[simp] theorem jump_cur_vq (s : State) (pc : BitVec 56) (past : Bool) : (s.jump pc past).cur.vq = s.cur.vq := rfl
@[simp] theorem jump_cur_pass (s : State) (pc : BitVec 56) (past : Bool) : (s.jump pc past).cur.pass = s.cur.pass := rfl

@[simp] theorem waiting_focus (s : State) (w : Wait) : (s.waiting w).focus = s.focus := rfl
@[simp] theorem waiting_cores (s : State) (w : Wait) : (s.waiting w).cores = s.cores := rfl
@[simp] theorem waiting_strands (s : State) (w : Wait) : (s.waiting w).strands = s.strands := rfl
@[simp] theorem waiting_nextSid (s : State) (w : Wait) : (s.waiting w).nextSid = s.nextSid := rfl
@[simp] theorem waiting_ready (s : State) (w : Wait) : (s.waiting w).ready = s.ready := rfl
@[simp] theorem waiting_mem (s : State) (w : Wait) : (s.waiting w).mem = s.mem := rfl
@[simp] theorem waiting_keys (s : State) (w : Wait) : (s.waiting w).keys = s.keys := rfl
@[simp] theorem waiting_keyCtr (s : State) (w : Wait) : (s.waiting w).keyCtr = s.keyCtr := rfl
@[simp] theorem waiting_tlb (s : State) (w : Wait) : (s.waiting w).tlb = s.tlb := rfl
@[simp] theorem waiting_walks (s : State) (w : Wait) : (s.waiting w).walks = s.walks := rfl
@[simp] theorem waiting_icache (s : State) (w : Wait) : (s.waiting w).icache = s.icache := rfl
@[simp] theorem waiting_flight (s : State) (w : Wait) : (s.waiting w).flight = s.flight := rfl
@[simp] theorem waiting_engines (s : State) (w : Wait) : (s.waiting w).engines = s.engines := rfl
@[simp] theorem waiting_claims (s : State) (w : Wait) : (s.waiting w).claims = s.claims := rfl
@[simp] theorem waiting_watches (s : State) (w : Wait) : (s.waiting w).watches = s.watches := rfl
@[simp] theorem waiting_nextId (s : State) (w : Wait) : (s.waiting w).nextId = s.nextId := rfl
@[simp] theorem waiting_tiles (s : State) (w : Wait) : (s.waiting w).tiles = s.tiles := rfl
@[simp] theorem waiting_vcs (s : State) (w : Wait) : (s.waiting w).vcs = s.vcs := rfl
@[simp] theorem waiting_ctxs (s : State) (w : Wait) : (s.waiting w).ctxs = s.ctxs := rfl
@[simp] theorem waiting_queues (s : State) (w : Wait) : (s.waiting w).queues = s.queues := rfl
@[simp] theorem waiting_kernels (s : State) (w : Wait) : (s.waiting w).kernels = s.kernels := rfl
@[simp] theorem waiting_nextKernel (s : State) (w : Wait) : (s.waiting w).nextKernel = s.nextKernel := rfl
@[simp] theorem waiting_lastQueue (s : State) (w : Wait) : (s.waiting w).lastQueue = s.lastQueue := rfl
@[simp] theorem waiting_map (s : State) (w : Wait) : (s.waiting w).map = s.map := rfl
@[simp] theorem waiting_mapSeq (s : State) (w : Wait) : (s.waiting w).mapSeq = s.mapSeq := rfl
@[simp] theorem waiting_pubs (s : State) (w : Wait) : (s.waiting w).pubs = s.pubs := rfl
@[simp] theorem waiting_pubReqs (s : State) (w : Wait) : (s.waiting w).pubReqs = s.pubReqs := rfl
@[simp] theorem waiting_clusters (s : State) (w : Wait) : (s.waiting w).clusters = s.clusters := rfl
@[simp] theorem waiting_chips (s : State) (w : Wait) : (s.waiting w).chips = s.chips := rfl
@[simp] theorem waiting_lostDies (s : State) (w : Wait) : (s.waiting w).lostDies = s.lostDies := rfl
@[simp] theorem waiting_stackErrs (s : State) (w : Wait) : (s.waiting w).stackErrs = s.stackErrs := rfl
@[simp] theorem waiting_asyncFlight (s : State) (w : Wait) : (s.waiting w).asyncFlight = s.asyncFlight := rfl
@[simp] theorem waiting_releases (s : State) (w : Wait) : (s.waiting w).releases = s.releases := rfl
@[simp] theorem waiting_parentArrivals (s : State) (w : Wait) : (s.waiting w).parentArrivals = s.parentArrivals := rfl
@[simp] theorem waiting_arrivals (s : State) (w : Wait) : (s.waiting w).arrivals = s.arrivals := rfl
@[simp] theorem waiting_migrations (s : State) (w : Wait) : (s.waiting w).migrations = s.migrations := rfl
@[simp] theorem waiting_peers (s : State) (w : Wait) : (s.waiting w).peers = s.peers := rfl
@[simp] theorem waiting_ports (s : State) (w : Wait) : (s.waiting w).ports = s.ports := rfl
@[simp] theorem waiting_mboxHost (s : State) (w : Wait) : (s.waiting w).mboxHost = s.mboxHost := rfl
@[simp] theorem waiting_mboxSide (s : State) (w : Wait) : (s.waiting w).mboxSide = s.mboxSide := rfl
@[simp] theorem waiting_mbOrder (s : State) (w : Wait) : (s.waiting w).mbOrder = s.mbOrder := rfl
@[simp] theorem waiting_fuses (s : State) (w : Wait) : (s.waiting w).fuses = s.fuses := rfl
@[simp] theorem waiting_trust (s : State) (w : Wait) : (s.waiting w).trust = s.trust := rfl
@[simp] theorem waiting_hostIf (s : State) (w : Wait) : (s.waiting w).hostIf = s.hostIf := rfl
@[simp] theorem waiting_ptime (s : State) (w : Wait) : (s.waiting w).ptime = s.ptime := rfl
@[simp] theorem waiting_events (s : State) (w : Wait) : (s.waiting w).events = s.events := rfl
@[simp] theorem waiting_freeCtr (s : State) (w : Wait) : (s.waiting w).freeCtr = s.freeCtr := rfl
@[simp] theorem waiting_sched (s : State) (w : Wait) : (s.waiting w).sched = s.sched := rfl
@[simp] theorem waiting_cur_run (s : State) (w : Wait) : (s.waiting w).cur.run = s.cur.run := rfl
@[simp] theorem waiting_cur_str (s : State) (w : Wait) : (s.waiting w).cur.str = s.cur.str := rfl
@[simp] theorem waiting_cur_regs (s : State) (w : Wait) : (s.waiting w).cur.regs = s.cur.regs := rfl
@[simp] theorem waiting_cur_pc (s : State) (w : Wait) : (s.waiting w).cur.pc = s.cur.pc := rfl
@[simp] theorem waiting_cur_line (s : State) (w : Wait) : (s.waiting w).cur.line = s.cur.line := rfl
@[simp] theorem waiting_cur_bypass (s : State) (w : Wait) : (s.waiting w).cur.bypass = s.cur.bypass := rfl
@[simp] theorem waiting_cur_runStamp (s : State) (w : Wait) : (s.waiting w).cur.runStamp = s.cur.runStamp := rfl
@[simp] theorem waiting_cur_mark (s : State) (w : Wait) : (s.waiting w).cur.mark = s.cur.mark := rfl
@[simp] theorem waiting_cur_gate (s : State) (w : Wait) : (s.waiting w).cur.gate = s.cur.gate := rfl
@[simp] theorem waiting_cur_susp (s : State) (w : Wait) : (s.waiting w).cur.susp = s.cur.susp := rfl
@[simp] theorem waiting_cur_stop (s : State) (w : Wait) : (s.waiting w).cur.stop = s.cur.stop := rfl
@[simp] theorem waiting_cur_retry (s : State) (w : Wait) : (s.waiting w).cur.retry = s.cur.retry := rfl
@[simp] theorem waiting_cur_idles (s : State) (w : Wait) : (s.waiting w).cur.idles = s.cur.idles := rfl
@[simp] theorem waiting_cur_past (s : State) (w : Wait) : (s.waiting w).cur.past = s.cur.past := rfl
@[simp] theorem waiting_cur_recent (s : State) (w : Wait) : (s.waiting w).cur.recent = s.cur.recent := rfl
@[simp] theorem waiting_cur_slot0 (s : State) (w : Wait) : (s.waiting w).cur.slot0 = s.cur.slot0 := rfl
@[simp] theorem waiting_cur_slot1 (s : State) (w : Wait) : (s.waiting w).cur.slot1 = s.cur.slot1 := rfl
@[simp] theorem waiting_cur_l5Marks (s : State) (w : Wait) : (s.waiting w).cur.l5Marks = s.cur.l5Marks := rfl
@[simp] theorem waiting_cur_vq (s : State) (w : Wait) : (s.waiting w).cur.vq = s.cur.vq := rfl
@[simp] theorem waiting_cur_pass (s : State) (w : Wait) : (s.waiting w).cur.pass = s.cur.pass := rfl

@[simp] theorem raise_focus (s : State) (c k : Nat) (ad : BitVec 64) (l : List SubFault) : (s.raise c k ad l).focus = s.focus := rfl
@[simp] theorem raise_cores (s : State) (c k : Nat) (ad : BitVec 64) (l : List SubFault) : (s.raise c k ad l).cores = s.cores := rfl
@[simp] theorem raise_strands (s : State) (c k : Nat) (ad : BitVec 64) (l : List SubFault) : (s.raise c k ad l).strands = s.strands := rfl
@[simp] theorem raise_nextSid (s : State) (c k : Nat) (ad : BitVec 64) (l : List SubFault) : (s.raise c k ad l).nextSid = s.nextSid := rfl
@[simp] theorem raise_ready (s : State) (c k : Nat) (ad : BitVec 64) (l : List SubFault) : (s.raise c k ad l).ready = s.ready := rfl
@[simp] theorem raise_mem (s : State) (c k : Nat) (ad : BitVec 64) (l : List SubFault) : (s.raise c k ad l).mem = s.mem := rfl
@[simp] theorem raise_keys (s : State) (c k : Nat) (ad : BitVec 64) (l : List SubFault) : (s.raise c k ad l).keys = s.keys := rfl
@[simp] theorem raise_keyCtr (s : State) (c k : Nat) (ad : BitVec 64) (l : List SubFault) : (s.raise c k ad l).keyCtr = s.keyCtr := rfl
@[simp] theorem raise_tlb (s : State) (c k : Nat) (ad : BitVec 64) (l : List SubFault) : (s.raise c k ad l).tlb = s.tlb := rfl
@[simp] theorem raise_walks (s : State) (c k : Nat) (ad : BitVec 64) (l : List SubFault) : (s.raise c k ad l).walks = s.walks := rfl
@[simp] theorem raise_icache (s : State) (c k : Nat) (ad : BitVec 64) (l : List SubFault) : (s.raise c k ad l).icache = s.icache := rfl
@[simp] theorem raise_flight (s : State) (c k : Nat) (ad : BitVec 64) (l : List SubFault) : (s.raise c k ad l).flight = s.flight := rfl
@[simp] theorem raise_engines (s : State) (c k : Nat) (ad : BitVec 64) (l : List SubFault) : (s.raise c k ad l).engines = s.engines := rfl
@[simp] theorem raise_claims (s : State) (c k : Nat) (ad : BitVec 64) (l : List SubFault) : (s.raise c k ad l).claims = s.claims := rfl
@[simp] theorem raise_watches (s : State) (c k : Nat) (ad : BitVec 64) (l : List SubFault) : (s.raise c k ad l).watches = s.watches := rfl
@[simp] theorem raise_nextId (s : State) (c k : Nat) (ad : BitVec 64) (l : List SubFault) : (s.raise c k ad l).nextId = s.nextId := rfl
@[simp] theorem raise_tiles (s : State) (c k : Nat) (ad : BitVec 64) (l : List SubFault) : (s.raise c k ad l).tiles = s.tiles := rfl
@[simp] theorem raise_vcs (s : State) (c k : Nat) (ad : BitVec 64) (l : List SubFault) : (s.raise c k ad l).vcs = s.vcs := rfl
@[simp] theorem raise_ctxs (s : State) (c k : Nat) (ad : BitVec 64) (l : List SubFault) : (s.raise c k ad l).ctxs = s.ctxs := rfl
@[simp] theorem raise_queues (s : State) (c k : Nat) (ad : BitVec 64) (l : List SubFault) : (s.raise c k ad l).queues = s.queues := rfl
@[simp] theorem raise_kernels (s : State) (c k : Nat) (ad : BitVec 64) (l : List SubFault) : (s.raise c k ad l).kernels = s.kernels := rfl
@[simp] theorem raise_nextKernel (s : State) (c k : Nat) (ad : BitVec 64) (l : List SubFault) : (s.raise c k ad l).nextKernel = s.nextKernel := rfl
@[simp] theorem raise_lastQueue (s : State) (c k : Nat) (ad : BitVec 64) (l : List SubFault) : (s.raise c k ad l).lastQueue = s.lastQueue := rfl
@[simp] theorem raise_map (s : State) (c k : Nat) (ad : BitVec 64) (l : List SubFault) : (s.raise c k ad l).map = s.map := rfl
@[simp] theorem raise_mapSeq (s : State) (c k : Nat) (ad : BitVec 64) (l : List SubFault) : (s.raise c k ad l).mapSeq = s.mapSeq := rfl
@[simp] theorem raise_pubs (s : State) (c k : Nat) (ad : BitVec 64) (l : List SubFault) : (s.raise c k ad l).pubs = s.pubs := rfl
@[simp] theorem raise_pubReqs (s : State) (c k : Nat) (ad : BitVec 64) (l : List SubFault) : (s.raise c k ad l).pubReqs = s.pubReqs := rfl
@[simp] theorem raise_clusters (s : State) (c k : Nat) (ad : BitVec 64) (l : List SubFault) : (s.raise c k ad l).clusters = s.clusters := rfl
@[simp] theorem raise_chips (s : State) (c k : Nat) (ad : BitVec 64) (l : List SubFault) : (s.raise c k ad l).chips = s.chips := rfl
@[simp] theorem raise_lostDies (s : State) (c k : Nat) (ad : BitVec 64) (l : List SubFault) : (s.raise c k ad l).lostDies = s.lostDies := rfl
@[simp] theorem raise_stackErrs (s : State) (c k : Nat) (ad : BitVec 64) (l : List SubFault) : (s.raise c k ad l).stackErrs = s.stackErrs := rfl
@[simp] theorem raise_asyncFlight (s : State) (c k : Nat) (ad : BitVec 64) (l : List SubFault) : (s.raise c k ad l).asyncFlight = s.asyncFlight := rfl
@[simp] theorem raise_releases (s : State) (c k : Nat) (ad : BitVec 64) (l : List SubFault) : (s.raise c k ad l).releases = s.releases := rfl
@[simp] theorem raise_parentArrivals (s : State) (c k : Nat) (ad : BitVec 64) (l : List SubFault) : (s.raise c k ad l).parentArrivals = s.parentArrivals := rfl
@[simp] theorem raise_arrivals (s : State) (c k : Nat) (ad : BitVec 64) (l : List SubFault) : (s.raise c k ad l).arrivals = s.arrivals := rfl
@[simp] theorem raise_migrations (s : State) (c k : Nat) (ad : BitVec 64) (l : List SubFault) : (s.raise c k ad l).migrations = s.migrations := rfl
@[simp] theorem raise_peers (s : State) (c k : Nat) (ad : BitVec 64) (l : List SubFault) : (s.raise c k ad l).peers = s.peers := rfl
@[simp] theorem raise_ports (s : State) (c k : Nat) (ad : BitVec 64) (l : List SubFault) : (s.raise c k ad l).ports = s.ports := rfl
@[simp] theorem raise_mboxHost (s : State) (c k : Nat) (ad : BitVec 64) (l : List SubFault) : (s.raise c k ad l).mboxHost = s.mboxHost := rfl
@[simp] theorem raise_mboxSide (s : State) (c k : Nat) (ad : BitVec 64) (l : List SubFault) : (s.raise c k ad l).mboxSide = s.mboxSide := rfl
@[simp] theorem raise_mbOrder (s : State) (c k : Nat) (ad : BitVec 64) (l : List SubFault) : (s.raise c k ad l).mbOrder = s.mbOrder := rfl
@[simp] theorem raise_fuses (s : State) (c k : Nat) (ad : BitVec 64) (l : List SubFault) : (s.raise c k ad l).fuses = s.fuses := rfl
@[simp] theorem raise_trust (s : State) (c k : Nat) (ad : BitVec 64) (l : List SubFault) : (s.raise c k ad l).trust = s.trust := rfl
@[simp] theorem raise_hostIf (s : State) (c k : Nat) (ad : BitVec 64) (l : List SubFault) : (s.raise c k ad l).hostIf = s.hostIf := rfl
@[simp] theorem raise_ptime (s : State) (c k : Nat) (ad : BitVec 64) (l : List SubFault) : (s.raise c k ad l).ptime = s.ptime := rfl
@[simp] theorem raise_events (s : State) (c k : Nat) (ad : BitVec 64) (l : List SubFault) : (s.raise c k ad l).events = s.events := rfl
@[simp] theorem raise_freeCtr (s : State) (c k : Nat) (ad : BitVec 64) (l : List SubFault) : (s.raise c k ad l).freeCtr = s.freeCtr := rfl
@[simp] theorem raise_sched (s : State) (c k : Nat) (ad : BitVec 64) (l : List SubFault) : (s.raise c k ad l).sched = s.sched := rfl
@[simp] theorem raise_cur_run (s : State) (c k : Nat) (ad : BitVec 64) (l : List SubFault) : (s.raise c k ad l).cur.run = s.cur.run := rfl
@[simp] theorem raise_cur_str (s : State) (c k : Nat) (ad : BitVec 64) (l : List SubFault) : (s.raise c k ad l).cur.str = s.cur.str := rfl
@[simp] theorem raise_cur_regs (s : State) (c k : Nat) (ad : BitVec 64) (l : List SubFault) : (s.raise c k ad l).cur.regs = s.cur.regs := rfl
@[simp] theorem raise_cur_pc (s : State) (c k : Nat) (ad : BitVec 64) (l : List SubFault) : (s.raise c k ad l).cur.pc = s.cur.pc := rfl
@[simp] theorem raise_cur_line (s : State) (c k : Nat) (ad : BitVec 64) (l : List SubFault) : (s.raise c k ad l).cur.line = s.cur.line := rfl
@[simp] theorem raise_cur_bypass (s : State) (c k : Nat) (ad : BitVec 64) (l : List SubFault) : (s.raise c k ad l).cur.bypass = s.cur.bypass := rfl
@[simp] theorem raise_cur_runStamp (s : State) (c k : Nat) (ad : BitVec 64) (l : List SubFault) : (s.raise c k ad l).cur.runStamp = s.cur.runStamp := rfl
@[simp] theorem raise_cur_mark (s : State) (c k : Nat) (ad : BitVec 64) (l : List SubFault) : (s.raise c k ad l).cur.mark = s.cur.mark := rfl
@[simp] theorem raise_cur_gate (s : State) (c k : Nat) (ad : BitVec 64) (l : List SubFault) : (s.raise c k ad l).cur.gate = s.cur.gate := rfl
@[simp] theorem raise_cur_susp (s : State) (c k : Nat) (ad : BitVec 64) (l : List SubFault) : (s.raise c k ad l).cur.susp = s.cur.susp := rfl
@[simp] theorem raise_cur_retry (s : State) (c k : Nat) (ad : BitVec 64) (l : List SubFault) : (s.raise c k ad l).cur.retry = s.cur.retry := rfl
@[simp] theorem raise_cur_idles (s : State) (c k : Nat) (ad : BitVec 64) (l : List SubFault) : (s.raise c k ad l).cur.idles = s.cur.idles := rfl
@[simp] theorem raise_cur_past (s : State) (c k : Nat) (ad : BitVec 64) (l : List SubFault) : (s.raise c k ad l).cur.past = s.cur.past := rfl
@[simp] theorem raise_cur_recent (s : State) (c k : Nat) (ad : BitVec 64) (l : List SubFault) : (s.raise c k ad l).cur.recent = s.cur.recent := rfl
@[simp] theorem raise_cur_slot0 (s : State) (c k : Nat) (ad : BitVec 64) (l : List SubFault) : (s.raise c k ad l).cur.slot0 = s.cur.slot0 := rfl
@[simp] theorem raise_cur_slot1 (s : State) (c k : Nat) (ad : BitVec 64) (l : List SubFault) : (s.raise c k ad l).cur.slot1 = s.cur.slot1 := rfl
@[simp] theorem raise_cur_l5Marks (s : State) (c k : Nat) (ad : BitVec 64) (l : List SubFault) : (s.raise c k ad l).cur.l5Marks = s.cur.l5Marks := rfl
@[simp] theorem raise_cur_vq (s : State) (c k : Nat) (ad : BitVec 64) (l : List SubFault) : (s.raise c k ad l).cur.vq = s.cur.vq := rfl
@[simp] theorem raise_cur_pass (s : State) (c k : Nat) (ad : BitVec 64) (l : List SubFault) : (s.raise c k ad l).cur.pass = s.cur.pass := rfl

@[simp] theorem setStr_focus (s : State) (f : Strand → Strand) : (s.setStr f).focus = s.focus := rfl
@[simp] theorem setStr_cores (s : State) (f : Strand → Strand) : (s.setStr f).cores = s.cores := rfl
@[simp] theorem setStr_strands (s : State) (f : Strand → Strand) : (s.setStr f).strands = s.strands := rfl
@[simp] theorem setStr_nextSid (s : State) (f : Strand → Strand) : (s.setStr f).nextSid = s.nextSid := rfl
@[simp] theorem setStr_ready (s : State) (f : Strand → Strand) : (s.setStr f).ready = s.ready := rfl
@[simp] theorem setStr_mem (s : State) (f : Strand → Strand) : (s.setStr f).mem = s.mem := rfl
@[simp] theorem setStr_keys (s : State) (f : Strand → Strand) : (s.setStr f).keys = s.keys := rfl
@[simp] theorem setStr_keyCtr (s : State) (f : Strand → Strand) : (s.setStr f).keyCtr = s.keyCtr := rfl
@[simp] theorem setStr_tlb (s : State) (f : Strand → Strand) : (s.setStr f).tlb = s.tlb := rfl
@[simp] theorem setStr_walks (s : State) (f : Strand → Strand) : (s.setStr f).walks = s.walks := rfl
@[simp] theorem setStr_icache (s : State) (f : Strand → Strand) : (s.setStr f).icache = s.icache := rfl
@[simp] theorem setStr_flight (s : State) (f : Strand → Strand) : (s.setStr f).flight = s.flight := rfl
@[simp] theorem setStr_engines (s : State) (f : Strand → Strand) : (s.setStr f).engines = s.engines := rfl
@[simp] theorem setStr_claims (s : State) (f : Strand → Strand) : (s.setStr f).claims = s.claims := rfl
@[simp] theorem setStr_watches (s : State) (f : Strand → Strand) : (s.setStr f).watches = s.watches := rfl
@[simp] theorem setStr_nextId (s : State) (f : Strand → Strand) : (s.setStr f).nextId = s.nextId := rfl
@[simp] theorem setStr_tiles (s : State) (f : Strand → Strand) : (s.setStr f).tiles = s.tiles := rfl
@[simp] theorem setStr_vcs (s : State) (f : Strand → Strand) : (s.setStr f).vcs = s.vcs := rfl
@[simp] theorem setStr_ctxs (s : State) (f : Strand → Strand) : (s.setStr f).ctxs = s.ctxs := rfl
@[simp] theorem setStr_queues (s : State) (f : Strand → Strand) : (s.setStr f).queues = s.queues := rfl
@[simp] theorem setStr_kernels (s : State) (f : Strand → Strand) : (s.setStr f).kernels = s.kernels := rfl
@[simp] theorem setStr_nextKernel (s : State) (f : Strand → Strand) : (s.setStr f).nextKernel = s.nextKernel := rfl
@[simp] theorem setStr_lastQueue (s : State) (f : Strand → Strand) : (s.setStr f).lastQueue = s.lastQueue := rfl
@[simp] theorem setStr_map (s : State) (f : Strand → Strand) : (s.setStr f).map = s.map := rfl
@[simp] theorem setStr_mapSeq (s : State) (f : Strand → Strand) : (s.setStr f).mapSeq = s.mapSeq := rfl
@[simp] theorem setStr_pubs (s : State) (f : Strand → Strand) : (s.setStr f).pubs = s.pubs := rfl
@[simp] theorem setStr_pubReqs (s : State) (f : Strand → Strand) : (s.setStr f).pubReqs = s.pubReqs := rfl
@[simp] theorem setStr_clusters (s : State) (f : Strand → Strand) : (s.setStr f).clusters = s.clusters := rfl
@[simp] theorem setStr_chips (s : State) (f : Strand → Strand) : (s.setStr f).chips = s.chips := rfl
@[simp] theorem setStr_lostDies (s : State) (f : Strand → Strand) : (s.setStr f).lostDies = s.lostDies := rfl
@[simp] theorem setStr_stackErrs (s : State) (f : Strand → Strand) : (s.setStr f).stackErrs = s.stackErrs := rfl
@[simp] theorem setStr_asyncFlight (s : State) (f : Strand → Strand) : (s.setStr f).asyncFlight = s.asyncFlight := rfl
@[simp] theorem setStr_releases (s : State) (f : Strand → Strand) : (s.setStr f).releases = s.releases := rfl
@[simp] theorem setStr_parentArrivals (s : State) (f : Strand → Strand) : (s.setStr f).parentArrivals = s.parentArrivals := rfl
@[simp] theorem setStr_arrivals (s : State) (f : Strand → Strand) : (s.setStr f).arrivals = s.arrivals := rfl
@[simp] theorem setStr_migrations (s : State) (f : Strand → Strand) : (s.setStr f).migrations = s.migrations := rfl
@[simp] theorem setStr_peers (s : State) (f : Strand → Strand) : (s.setStr f).peers = s.peers := rfl
@[simp] theorem setStr_ports (s : State) (f : Strand → Strand) : (s.setStr f).ports = s.ports := rfl
@[simp] theorem setStr_mboxHost (s : State) (f : Strand → Strand) : (s.setStr f).mboxHost = s.mboxHost := rfl
@[simp] theorem setStr_mboxSide (s : State) (f : Strand → Strand) : (s.setStr f).mboxSide = s.mboxSide := rfl
@[simp] theorem setStr_mbOrder (s : State) (f : Strand → Strand) : (s.setStr f).mbOrder = s.mbOrder := rfl
@[simp] theorem setStr_fuses (s : State) (f : Strand → Strand) : (s.setStr f).fuses = s.fuses := rfl
@[simp] theorem setStr_trust (s : State) (f : Strand → Strand) : (s.setStr f).trust = s.trust := rfl
@[simp] theorem setStr_hostIf (s : State) (f : Strand → Strand) : (s.setStr f).hostIf = s.hostIf := rfl
@[simp] theorem setStr_ptime (s : State) (f : Strand → Strand) : (s.setStr f).ptime = s.ptime := rfl
@[simp] theorem setStr_events (s : State) (f : Strand → Strand) : (s.setStr f).events = s.events := rfl
@[simp] theorem setStr_freeCtr (s : State) (f : Strand → Strand) : (s.setStr f).freeCtr = s.freeCtr := rfl
@[simp] theorem setStr_sched (s : State) (f : Strand → Strand) : (s.setStr f).sched = s.sched := rfl
@[simp] theorem setStr_cur_run (s : State) (f : Strand → Strand) : (s.setStr f).cur.run = s.cur.run := rfl
@[simp] theorem setStr_cur_regs (s : State) (f : Strand → Strand) : (s.setStr f).cur.regs = s.cur.regs := rfl
@[simp] theorem setStr_cur_pc (s : State) (f : Strand → Strand) : (s.setStr f).cur.pc = s.cur.pc := rfl
@[simp] theorem setStr_cur_line (s : State) (f : Strand → Strand) : (s.setStr f).cur.line = s.cur.line := rfl
@[simp] theorem setStr_cur_bypass (s : State) (f : Strand → Strand) : (s.setStr f).cur.bypass = s.cur.bypass := rfl
@[simp] theorem setStr_cur_runStamp (s : State) (f : Strand → Strand) : (s.setStr f).cur.runStamp = s.cur.runStamp := rfl
@[simp] theorem setStr_cur_mark (s : State) (f : Strand → Strand) : (s.setStr f).cur.mark = s.cur.mark := rfl
@[simp] theorem setStr_cur_wait (s : State) (f : Strand → Strand) : (s.setStr f).cur.wait = s.cur.wait := rfl
@[simp] theorem setStr_cur_gate (s : State) (f : Strand → Strand) : (s.setStr f).cur.gate = s.cur.gate := rfl
@[simp] theorem setStr_cur_susp (s : State) (f : Strand → Strand) : (s.setStr f).cur.susp = s.cur.susp := rfl
@[simp] theorem setStr_cur_stop (s : State) (f : Strand → Strand) : (s.setStr f).cur.stop = s.cur.stop := rfl
@[simp] theorem setStr_cur_retry (s : State) (f : Strand → Strand) : (s.setStr f).cur.retry = s.cur.retry := rfl
@[simp] theorem setStr_cur_idles (s : State) (f : Strand → Strand) : (s.setStr f).cur.idles = s.cur.idles := rfl
@[simp] theorem setStr_cur_past (s : State) (f : Strand → Strand) : (s.setStr f).cur.past = s.cur.past := rfl
@[simp] theorem setStr_cur_recent (s : State) (f : Strand → Strand) : (s.setStr f).cur.recent = s.cur.recent := rfl
@[simp] theorem setStr_cur_slot0 (s : State) (f : Strand → Strand) : (s.setStr f).cur.slot0 = s.cur.slot0 := rfl
@[simp] theorem setStr_cur_slot1 (s : State) (f : Strand → Strand) : (s.setStr f).cur.slot1 = s.cur.slot1 := rfl
@[simp] theorem setStr_cur_l5Marks (s : State) (f : Strand → Strand) : (s.setStr f).cur.l5Marks = s.cur.l5Marks := rfl
@[simp] theorem setStr_cur_vq (s : State) (f : Strand → Strand) : (s.setStr f).cur.vq = s.cur.vq := rfl
@[simp] theorem setStr_cur_pass (s : State) (f : Strand → Strand) : (s.setStr f).cur.pass = s.cur.pass := rfl

@[simp] theorem setCounts_focus (s : State) (f : Counts → Counts) : (s.setCounts f).focus = s.focus := rfl
@[simp] theorem setCounts_cores (s : State) (f : Counts → Counts) : (s.setCounts f).cores = s.cores := rfl
@[simp] theorem setCounts_strands (s : State) (f : Counts → Counts) : (s.setCounts f).strands = s.strands := rfl
@[simp] theorem setCounts_nextSid (s : State) (f : Counts → Counts) : (s.setCounts f).nextSid = s.nextSid := rfl
@[simp] theorem setCounts_ready (s : State) (f : Counts → Counts) : (s.setCounts f).ready = s.ready := rfl
@[simp] theorem setCounts_mem (s : State) (f : Counts → Counts) : (s.setCounts f).mem = s.mem := rfl
@[simp] theorem setCounts_keys (s : State) (f : Counts → Counts) : (s.setCounts f).keys = s.keys := rfl
@[simp] theorem setCounts_keyCtr (s : State) (f : Counts → Counts) : (s.setCounts f).keyCtr = s.keyCtr := rfl
@[simp] theorem setCounts_tlb (s : State) (f : Counts → Counts) : (s.setCounts f).tlb = s.tlb := rfl
@[simp] theorem setCounts_walks (s : State) (f : Counts → Counts) : (s.setCounts f).walks = s.walks := rfl
@[simp] theorem setCounts_icache (s : State) (f : Counts → Counts) : (s.setCounts f).icache = s.icache := rfl
@[simp] theorem setCounts_flight (s : State) (f : Counts → Counts) : (s.setCounts f).flight = s.flight := rfl
@[simp] theorem setCounts_engines (s : State) (f : Counts → Counts) : (s.setCounts f).engines = s.engines := rfl
@[simp] theorem setCounts_claims (s : State) (f : Counts → Counts) : (s.setCounts f).claims = s.claims := rfl
@[simp] theorem setCounts_watches (s : State) (f : Counts → Counts) : (s.setCounts f).watches = s.watches := rfl
@[simp] theorem setCounts_nextId (s : State) (f : Counts → Counts) : (s.setCounts f).nextId = s.nextId := rfl
@[simp] theorem setCounts_tiles (s : State) (f : Counts → Counts) : (s.setCounts f).tiles = s.tiles := rfl
@[simp] theorem setCounts_vcs (s : State) (f : Counts → Counts) : (s.setCounts f).vcs = s.vcs := rfl
@[simp] theorem setCounts_ctxs (s : State) (f : Counts → Counts) : (s.setCounts f).ctxs = s.ctxs := rfl
@[simp] theorem setCounts_queues (s : State) (f : Counts → Counts) : (s.setCounts f).queues = s.queues := rfl
@[simp] theorem setCounts_kernels (s : State) (f : Counts → Counts) : (s.setCounts f).kernels = s.kernels := rfl
@[simp] theorem setCounts_nextKernel (s : State) (f : Counts → Counts) : (s.setCounts f).nextKernel = s.nextKernel := rfl
@[simp] theorem setCounts_lastQueue (s : State) (f : Counts → Counts) : (s.setCounts f).lastQueue = s.lastQueue := rfl
@[simp] theorem setCounts_map (s : State) (f : Counts → Counts) : (s.setCounts f).map = s.map := rfl
@[simp] theorem setCounts_mapSeq (s : State) (f : Counts → Counts) : (s.setCounts f).mapSeq = s.mapSeq := rfl
@[simp] theorem setCounts_pubs (s : State) (f : Counts → Counts) : (s.setCounts f).pubs = s.pubs := rfl
@[simp] theorem setCounts_pubReqs (s : State) (f : Counts → Counts) : (s.setCounts f).pubReqs = s.pubReqs := rfl
@[simp] theorem setCounts_clusters (s : State) (f : Counts → Counts) : (s.setCounts f).clusters = s.clusters := rfl
@[simp] theorem setCounts_chips (s : State) (f : Counts → Counts) : (s.setCounts f).chips = s.chips := rfl
@[simp] theorem setCounts_lostDies (s : State) (f : Counts → Counts) : (s.setCounts f).lostDies = s.lostDies := rfl
@[simp] theorem setCounts_stackErrs (s : State) (f : Counts → Counts) : (s.setCounts f).stackErrs = s.stackErrs := rfl
@[simp] theorem setCounts_asyncFlight (s : State) (f : Counts → Counts) : (s.setCounts f).asyncFlight = s.asyncFlight := rfl
@[simp] theorem setCounts_releases (s : State) (f : Counts → Counts) : (s.setCounts f).releases = s.releases := rfl
@[simp] theorem setCounts_parentArrivals (s : State) (f : Counts → Counts) : (s.setCounts f).parentArrivals = s.parentArrivals := rfl
@[simp] theorem setCounts_arrivals (s : State) (f : Counts → Counts) : (s.setCounts f).arrivals = s.arrivals := rfl
@[simp] theorem setCounts_migrations (s : State) (f : Counts → Counts) : (s.setCounts f).migrations = s.migrations := rfl
@[simp] theorem setCounts_peers (s : State) (f : Counts → Counts) : (s.setCounts f).peers = s.peers := rfl
@[simp] theorem setCounts_ports (s : State) (f : Counts → Counts) : (s.setCounts f).ports = s.ports := rfl
@[simp] theorem setCounts_mboxHost (s : State) (f : Counts → Counts) : (s.setCounts f).mboxHost = s.mboxHost := rfl
@[simp] theorem setCounts_mboxSide (s : State) (f : Counts → Counts) : (s.setCounts f).mboxSide = s.mboxSide := rfl
@[simp] theorem setCounts_mbOrder (s : State) (f : Counts → Counts) : (s.setCounts f).mbOrder = s.mbOrder := rfl
@[simp] theorem setCounts_fuses (s : State) (f : Counts → Counts) : (s.setCounts f).fuses = s.fuses := rfl
@[simp] theorem setCounts_trust (s : State) (f : Counts → Counts) : (s.setCounts f).trust = s.trust := rfl
@[simp] theorem setCounts_hostIf (s : State) (f : Counts → Counts) : (s.setCounts f).hostIf = s.hostIf := rfl
@[simp] theorem setCounts_ptime (s : State) (f : Counts → Counts) : (s.setCounts f).ptime = s.ptime := rfl
@[simp] theorem setCounts_events (s : State) (f : Counts → Counts) : (s.setCounts f).events = s.events := rfl
@[simp] theorem setCounts_freeCtr (s : State) (f : Counts → Counts) : (s.setCounts f).freeCtr = s.freeCtr := rfl
@[simp] theorem setCounts_sched (s : State) (f : Counts → Counts) : (s.setCounts f).sched = s.sched := rfl
@[simp] theorem setCounts_cur_run (s : State) (f : Counts → Counts) : (s.setCounts f).cur.run = s.cur.run := rfl
@[simp] theorem setCounts_cur_regs (s : State) (f : Counts → Counts) : (s.setCounts f).cur.regs = s.cur.regs := rfl
@[simp] theorem setCounts_cur_pc (s : State) (f : Counts → Counts) : (s.setCounts f).cur.pc = s.cur.pc := rfl
@[simp] theorem setCounts_cur_line (s : State) (f : Counts → Counts) : (s.setCounts f).cur.line = s.cur.line := rfl
@[simp] theorem setCounts_cur_bypass (s : State) (f : Counts → Counts) : (s.setCounts f).cur.bypass = s.cur.bypass := rfl
@[simp] theorem setCounts_cur_runStamp (s : State) (f : Counts → Counts) : (s.setCounts f).cur.runStamp = s.cur.runStamp := rfl
@[simp] theorem setCounts_cur_mark (s : State) (f : Counts → Counts) : (s.setCounts f).cur.mark = s.cur.mark := rfl
@[simp] theorem setCounts_cur_wait (s : State) (f : Counts → Counts) : (s.setCounts f).cur.wait = s.cur.wait := rfl
@[simp] theorem setCounts_cur_gate (s : State) (f : Counts → Counts) : (s.setCounts f).cur.gate = s.cur.gate := rfl
@[simp] theorem setCounts_cur_susp (s : State) (f : Counts → Counts) : (s.setCounts f).cur.susp = s.cur.susp := rfl
@[simp] theorem setCounts_cur_stop (s : State) (f : Counts → Counts) : (s.setCounts f).cur.stop = s.cur.stop := rfl
@[simp] theorem setCounts_cur_retry (s : State) (f : Counts → Counts) : (s.setCounts f).cur.retry = s.cur.retry := rfl
@[simp] theorem setCounts_cur_idles (s : State) (f : Counts → Counts) : (s.setCounts f).cur.idles = s.cur.idles := rfl
@[simp] theorem setCounts_cur_past (s : State) (f : Counts → Counts) : (s.setCounts f).cur.past = s.cur.past := rfl
@[simp] theorem setCounts_cur_recent (s : State) (f : Counts → Counts) : (s.setCounts f).cur.recent = s.cur.recent := rfl
@[simp] theorem setCounts_cur_slot0 (s : State) (f : Counts → Counts) : (s.setCounts f).cur.slot0 = s.cur.slot0 := rfl
@[simp] theorem setCounts_cur_slot1 (s : State) (f : Counts → Counts) : (s.setCounts f).cur.slot1 = s.cur.slot1 := rfl
@[simp] theorem setCounts_cur_l5Marks (s : State) (f : Counts → Counts) : (s.setCounts f).cur.l5Marks = s.cur.l5Marks := rfl
@[simp] theorem setCounts_cur_vq (s : State) (f : Counts → Counts) : (s.setCounts f).cur.vq = s.cur.vq := rfl
@[simp] theorem setCounts_cur_pass (s : State) (f : Counts → Counts) : (s.setCounts f).cur.pass = s.cur.pass := rfl

@[simp] theorem setReg_focus (s : State) (d : Reg) (v : Word) : (s.setReg d v).focus = s.focus := by unfold State.setReg; split <;> rfl
@[simp] theorem setReg_cores (s : State) (d : Reg) (v : Word) : (s.setReg d v).cores = s.cores := by unfold State.setReg; split <;> rfl
@[simp] theorem setReg_strands (s : State) (d : Reg) (v : Word) : (s.setReg d v).strands = s.strands := by unfold State.setReg; split <;> rfl
@[simp] theorem setReg_nextSid (s : State) (d : Reg) (v : Word) : (s.setReg d v).nextSid = s.nextSid := by unfold State.setReg; split <;> rfl
@[simp] theorem setReg_ready (s : State) (d : Reg) (v : Word) : (s.setReg d v).ready = s.ready := by unfold State.setReg; split <;> rfl
@[simp] theorem setReg_mem (s : State) (d : Reg) (v : Word) : (s.setReg d v).mem = s.mem := by unfold State.setReg; split <;> rfl
@[simp] theorem setReg_keys (s : State) (d : Reg) (v : Word) : (s.setReg d v).keys = s.keys := by unfold State.setReg; split <;> rfl
@[simp] theorem setReg_keyCtr (s : State) (d : Reg) (v : Word) : (s.setReg d v).keyCtr = s.keyCtr := by unfold State.setReg; split <;> rfl
@[simp] theorem setReg_tlb (s : State) (d : Reg) (v : Word) : (s.setReg d v).tlb = s.tlb := by unfold State.setReg; split <;> rfl
@[simp] theorem setReg_walks (s : State) (d : Reg) (v : Word) : (s.setReg d v).walks = s.walks := by unfold State.setReg; split <;> rfl
@[simp] theorem setReg_icache (s : State) (d : Reg) (v : Word) : (s.setReg d v).icache = s.icache := by unfold State.setReg; split <;> rfl
@[simp] theorem setReg_flight (s : State) (d : Reg) (v : Word) : (s.setReg d v).flight = s.flight := by unfold State.setReg; split <;> rfl
@[simp] theorem setReg_engines (s : State) (d : Reg) (v : Word) : (s.setReg d v).engines = s.engines := by unfold State.setReg; split <;> rfl
@[simp] theorem setReg_claims (s : State) (d : Reg) (v : Word) : (s.setReg d v).claims = s.claims := by unfold State.setReg; split <;> rfl
@[simp] theorem setReg_watches (s : State) (d : Reg) (v : Word) : (s.setReg d v).watches = s.watches := by unfold State.setReg; split <;> rfl
@[simp] theorem setReg_nextId (s : State) (d : Reg) (v : Word) : (s.setReg d v).nextId = s.nextId := by unfold State.setReg; split <;> rfl
@[simp] theorem setReg_tiles (s : State) (d : Reg) (v : Word) : (s.setReg d v).tiles = s.tiles := by unfold State.setReg; split <;> rfl
@[simp] theorem setReg_vcs (s : State) (d : Reg) (v : Word) : (s.setReg d v).vcs = s.vcs := by unfold State.setReg; split <;> rfl
@[simp] theorem setReg_ctxs (s : State) (d : Reg) (v : Word) : (s.setReg d v).ctxs = s.ctxs := by unfold State.setReg; split <;> rfl
@[simp] theorem setReg_queues (s : State) (d : Reg) (v : Word) : (s.setReg d v).queues = s.queues := by unfold State.setReg; split <;> rfl
@[simp] theorem setReg_kernels (s : State) (d : Reg) (v : Word) : (s.setReg d v).kernels = s.kernels := by unfold State.setReg; split <;> rfl
@[simp] theorem setReg_nextKernel (s : State) (d : Reg) (v : Word) : (s.setReg d v).nextKernel = s.nextKernel := by unfold State.setReg; split <;> rfl
@[simp] theorem setReg_lastQueue (s : State) (d : Reg) (v : Word) : (s.setReg d v).lastQueue = s.lastQueue := by unfold State.setReg; split <;> rfl
@[simp] theorem setReg_map (s : State) (d : Reg) (v : Word) : (s.setReg d v).map = s.map := by unfold State.setReg; split <;> rfl
@[simp] theorem setReg_mapSeq (s : State) (d : Reg) (v : Word) : (s.setReg d v).mapSeq = s.mapSeq := by unfold State.setReg; split <;> rfl
@[simp] theorem setReg_pubs (s : State) (d : Reg) (v : Word) : (s.setReg d v).pubs = s.pubs := by unfold State.setReg; split <;> rfl
@[simp] theorem setReg_pubReqs (s : State) (d : Reg) (v : Word) : (s.setReg d v).pubReqs = s.pubReqs := by unfold State.setReg; split <;> rfl
@[simp] theorem setReg_clusters (s : State) (d : Reg) (v : Word) : (s.setReg d v).clusters = s.clusters := by unfold State.setReg; split <;> rfl
@[simp] theorem setReg_chips (s : State) (d : Reg) (v : Word) : (s.setReg d v).chips = s.chips := by unfold State.setReg; split <;> rfl
@[simp] theorem setReg_lostDies (s : State) (d : Reg) (v : Word) : (s.setReg d v).lostDies = s.lostDies := by unfold State.setReg; split <;> rfl
@[simp] theorem setReg_stackErrs (s : State) (d : Reg) (v : Word) : (s.setReg d v).stackErrs = s.stackErrs := by unfold State.setReg; split <;> rfl
@[simp] theorem setReg_asyncFlight (s : State) (d : Reg) (v : Word) : (s.setReg d v).asyncFlight = s.asyncFlight := by unfold State.setReg; split <;> rfl
@[simp] theorem setReg_releases (s : State) (d : Reg) (v : Word) : (s.setReg d v).releases = s.releases := by unfold State.setReg; split <;> rfl
@[simp] theorem setReg_parentArrivals (s : State) (d : Reg) (v : Word) : (s.setReg d v).parentArrivals = s.parentArrivals := by unfold State.setReg; split <;> rfl
@[simp] theorem setReg_arrivals (s : State) (d : Reg) (v : Word) : (s.setReg d v).arrivals = s.arrivals := by unfold State.setReg; split <;> rfl
@[simp] theorem setReg_migrations (s : State) (d : Reg) (v : Word) : (s.setReg d v).migrations = s.migrations := by unfold State.setReg; split <;> rfl
@[simp] theorem setReg_peers (s : State) (d : Reg) (v : Word) : (s.setReg d v).peers = s.peers := by unfold State.setReg; split <;> rfl
@[simp] theorem setReg_ports (s : State) (d : Reg) (v : Word) : (s.setReg d v).ports = s.ports := by unfold State.setReg; split <;> rfl
@[simp] theorem setReg_mboxHost (s : State) (d : Reg) (v : Word) : (s.setReg d v).mboxHost = s.mboxHost := by unfold State.setReg; split <;> rfl
@[simp] theorem setReg_mboxSide (s : State) (d : Reg) (v : Word) : (s.setReg d v).mboxSide = s.mboxSide := by unfold State.setReg; split <;> rfl
@[simp] theorem setReg_mbOrder (s : State) (d : Reg) (v : Word) : (s.setReg d v).mbOrder = s.mbOrder := by unfold State.setReg; split <;> rfl
@[simp] theorem setReg_fuses (s : State) (d : Reg) (v : Word) : (s.setReg d v).fuses = s.fuses := by unfold State.setReg; split <;> rfl
@[simp] theorem setReg_trust (s : State) (d : Reg) (v : Word) : (s.setReg d v).trust = s.trust := by unfold State.setReg; split <;> rfl
@[simp] theorem setReg_hostIf (s : State) (d : Reg) (v : Word) : (s.setReg d v).hostIf = s.hostIf := by unfold State.setReg; split <;> rfl
@[simp] theorem setReg_ptime (s : State) (d : Reg) (v : Word) : (s.setReg d v).ptime = s.ptime := by unfold State.setReg; split <;> rfl
@[simp] theorem setReg_events (s : State) (d : Reg) (v : Word) : (s.setReg d v).events = s.events := by unfold State.setReg; split <;> rfl
@[simp] theorem setReg_freeCtr (s : State) (d : Reg) (v : Word) : (s.setReg d v).freeCtr = s.freeCtr := by unfold State.setReg; split <;> rfl
@[simp] theorem setReg_sched (s : State) (d : Reg) (v : Word) : (s.setReg d v).sched = s.sched := by unfold State.setReg; split <;> rfl
@[simp] theorem setReg_cur_run (s : State) (d : Reg) (v : Word) : (s.setReg d v).cur.run = s.cur.run := by unfold State.setReg; split <;> rfl
@[simp] theorem setReg_cur_str (s : State) (d : Reg) (v : Word) : (s.setReg d v).cur.str = s.cur.str := by unfold State.setReg; split <;> rfl
@[simp] theorem setReg_cur_pc (s : State) (d : Reg) (v : Word) : (s.setReg d v).cur.pc = s.cur.pc := by unfold State.setReg; split <;> rfl
@[simp] theorem setReg_cur_line (s : State) (d : Reg) (v : Word) : (s.setReg d v).cur.line = s.cur.line := by unfold State.setReg; split <;> rfl
@[simp] theorem setReg_cur_bypass (s : State) (d : Reg) (v : Word) : (s.setReg d v).cur.bypass = s.cur.bypass := by unfold State.setReg; split <;> rfl
@[simp] theorem setReg_cur_runStamp (s : State) (d : Reg) (v : Word) : (s.setReg d v).cur.runStamp = s.cur.runStamp := by unfold State.setReg; split <;> rfl
@[simp] theorem setReg_cur_mark (s : State) (d : Reg) (v : Word) : (s.setReg d v).cur.mark = s.cur.mark := by unfold State.setReg; split <;> rfl
@[simp] theorem setReg_cur_wait (s : State) (d : Reg) (v : Word) : (s.setReg d v).cur.wait = s.cur.wait := by unfold State.setReg; split <;> rfl
@[simp] theorem setReg_cur_gate (s : State) (d : Reg) (v : Word) : (s.setReg d v).cur.gate = s.cur.gate := by unfold State.setReg; split <;> rfl
@[simp] theorem setReg_cur_susp (s : State) (d : Reg) (v : Word) : (s.setReg d v).cur.susp = s.cur.susp := by unfold State.setReg; split <;> rfl
@[simp] theorem setReg_cur_stop (s : State) (d : Reg) (v : Word) : (s.setReg d v).cur.stop = s.cur.stop := by unfold State.setReg; split <;> rfl
@[simp] theorem setReg_cur_retry (s : State) (d : Reg) (v : Word) : (s.setReg d v).cur.retry = s.cur.retry := by unfold State.setReg; split <;> rfl
@[simp] theorem setReg_cur_idles (s : State) (d : Reg) (v : Word) : (s.setReg d v).cur.idles = s.cur.idles := by unfold State.setReg; split <;> rfl
@[simp] theorem setReg_cur_past (s : State) (d : Reg) (v : Word) : (s.setReg d v).cur.past = s.cur.past := by unfold State.setReg; split <;> rfl
@[simp] theorem setReg_cur_recent (s : State) (d : Reg) (v : Word) : (s.setReg d v).cur.recent = s.cur.recent := by unfold State.setReg; split <;> rfl
@[simp] theorem setReg_cur_slot0 (s : State) (d : Reg) (v : Word) : (s.setReg d v).cur.slot0 = s.cur.slot0 := by unfold State.setReg; split <;> rfl
@[simp] theorem setReg_cur_slot1 (s : State) (d : Reg) (v : Word) : (s.setReg d v).cur.slot1 = s.cur.slot1 := by unfold State.setReg; split <;> rfl
@[simp] theorem setReg_cur_l5Marks (s : State) (d : Reg) (v : Word) : (s.setReg d v).cur.l5Marks = s.cur.l5Marks := by unfold State.setReg; split <;> rfl
@[simp] theorem setReg_cur_vq (s : State) (d : Reg) (v : Word) : (s.setReg d v).cur.vq = s.cur.vq := by unfold State.setReg; split <;> rfl
@[simp] theorem setReg_cur_pass (s : State) (d : Reg) (v : Word) : (s.setReg d v).cur.pass = s.cur.pass := by unfold State.setReg; split <;> rfl

@[simp] theorem happen_focus (s : State) (v c n : Nat) : (s.happen v c n).focus = s.focus := rfl
@[simp] theorem happen_cores (s : State) (v c n : Nat) : (s.happen v c n).cores = s.cores := rfl
@[simp] theorem happen_strands (s : State) (v c n : Nat) : (s.happen v c n).strands = s.strands := rfl
@[simp] theorem happen_nextSid (s : State) (v c n : Nat) : (s.happen v c n).nextSid = s.nextSid := rfl
@[simp] theorem happen_ready (s : State) (v c n : Nat) : (s.happen v c n).ready = s.ready := rfl
@[simp] theorem happen_mem (s : State) (v c n : Nat) : (s.happen v c n).mem = s.mem := rfl
@[simp] theorem happen_keys (s : State) (v c n : Nat) : (s.happen v c n).keys = s.keys := rfl
@[simp] theorem happen_keyCtr (s : State) (v c n : Nat) : (s.happen v c n).keyCtr = s.keyCtr := rfl
@[simp] theorem happen_tlb (s : State) (v c n : Nat) : (s.happen v c n).tlb = s.tlb := rfl
@[simp] theorem happen_walks (s : State) (v c n : Nat) : (s.happen v c n).walks = s.walks := rfl
@[simp] theorem happen_icache (s : State) (v c n : Nat) : (s.happen v c n).icache = s.icache := rfl
@[simp] theorem happen_flight (s : State) (v c n : Nat) : (s.happen v c n).flight = s.flight := rfl
@[simp] theorem happen_engines (s : State) (v c n : Nat) : (s.happen v c n).engines = s.engines := rfl
@[simp] theorem happen_claims (s : State) (v c n : Nat) : (s.happen v c n).claims = s.claims := rfl
@[simp] theorem happen_watches (s : State) (v c n : Nat) : (s.happen v c n).watches = s.watches := rfl
@[simp] theorem happen_nextId (s : State) (v c n : Nat) : (s.happen v c n).nextId = s.nextId := rfl
@[simp] theorem happen_tiles (s : State) (v c n : Nat) : (s.happen v c n).tiles = s.tiles := rfl
@[simp] theorem happen_vcs (s : State) (v c n : Nat) : (s.happen v c n).vcs = s.vcs := rfl
@[simp] theorem happen_ctxs (s : State) (v c n : Nat) : (s.happen v c n).ctxs = s.ctxs := rfl
@[simp] theorem happen_queues (s : State) (v c n : Nat) : (s.happen v c n).queues = s.queues := rfl
@[simp] theorem happen_kernels (s : State) (v c n : Nat) : (s.happen v c n).kernels = s.kernels := rfl
@[simp] theorem happen_nextKernel (s : State) (v c n : Nat) : (s.happen v c n).nextKernel = s.nextKernel := rfl
@[simp] theorem happen_lastQueue (s : State) (v c n : Nat) : (s.happen v c n).lastQueue = s.lastQueue := rfl
@[simp] theorem happen_map (s : State) (v c n : Nat) : (s.happen v c n).map = s.map := rfl
@[simp] theorem happen_mapSeq (s : State) (v c n : Nat) : (s.happen v c n).mapSeq = s.mapSeq := rfl
@[simp] theorem happen_pubs (s : State) (v c n : Nat) : (s.happen v c n).pubs = s.pubs := rfl
@[simp] theorem happen_pubReqs (s : State) (v c n : Nat) : (s.happen v c n).pubReqs = s.pubReqs := rfl
@[simp] theorem happen_clusters (s : State) (v c n : Nat) : (s.happen v c n).clusters = s.clusters := rfl
@[simp] theorem happen_chips (s : State) (v c n : Nat) : (s.happen v c n).chips = s.chips := rfl
@[simp] theorem happen_lostDies (s : State) (v c n : Nat) : (s.happen v c n).lostDies = s.lostDies := rfl
@[simp] theorem happen_stackErrs (s : State) (v c n : Nat) : (s.happen v c n).stackErrs = s.stackErrs := rfl
@[simp] theorem happen_asyncFlight (s : State) (v c n : Nat) : (s.happen v c n).asyncFlight = s.asyncFlight := rfl
@[simp] theorem happen_releases (s : State) (v c n : Nat) : (s.happen v c n).releases = s.releases := rfl
@[simp] theorem happen_parentArrivals (s : State) (v c n : Nat) : (s.happen v c n).parentArrivals = s.parentArrivals := rfl
@[simp] theorem happen_arrivals (s : State) (v c n : Nat) : (s.happen v c n).arrivals = s.arrivals := rfl
@[simp] theorem happen_migrations (s : State) (v c n : Nat) : (s.happen v c n).migrations = s.migrations := rfl
@[simp] theorem happen_peers (s : State) (v c n : Nat) : (s.happen v c n).peers = s.peers := rfl
@[simp] theorem happen_ports (s : State) (v c n : Nat) : (s.happen v c n).ports = s.ports := rfl
@[simp] theorem happen_mboxHost (s : State) (v c n : Nat) : (s.happen v c n).mboxHost = s.mboxHost := rfl
@[simp] theorem happen_mboxSide (s : State) (v c n : Nat) : (s.happen v c n).mboxSide = s.mboxSide := rfl
@[simp] theorem happen_mbOrder (s : State) (v c n : Nat) : (s.happen v c n).mbOrder = s.mbOrder := rfl
@[simp] theorem happen_fuses (s : State) (v c n : Nat) : (s.happen v c n).fuses = s.fuses := rfl
@[simp] theorem happen_trust (s : State) (v c n : Nat) : (s.happen v c n).trust = s.trust := rfl
@[simp] theorem happen_hostIf (s : State) (v c n : Nat) : (s.happen v c n).hostIf = s.hostIf := rfl
@[simp] theorem happen_ptime (s : State) (v c n : Nat) : (s.happen v c n).ptime = s.ptime := rfl
@[simp] theorem happen_freeCtr (s : State) (v c n : Nat) : (s.happen v c n).freeCtr = s.freeCtr := rfl
@[simp] theorem happen_sched (s : State) (v c n : Nat) : (s.happen v c n).sched = s.sched := rfl
@[simp] theorem happen_cur_run (s : State) (v c n : Nat) : (s.happen v c n).cur.run = s.cur.run := rfl
@[simp] theorem happen_cur_str (s : State) (v c n : Nat) : (s.happen v c n).cur.str = s.cur.str := rfl
@[simp] theorem happen_cur_regs (s : State) (v c n : Nat) : (s.happen v c n).cur.regs = s.cur.regs := rfl
@[simp] theorem happen_cur_pc (s : State) (v c n : Nat) : (s.happen v c n).cur.pc = s.cur.pc := rfl
@[simp] theorem happen_cur_line (s : State) (v c n : Nat) : (s.happen v c n).cur.line = s.cur.line := rfl
@[simp] theorem happen_cur_bypass (s : State) (v c n : Nat) : (s.happen v c n).cur.bypass = s.cur.bypass := rfl
@[simp] theorem happen_cur_runStamp (s : State) (v c n : Nat) : (s.happen v c n).cur.runStamp = s.cur.runStamp := rfl
@[simp] theorem happen_cur_mark (s : State) (v c n : Nat) : (s.happen v c n).cur.mark = s.cur.mark := rfl
@[simp] theorem happen_cur_wait (s : State) (v c n : Nat) : (s.happen v c n).cur.wait = s.cur.wait := rfl
@[simp] theorem happen_cur_gate (s : State) (v c n : Nat) : (s.happen v c n).cur.gate = s.cur.gate := rfl
@[simp] theorem happen_cur_susp (s : State) (v c n : Nat) : (s.happen v c n).cur.susp = s.cur.susp := rfl
@[simp] theorem happen_cur_stop (s : State) (v c n : Nat) : (s.happen v c n).cur.stop = s.cur.stop := rfl
@[simp] theorem happen_cur_retry (s : State) (v c n : Nat) : (s.happen v c n).cur.retry = s.cur.retry := rfl
@[simp] theorem happen_cur_idles (s : State) (v c n : Nat) : (s.happen v c n).cur.idles = s.cur.idles := rfl
@[simp] theorem happen_cur_past (s : State) (v c n : Nat) : (s.happen v c n).cur.past = s.cur.past := rfl
@[simp] theorem happen_cur_recent (s : State) (v c n : Nat) : (s.happen v c n).cur.recent = s.cur.recent := rfl
@[simp] theorem happen_cur_slot0 (s : State) (v c n : Nat) : (s.happen v c n).cur.slot0 = s.cur.slot0 := rfl
@[simp] theorem happen_cur_slot1 (s : State) (v c n : Nat) : (s.happen v c n).cur.slot1 = s.cur.slot1 := rfl
@[simp] theorem happen_cur_l5Marks (s : State) (v c n : Nat) : (s.happen v c n).cur.l5Marks = s.cur.l5Marks := rfl
@[simp] theorem happen_cur_vq (s : State) (v c n : Nat) : (s.happen v c n).cur.vq = s.cur.vq := rfl
@[simp] theorem happen_cur_pass (s : State) (v c n : Nat) : (s.happen v c n).cur.pass = s.cur.pass := rfl

@[simp] theorem advance_cur_pc (s : State) : s.advance.cur.pc = s.nextPc := rfl
@[simp] theorem advance_cur_wait (s : State) : s.advance.cur.wait = .none := rfl
@[simp] theorem advance_cur_retry (s : State) : s.advance.cur.retry = false := rfl
@[simp] theorem advance_cur_past (s : State) : s.advance.cur.past = false := rfl
@[simp] theorem advance_cur_recent (s : State) : s.advance.cur.recent = s.cur.after none := rfl
@[simp] theorem advance_events (s : State) : s.advance.events = (s.happen s.cur.str.vcn 0x02 1).events := rfl
@[simp] theorem jump_events (s : State) (pc : BitVec 56) (past : Bool) : (s.jump pc past).events = (s.happen s.cur.str.vcn 0x02 1).events := rfl
@[simp] theorem happen_events (s : State) (v c n : Nat) : (s.happen v c n).events = s.events.set (eventKey v c) (s.due v c + n) := rfl
@[simp] theorem jump_cur_pc (s : State) (pc : BitVec 56) (past : Bool) : (s.jump pc past).cur.pc = pc := rfl
@[simp] theorem jump_cur_wait (s : State) (pc : BitVec 56) (past : Bool) : (s.jump pc past).cur.wait = .none := rfl
@[simp] theorem jump_cur_retry (s : State) (pc : BitVec 56) (past : Bool) : (s.jump pc past).cur.retry = false := rfl
@[simp] theorem jump_cur_past (s : State) (pc : BitVec 56) (past : Bool) : (s.jump pc past).cur.past = past := rfl
@[simp] theorem jump_cur_recent (s : State) (pc : BitVec 56) (past : Bool) : (s.jump pc past).cur.recent = s.cur.after none := rfl
@[simp] theorem waiting_cur_wait (s : State) (w : Wait) : (s.waiting w).cur.wait = w := rfl
@[simp] theorem raise_cur_wait (s : State) (c k : Nat) (ad : BitVec 64) (l : List SubFault) : (s.raise c k ad l).cur.wait = .none := rfl
@[simp] theorem setStr_cur_str (s : State) (f : Strand → Strand) : (s.setStr f).cur.str = f s.cur.str := rfl
@[simp] theorem setCounts_counts (s : State) (f : Counts → Counts) : (s.setCounts f).counts = f s.counts := rfl

end Sys2Proof.Machine
end

