-- ==== Sys2Proof/Laws/Registers.lean ====
section
/-! SUPPORT. The scalar registers (R84, R85) and what the shared endings of a meaning can do: a result, a trap, a wait. -/

namespace Sys2Proof.Machine

@[simp] theorem reg_zero (s : State) : s.reg 0 = 0 := rfl

theorem reg_eq {s t : State} (h : s.cur.regs = t.cur.regs) (r : Reg) : s.reg r = t.reg r := by
  unfold State.reg; rw [h]

@[simp] theorem reg_advance (s : State) (r : Reg) : s.advance.reg r = s.reg r := rfl
@[simp] theorem reg_jump (s : State) (pc : BitVec 56) (past : Bool) (r : Reg) : (s.jump pc past).reg r = s.reg r := rfl
@[simp] theorem reg_waiting (s : State) (w : Wait) (r : Reg) : (s.waiting w).reg r = s.reg r := rfl
@[simp] theorem reg_raise (s : State) (c k : Nat) (ad : BitVec 64) (l : List SubFault) (r : Reg) : (s.raise c k ad l).reg r = s.reg r := rfl
@[simp] theorem reg_setStr (s : State) (f : Strand → Strand) (r : Reg) : (s.setStr f).reg r = s.reg r := rfl

theorem reg_setReg_same (s : State) {d : Reg} (h : d ≠ 0) (v : Word) : (s.setReg d v).reg d = v := by
  simp only [State.reg, State.setReg, if_neg h, Vector.get]
  exact Vector.getElem_set_self (xs := s.cur.regs) d.toFin.isLt

theorem reg_setReg_other (s : State) {d r : Reg} (h : r ≠ d) (v : Word) : (s.setReg d v).reg r = s.reg r := by
  unfold State.setReg
  split
  · rfl
  · simp only [State.reg]
    split
    · rfl
    · have hv : d.toNat ≠ r.toNat := fun e => h (BitVec.eq_of_toNat_eq e.symm)
      exact Vector.getElem_set_ne (xs := s.cur.regs) d.toFin.isLt r.toFin.isLt hv

/-- A write to s0 is discarded. -/
@[simp] theorem setReg_zero (s : State) (v : Word) : s.setReg 0 v = s := rfl

theorem reg_result_same (s : State) {d : Reg} (h : d ≠ 0) (v : Word) : (s.result d v).reg d = v := reg_setReg_same s h v
theorem reg_result_other (s : State) {d r : Reg} (h : r ≠ d) (v : Word) : (s.result d v).reg r = s.reg r := reg_setReg_other s h v

@[simp] theorem nextPc_setReg (s : State) (d : Reg) (v : Word) : (s.setReg d v).nextPc = s.nextPc := by
  unfold State.setReg; split <;> rfl
@[simp] theorem after_setReg (s : State) (d : Reg) (v : Word) (p : Option (BitVec 56)) : (s.setReg d v).cur.after p = s.cur.after p := by
  unfold State.setReg; split <;> rfl

/-- Everything that a result does: put its five fields, the registers and the events to count back, and the state is as it was. -/
theorem result_frame (s : State) (d : Reg) (v : Word) :
    { s.result d v with events := s.events, cur := { (s.result d v).cur with
        regs := s.cur.regs, pc := s.cur.pc, wait := s.cur.wait, retry := s.cur.retry, past := s.cur.past, recent := s.cur.recent } } = s := by
  unfold State.result State.answer State.setReg; split <;> rfl

/-- Everything that a synchronous trap does before it is taken. -/
theorem raise_frame (s : State) (c k : Nat) (ad : BitVec 64) (l : List SubFault) :
    { s.raise c k ad l with cur := { (s.raise c k ad l).cur with wait := s.cur.wait, stop := s.cur.stop } } = s := rfl

/-- Everything that a wait does. -/
theorem waiting_frame (s : State) (w : Wait) : { s.waiting w with cur := { (s.waiting w).cur with wait := s.cur.wait } } = s := rfl

theorem branch_cases {s t : State} {taken : Bool} {imm : BitVec 16} (h : s.branch taken imm = .next t) :
    t = if taken then s.jump (target16 s.cur.pc imm) (imm.extractLsb' 0 5 == 31) else s.advance := by
  unfold State.branch at h; injection h with h; exact h.symm

end Sys2Proof.Machine
end

