-- ==== Sys2Proof/Laws/Tables.lean ====
section
/-! SUPPORT. Reading a table after a change, the accessors that stand over tables, and little-endian numbers. -/

namespace Sys2Proof

theorem Tbl.get?_set_same {α : Type} (t : Tbl α) (k : Nat) (x : α) : (t.set k x).get? k = some x := by
  induction t with
  | nil => simp [Tbl.set, Tbl.get?]
  | cons e t ih =>
    obtain ⟨i, y⟩ := e
    simp only [Tbl.set]
    split
    · simp [Tbl.get?]
    · split
      · simp [Tbl.get?]
      · simp [Tbl.get?, ih, Ne.symm ‹¬ k = i›]

theorem Tbl.get?_set_other {α : Type} (t : Tbl α) {k j : Nat} (x : α) (h : j ≠ k) : (t.set k x).get? j = t.get? j := by
  induction t with
  | nil => simp [Tbl.set, Tbl.get?, h.symm]
  | cons e t ih =>
    obtain ⟨i, y⟩ := e
    simp only [Tbl.set]
    split
    · simp [Tbl.get?, h.symm]
    · split
      · subst ‹k = i›; simp [Tbl.get?, h.symm]
      · simp [Tbl.get?, ih]

theorem Tbl.get?_drop_same {α : Type} (t : Tbl α) (k : Nat) : (t.drop k).get? k = none := by
  induction t with
  | nil => rfl
  | cons e t ih =>
    obtain ⟨i, y⟩ := e
    by_cases h : i = k <;> simp_all [Tbl.drop, Tbl.get?]

theorem Tbl.get?_drop_other {α : Type} (t : Tbl α) {k j : Nat} (h : j ≠ k) : (t.drop k).get? j = t.get? j := by
  induction t with
  | nil => rfl
  | cons e t ih =>
    obtain ⟨i, y⟩ := e
    by_cases hi : i = k
    · subst hi; simpa [Tbl.drop, Tbl.get?, h.symm] using ih
    · by_cases hj : i = j <;> simp_all [Tbl.drop, Tbl.get?]

@[simp] theorem Tbl.getD_set_same {α : Type} (t : Tbl α) (k : Nat) (x d : α) : (t.set k x).getD k d = x := by simp [Tbl.getD, Tbl.get?_set_same]
theorem Tbl.getD_set_other {α : Type} (t : Tbl α) {k j : Nat} (x d : α) (h : j ≠ k) : (t.set k x).getD j d = t.getD j d := by simp [Tbl.getD, Tbl.get?_set_other t x h]

namespace Machine

theorem leNat_toLe (n : Nat) : ∀ v, v < 256 ^ n → leNat (toLe n v) = v := by
  induction n with
  | zero => intro v h; simp at h; simp [toLe, leNat, h]
  | succ n ih =>
    intro v h
    have : v / 256 < 256 ^ n := Nat.div_lt_of_lt_mul (by rw [Nat.pow_succ] at h; omega)
    simp only [toLe, leNat, ih _ this, BitVec.toNat_ofNat]
    omega

theorem length_toLe (n : Nat) : ∀ v, (toLe n v).length = n := by
  induction n with
  | zero => intro v; rfl
  | succ n ih => intro v; simp [toLe, ih]

@[simp] theorem port_setPort_same (s : State) (p : Nat) (x : Port) : (s.setPort p x).port p = x := Tbl.getD_set_same ..
theorem port_setPort_other (s : State) {p q : Nat} (x : Port) (h : q ≠ p) : (s.setPort p x).port q = s.port q := Tbl.getD_set_other _ _ _ h
@[simp] theorem queue_setQueue_same (s : State) (q : Nat) (x : Queue) : (s.setQueue q x).queue q = x := Tbl.getD_set_same ..
theorem queue_setQueue_other (s : State) {q r : Nat} (x : Queue) (h : r ≠ q) : (s.setQueue q x).queue r = s.queue r := Tbl.getD_set_other _ _ _ h
@[simp] theorem vc_setVc_same (s : State) (v : Nat) (x : VCluster) : (s.setVc v x).vc v = x := Tbl.getD_set_same ..
theorem vc_setVc_other (s : State) {v w : Nat} (x : VCluster) (h : w ≠ v) : (s.setVc v x).vc w = s.vc w := Tbl.getD_set_other _ _ _ h
@[simp] theorem chip_setChip_same (s : State) (c : Nat) (x : Chiplet) : (s.setChip c x).chip c = x := Tbl.getD_set_same ..
theorem chip_setChip_other (s : State) {c d : Nat} (x : Chiplet) (h : d ≠ c) : (s.setChip c x).chip d = s.chip d := Tbl.getD_set_other _ _ _ h
@[simp] theorem cluster_setCluster_same (s : State) (p : Nat) (x : Cluster) : (s.setCluster p x).cluster p = x := by simp [State.cluster, State.setCluster, Tbl.get?_set_same]
@[simp] theorem ctx?_setCtx_same (s : State) (a : Nat) (c : Ctx) : (s.setCtx a c).ctx? a = some c := Tbl.get?_set_same ..
theorem ctx?_setCtx_other (s : State) {a b : Nat} (c : Ctx) (h : b ≠ a) : (s.setCtx a c).ctx? b = s.ctx? b := Tbl.get?_set_other _ _ h
@[simp] theorem mbox_setMbox_same (s : State) (i : Inst) (m : Mailbox) : (s.setMbox i m).mbox i = m := by cases i <;> rfl

/-- The end of a request: its state, its code, the results before the arguments that they do not replace; the other instance and memory keep theirs. -/
theorem finishMbox_frame (s : State) (i : Inst) (st code : Nat) (l : List Word) :
    ((s.finishMbox i st code l).mbox i).st = st ∧ ((s.finishMbox i st code l).mbox i).code = code ∧ ((s.finishMbox i st code l).mbox i).taken = false
      ∧ ((s.finishMbox i st code l).mbox i).args = l ++ (s.mbox i).args.drop l.length ∧ (s.finishMbox i st code l).mem = s.mem ∧ (∀ j, j ≠ i → (s.finishMbox i st code l).mbox j = s.mbox j) := by
  cases i <;> refine ⟨rfl, rfl, rfl, rfl, rfl, fun j h => ?_⟩ <;> cases j <;> first | rfl | exact absurd rfl h

/-- What an event does to the events that are left to count: n more of its own code, and no others (R326). -/
@[simp] theorem due_happen_same (s : State) (v c n : Nat) : (s.happen v c n).due v c = s.due v c + n := Tbl.getD_set_same ..
theorem due_happen_other (s : State) {v w c k : Nat} (h : eventKey w k ≠ eventKey v c) (n : Nat) : (s.happen v c n).due w k = s.due w k := Tbl.getD_set_other _ _ _ h

end Machine

end Sys2Proof
end

