-- ==== Sys2Proof/Machine/Record.lean ====
section
/-! DEFINITION. The tile-task records of the schedulers as the 128 bytes of R75 and the states of R76. -/

namespace Sys2Proof.Machine

/-- The state codes of R76; FREE, 0, is the code of a record that is not in use. -/
def TaskState.code : TaskState → Nat
  | .waiting => 1 | .ready => 2 | .staging => 3 | .running => 4 | .faulted => 5 | .done => 6

def floatIndex : Fmt → Nat
  | .e4m3s => 1 | .e5m2s => 2 | .e2m1s => 3 | _ => 0
def blockIndex : Fmt → Nat
  | .b w => w.val
  | _ => 0
def isBlock : Fmt → Bool
  | .b _ => true
  | _ => false

/-- The minor of a product (R139). -/
def pairMinor (fa fb : Fmt) : Nat := if isBlock fa then 8 * blockIndex fa + blockIndex fb else 4 * floatIndex fa + floatIndex fb

/-- Major and minor of a tile instruction (R138, R139). -/
def TileKind.opcode : TileKind → Nat × Nat
  | .mov => (0x30, 0x00) | .add => (0x30, 0x01) | .mul => (0x30, 0x02) | .cvt => (0x30, 0x03) | .baq => (0x30, 0x04)
  | .sortc => (0x30, 0x05) | .compact => (0x30, 0x06) | .red => (0x30, 0x07) | .trans => (0x30, 0x08) | .fill => (0x30, 0x09)
  | .mma fa fb => (if isBlock fa then 0x32 else 0x31, pairMinor fa fb)
  | .mmag fa fb => (if isBlock fa then 0x34 else 0x33, pairMinor fa fb)

/-- What the records of one instruction differ in. parent: 0xFFFF_FFFF at the root. -/
structure RecordPart where
  level : Nat
  state : Nat
  stolen : Bool := false
  nsub : Nat := 0
  subOvf : Bool := false
  parent : Nat := 0xFFFFFFFF
  lo : Nat
  hi : Nat
  kblk : Nat := 0
  group : Nat := 0
  rowOrg : Nat := 0
  colOrg : Nat := 0
  rowCnt : Nat := 0
  colCnt : Nat := 0
  vcn : Nat
  deriving DecidableEq, Repr

/-- A record of 128 bytes (R75). DESIGN CHOICE (log 155): the spec does not say how a scheduler chooses STAGE, nor how one offset states both the A rows and the B group of GSROFF; both are free values. -/
def recordBytes (r : TileRoot) (p : RecordPart) : List Byte :=
  toLe 2 (r.kind.opcode.1 + r.kind.opcode.2 * 2 ^ 6 + p.level % 8 * 2 ^ 12 + bit r.snap 15) ++ toLe 1 (p.state + bit p.stolen 3)
    ++ toLe 1 (p.nsub + bit p.subOvf 6) ++ toLe 4 p.parent ++ toLe 8 r.seq ++ toLe 4 p.lo ++ toLe 4 p.hi ++ toLe 4 p.kblk ++ toLe 4 p.group
    ++ toLe 4 p.rowOrg ++ toLe 4 p.colOrg ++ toLe 4 p.rowCnt ++ toLe 4 p.colCnt ++ r.addrs.flatMap (toLe 8)
    ++ toLe 8 (Config.groupOffset r.seq p.lo).toNat ++ toLe 8 (Config.stageOffset r.seq p.lo).toNat ++ toLe 4 (p.vcn % 4096) ++ List.replicate 28 0

/-- The state of a record whose tasks are all below it: it waits to be dispatched, its children are outstanding, or they have settled. -/
def midState (ls : List Leaf) : TaskState :=
  if ls.all fun l => l.st == .ready then .ready
  else if !(ls.all fun l => l.st == .done || l.st == .faulted) then .running
  else if ls.any fun l => l.st == .faulted then .faulted else .done

/-- Sub-faults folded in: their number, at most 32, and whether there were more. -/
def subCount (ls : List Leaf) : Nat × Bool :=
  let n := (ls.flatMap fun l => l.sub.toList ++ l.farSubs).length
  (min n 32, decide (32 < n))

def TileRoot.rootPart (r : TileRoot) : RecordPart :=
  { level := r.level, state := r.st.code, nsub := min r.subs.length 32, subOvf := decide (32 < r.subs.length), lo := 0
    hi := ((r.leaves.map fun (l : Leaf) => l.idx + 1) ++ r.mids.map fun (m : TileMid) => m.hi).foldl max 0, vcn := r.vcn }

def TileRoot.midPart (r : TileRoot) (m : TileMid) : RecordPart :=
  let ls := r.leaves.filter m.holds
  { level := m.level, state := (midState ls).code, stolen := m.stolen, nsub := (subCount ls).1, subOvf := (subCount ls).2
    parent := m.parent.getD 0, lo := m.lo, hi := m.hi, vcn := (ls.map fun l => l.vcn).headD r.vcn }

/-- The record of a leaf: under the root at L1, at L2 and in a gateway core, else under the L3 record that holds it, by its index among the L3 records. -/
def TileRoot.leafPart (r : TileRoot) (l : Leaf) : RecordPart :=
  { level := if r.gateway then 5 else min r.level 2, state := l.st.code, stolen := l.stolen, nsub := (subCount [l]).1
    parent := (((r.mids.filter fun m => m.level == 3).zipIdx.find? fun m => m.1.holds l).map fun m => m.2).getD 0
    lo := l.idx, hi := l.idx + 1, kblk := l.kblk, group := l.group, rowOrg := l.rowOrg, colOrg := l.colOrg, rowCnt := l.rowCnt, colCnt := l.colCnt
    vcn := l.vcn }

/-- Every record of a tile instruction: its root, those between, and those of its leaves. -/
def TileRoot.records (r : TileRoot) : List (List Byte) :=
  recordBytes r r.rootPart :: ((r.mids.map fun m => recordBytes r (r.midPart m)) ++ r.leaves.map fun l => recordBytes r (r.leafPart l))

end Sys2Proof.Machine
end

