-- ==== Sys2Proof/Tests/Slice0.lean ====
section
/-! SUPPORT. Tests: ill-formed terms, words written out from the encodings, a few single steps with results computed by hand from the rules, and for every statement with hypotheses a state and operands that meet them. -/

namespace Sys2Proof.Tests

open Sys2Proof Sys2Proof.Machine

set_option Elab.async false

/-! The checks of WellFormed refuse. -/

/-- Fields past bit 63 (R348), formats that no family takes (R145), index rows beside a scalar shift (R454), tile registers above t7 at L0, and levels that an operation does not have (R110, R138). -/
theorem test_ill_formed :
    ([.bfx 3 4 60 4, .bfxu 3 4 63 1, .bfi 3 4 1 63,
      .vadd false .e4m3 0 1 2 3, .vsub false .raw 0 1 2 3, .vmul false (.b 3) 0 1 2 3, .vfma false .e2m1 0 1 2 3, .vdiv false .e5m2 0 1 2 3, .vmin false .e4m3s 0 1 2 3, .vmax false .raw 0 1 2 3,
      .vabs false .raw 0 1 2, .vcmp false .e4m3 1 0 1 2 3, .vsel false .raw 0 1 2 3, .vscan false (.b 0) 1 0 1 2, .vperm false .e2m1 0 1 2 3, .vbcast false .raw 1 0 1, .vext false .e4m3 1 0 1 2 3,
      .vrsum .e4m3 1 0 1, .vrmax .raw 1 0 1, .vrmin .e2m1s 1 0 1, .vsgn false .n32 0 1 2 3, .vand false .f32 0 1 2 3, .vor false .bf16 0 1 2 3, .vxor false .f16 0 1 2 3, .viota false .f32 1 0 1,
      .vshl false .f32 0 0 1 2 3, .vshl false .i32 4 0 1 2 3, .vshr false .i32 4 0 1 2 3, .vsha false .i32 4 0 1 2 3,
      .vrcp false .i32 0 1 2, .vrsq false .e4m3 0 1 2, .vexp2 false .n8 0 1 2, .vlog2 false .raw 0 1 2, .vcvt false .raw .f32 0 0 1 2, .vcvt false .f32 .raw 0 0 1 2,
      .vbfpq false .f32 .f32 1 2 1 2, .vbfpq false (.b 3) .i32 1 2 1 2, .vbfpd false .i32 (.b 3) 1 2 1 2, .vbfpd false .f32 .f32 1 2 1 2,
      .vgath false 0 .e2m1 4 0 1 2 0, .vscat 0 (.b 2) 4 0 1 2 0,
      .tmov .l0 0 8 1, .tadd .l0 0 1 9 2 3, .tadd .l1 0 1 2 3 4, .tmul .l0 0 1 2 10 3, .tmul .l5 0 1 2 3 4, .tbaq .l0 0 8 1 2 3, .tcvt .l0 0 1 8 3, .tred .l0 0 8 1 3, .ttrans .l0 0 1 15 3, .ttrans .l2 0 1 2 3,
      .tfill .l0 0 8 1 3, .tfill .l3 0 1 2 3, .tsortc .l0 false 0 1 2 3, .tcompact .l0 true 0 1 2 3 4, .tmmaFloat .l0 0 .bf16 .bf16 1 2 3 4, .tmmaFloat .l0 0 .bf16 .bf16 8 2 3 0,
      .tmmaBlock .l0 0 1 2 1 2 8 0, .tmmagFloat .l0 false 0 .bf16 .bf16 1 2 3 4, .tmmagBlock .l0 false 0 1 2 1 2 3 4] : List Instr).all (fun i => !WellFormed i) = true := by
  decide +kernel

/-! Words written out from the encodings (R102 to R142). -/

/-- Format H: 5.1 of the head gives the operation, D the number. -/
theorem test_decode_heads :
    decode false 0x0000 0 = .instr .nop ∧ decode false 0x2800 0 = .instr .uwseal ∧ decode false 0x1803 0 = .instr (.brk 3) ∧ decode true 0x2400 0 = .instr .idle
    ∧ decode true 0x2000 0 = .instr .tretResume ∧ decode true 0x2001 0 = .instr .tretAbandon := by decide +kernel

/-- Integer, float, control, engine and system register forms. -/
theorem test_decode_register_forms :
    decode false 0x4134 0x5000 = .instr (.add 3 4 5) ∧ decode false 0x4134 0x5005 = .instr (.div 3 4 5) ∧ decode false 0x4134 0x0015 = .instr (.clz 3 4) ∧ decode false 0x4134 0x5618 = .instr (.sel 3 4 5 6)
    ∧ decode false 0x4907 0 = .instr (.jalr 0 7) ∧ decode false 0x4900 0x000A = .instr .fenceL3 ∧ decode false 0x4930 0x0010 = .instr (.fencei false 3) ∧ decode false 0x4903 0x0012 = .instr (.fencew false 3)
    ∧ decode false 0x4D34 0x5600 = .instr (.get 0 3 4 5 6) ∧ decode false 0x4D34 0x5601 = .instr (.put 0 3 4 5 6) ∧ decode false 0x4D06 0x7002 = .instr (.tcpy 0 6 7 0)
    ∧ decode false 0x4DA6 0x7003 = .instr (.tcpya 0 10 6 7 0) ∧ decode false 0x4D34 0x5904 = .instr (.armw 0 .cas 3 4 5)
    ∧ decode false 0x5105 0 = .instr (.trap 5) ∧ decode false 0x5130 6 = .instr (.uwnum 3) ∧ decode false 0x5104 0x5007 = .instr (.trec 4 5) := by decide +kernel

/-- Immediates, branches, scalar memory and long immediates. -/
theorem test_decode_immediate_forms :
    decode false 0x8234 0x80000002 = .instr (.ori 3 4 0x8000) ∧ decode false 0x8234 0x000C0004 = .instr (.shli 3 4 12) ∧ decode false 0x8234 0xFFFF0007 = .instr (.slti 3 4 0xFFFF)
    ∧ decode false 0x8234 0x00C80008 = .instr (.bfx 3 4 8 3) ∧ decode false 0x8231 0x0002000B = .instr (.wid 3 1 2 .field)
    ∧ decode false 0x8604 0xFFA45001 = .instr (.bne 4 5 0xFFA4) ∧ decode false 0x8630 0x00000006 = .instr (.loop 3 0)
    ∧ decode false 0x8A32 0 = .instr (.ld 0 .d64 3 2 0) ∧ decode false 0x8A34 0x00030600 = .instr (.ld 0 .n8 3 4 3) ∧ decode false 0x8A34 0x00105002 = .instr (.ldp 0 3 4 5 16)
    ∧ decode false 0x8A14 0x01000001 = .instr (.st 0 .d64 1 4 0x100) ∧ decode false 0x8A34 0x00105003 = .instr (.stp 0 3 4 5 16) ∧ decode false 0x8E34 0x01005010 = .instr (.waita 0 3 4 5 0x100)
    ∧ decode false 0xE330 0x123456780002 = .instr (.lim false 3 0x12345678) ∧ decode false 0xE300 0xFFFFFFC10000 = .instr (.jmp 0xFFFFFFC1) ∧ decode false 0xE370 0x00A00001 = .instr (.jal 7 0xA0) := by
  decide +kernel

/-- Row operations, row memory and tile operations. -/
theorem test_decode_row_and_tile_forms :
    decode false 0xA200 0x0B104500 = .instr (.vadd false .f32 5 4 8 12) ∧ decode false 0xA204 0x0B10400F = .instr (.vcmp false .f32 4 0 4 8 12)
    ∧ decode false 0xA204 0x8B10401B = .instr (.vext false .n32 4 0 4 8 12) ∧ decode false 0xF304 0x000000004500 = .instr (.vld false 0 4 5 4 0)
    ∧ decode false 0xF304 0x00008A004003 = .instr (.vgath false 0 .n32 4 0 4 8 0)
    ∧ decode false 0xC234 0x00025001 = .instr (.tadd .l2 0 3 4 5 0) ∧ decode false 0xC620 0x1000 = .instr (.tmmaFloat .l0 0 .bf16 .bf16 2 0 1 0) := by decide +kernel

/-! A word for every instruction of a strand, assembled by hand from the field layouts of R108 to R111 and the minor tables of R125 to R139. -/

/-- Every word reads as its instruction. -/
def reads (l : List (BitVec 16 × BitVec 48 × Instr)) : Bool := l.all fun x => decide (decode true x.1 x.2.1 = .instr x.2.2)

theorem test_words_heads : reads [
    (0x0000, 0x0, .nop), (0x0400, 0x0, .exit), (0x0800, 0x0, .yield), (0x0801, 0x0, .yieldRel), (0x0C00, 0x0, .suspend), (0x0C01, 0x0, .suspendRel),
    (0x1000, 0x0, .pin), (0x1400, 0x0, .quiet), (0x180F, 0x0, .brk 15), (0x1C00, 0x0, .tack), (0x2000, 0x0, .tretResume), (0x2001, 0x0, .tretAbandon),
    (0x2400, 0x0, .idle), (0x2800, 0x0, .uwseal), (0x2C00, 0x0, .ifence)] = true := by decide +kernel

theorem test_words_integer : reads [
    (0x4134, 0x5000, .add 3 4 5), (0x4134, 0x5001, .sub 3 4 5), (0x4134, 0x5002, .mul 3 4 5), (0x4134, 0x5003, .mulh 3 4 5), (0x4134, 0x5004, .mulhu 3 4 5), (0x4134, 0x5005, .div 3 4 5),
    (0x4134, 0x5006, .divu 3 4 5), (0x4134, 0x5007, .rem 3 4 5), (0x4134, 0x5008, .remu 3 4 5), (0x4134, 0x5009, .and 3 4 5), (0x4134, 0x500A, .or 3 4 5), (0x4134, 0x500B, .xor 3 4 5),
    (0x4134, 0x500C, .shl 3 4 5), (0x4134, 0x500D, .shr 3 4 5), (0x4134, 0x500E, .sha 3 4 5), (0x4134, 0x500F, .slt 3 4 5), (0x4134, 0x5010, .sltu 3 4 5), (0x4134, 0x5011, .min 3 4 5),
    (0x4134, 0x5012, .minu 3 4 5), (0x4134, 0x5013, .max 3 4 5), (0x4134, 0x5014, .maxu 3 4 5), (0x4134, 0x15, .clz 3 4), (0x4134, 0x16, .ctz 3 4), (0x4134, 0x17, .popc 3 4),
    (0x4134, 0x5618, .sel 3 4 5 6)] = true := by decide +kernel

theorem test_words_float : reads [
    (0x4534, 0x5000, .fadd .f64 3 4 5), (0x4534, 0x5005, .fsub .f32 3 4 5), (0x4534, 0x500A, .fmul .bf16 3 4 5), (0x4534, 0x560F, .ffma .f16 3 4 5 6), (0x4534, 0x5010, .fdiv .f64 3 4 5), (0x4534, 0x15, .fsqrt .f32 3 4),
    (0x4534, 0x501A, .fmin .bf16 3 4 5), (0x4534, 0x501F, .fmax .f16 3 4 5), (0x4534, 0x5020, .fcmp .f64 3 4 5), (0x4534, 0x25, .fclass .f32 3 4), (0x4534, 0x502A, .fsgn .bf16 .copy 3 4 5), (0x4534, 0x512A, .fsgn .bf16 .invert 3 4 5),
    (0x4534, 0x522A, .fsgn .bf16 .xor 3 4 5), (0x4534, 0x2F, .fcvt .f16 (.fp .f64) 3 4), (0x4534, 0x32F, .fcvt .f16 (.fp .f16) 3 4), (0x4534, 0x42F, .fcvt .f16 .sint 3 4), (0x4534, 0x52F, .fcvt .f16 .uint 3 4), (0x4534, 0x130, .fcvtSint .f32 3 4),
    (0x4534, 0x231, .fcvtUint .bf16 3 4)] = true := by decide +kernel

theorem test_words_control : reads [
    (0x4934, 0x0, .jalr 3 4), (0x4904, 0x1, .wake 4), (0x4934, 0x5002, .waitc 3 4 5), (0x4934, 0x5003, .spawn 3 4 5), (0x4900, 0x4, .ltrig), (0x4934, 0x5005, .qpush 3 4 5),
    (0x4934, 0x5006, .qpop 3 4 5), (0x4904, 0x7, .evsig 4), (0x4900, 0x8, .fenceL1), (0x4900, 0x9, .fenceL2), (0x4900, 0xA, .fenceL3), (0x4900, 0xB, .fenceL4),
    (0x4900, 0xC, .fenceL5), (0x4930, 0x10, .fencei false 3), (0x4930, 0x11, .fencei true 3), (0x4904, 0x12, .fencew false 4), (0x4904, 0x13, .fencew true 4)] = true := by decide +kernel

theorem test_words_engine_system : reads [
    (0x4D34, 0x5640, .get 1 3 4 5 6), (0x4D34, 0x5681, .put 2 3 4 5 6), (0x4D04, 0x56C2, .tcpy 3 4 5 6), (0x4D34, 0x5603, .tcpya 0 3 4 5 6), (0x4D34, 0x5004, .armw 0 .add 3 4 5), (0x4D34, 0x5104, .armw 0 .min 3 4 5),
    (0x4D34, 0x5204, .armw 0 .max 3 4 5), (0x4D34, 0x5304, .armw 0 .minu 3 4 5), (0x4D34, 0x5404, .armw 0 .maxu 3 4 5), (0x4D34, 0x5504, .armw 0 .and 3 4 5), (0x4D34, 0x5604, .armw 0 .or 3 4 5), (0x4D34, 0x5704, .armw 0 .xor 3 4 5),
    (0x4D34, 0x5804, .armw 0 .swp 3 4 5), (0x4D34, 0x5904, .armw 0 .cas 3 4 5), (0x4D34, 0x5A04, .armw 0 .fadd32 3 4 5), (0x4D34, 0x5B04, .armw 0 .fadd64 3 4 5), (0x5104, 0x0, .trap 4), (0x5134, 0x1, .csrr 3 4),
    (0x5104, 0x5002, .csrw 4 5), (0x5130, 0x3, .asgen 3), (0x5134, 0x4, .maprd 3 4), (0x5130, 0x5, .uwopen 3), (0x5130, 0x6, .uwnum 3), (0x5104, 0x5007, .trec 4 5)] = true := by decide +kernel

theorem test_words_immediate : reads [
    (0x8234, 0x81230000, .addi 3 4 0x8123), (0x8234, 0x81230001, .andi 3 4 0x8123), (0x8234, 0x81230002, .ori 3 4 0x8123), (0x8234, 0x81230003, .xori 3 4 0x8123), (0x8234, 0x81230007, .slti 3 4 0x8123), (0x8234, 0x3F0004, .shli 3 4 63),
    (0x8234, 0x3F0005, .shri 3 4 63), (0x8234, 0x3F0006, .shai 3 4 63), (0x8234, 0xC80008, .bfx 3 4 8 3), (0x8234, 0x3F0009, .bfxu 3 4 63 0), (0x8234, 0xFC0000A, .bfi 3 4 0 63), (0x8231, 0x2000B, .wid 3 1 2 .field),
    (0x8231, 0x9000B, .wid 3 1 1 .group), (0x8231, 0x15000B, .wid 3 1 5 .extent), (0x8231, 0x1A000B, .wid 3 1 2 .pos)] = true := by decide +kernel

theorem test_words_branch_memory : reads [
    (0x8604, 0x81235000, .beq 4 5 0x8123), (0x8604, 0x81235001, .bne 4 5 0x8123), (0x8604, 0x81235002, .blt 4 5 0x8123), (0x8604, 0x81235003, .bge 4 5 0x8123), (0x8604, 0x81235004, .bltu 4 5 0x8123), (0x8604, 0x81235005, .bgeu 4 5 0x8123),
    (0x8630, 0x81230006, .loop 3 0x8123), (0x8A34, 0x81230000, .ld 0 .d64 3 4 0x8123), (0x8A34, 0x81230140, .ld 1 .i32 3 4 0x8123), (0x8A34, 0x81230280, .ld 2 .n32 3 4 0x8123), (0x8A34, 0x812303C0, .ld 3 .i16 3 4 0x8123), (0x8A34, 0x81230400, .ld 0 .n16 3 4 0x8123),
    (0x8A34, 0x81230540, .ld 1 .i8 3 4 0x8123), (0x8A34, 0x81230680, .ld 2 .n8 3 4 0x8123), (0x8A34, 0x81230001, .st 0 .d64 3 4 0x8123), (0x8A34, 0x81230141, .st 1 .i32 3 4 0x8123), (0x8A34, 0x81230281, .st 2 .n32 3 4 0x8123), (0x8A34, 0x812303C1, .st 3 .i16 3 4 0x8123),
    (0x8A34, 0x81230401, .st 0 .n16 3 4 0x8123), (0x8A34, 0x81230541, .st 1 .i8 3 4 0x8123), (0x8A34, 0x81230681, .st 2 .n8 3 4 0x8123), (0x8A34, 0x81235042, .ldp 1 3 4 5 0x8123), (0x8A34, 0x81235083, .stp 2 3 4 5 0x8123)] = true := by decide +kernel

theorem test_words_atomic : reads [
    (0x8E34, 0x81235000, .aadd 0 .w64 3 4 5 0x8123), (0x8E34, 0x81235141, .amin 1 .w32 3 4 5 0x8123), (0x8E34, 0x81235082, .amax 2 .w64 3 4 5 0x8123), (0x8E34, 0x812351C3, .aminu 3 .w32 3 4 5 0x8123), (0x8E34, 0x81235004, .amaxu 0 .w64 3 4 5 0x8123), (0x8E34, 0x81235145, .aand 1 .w32 3 4 5 0x8123),
    (0x8E34, 0x81235086, .aor 2 .w64 3 4 5 0x8123), (0x8E34, 0x812351C7, .axor 3 .w32 3 4 5 0x8123), (0x8E34, 0x81235008, .aswp 0 .w64 3 4 5 0x8123), (0x8E34, 0x81235149, .acas 1 .w32 3 4 5 0x8123), (0x8E34, 0x8123504A, .afaddF32 1 3 4 5 0x8123), (0x8E34, 0x8123508B, .afaddF64 2 3 4 5 0x8123),
    (0x8E34, 0x812350D0, .waita 3 3 4 5 0x8123), (0xE300, 0x812345670000, .jmp 0x81234567), (0xE330, 0x812345670001, .jal 3 0x81234567), (0xE330, 0x812345670002, .lim false 3 0x81234567), (0xE330, 0x812345670102, .lim true 3 0x81234567)] = true := by decide +kernel

theorem test_words_row : reads [
    (0xA280, 0xA5DD600, .vadd true .f32 6 29 14 9), (0xA200, 0x125DD601, .vsub false .bf16 6 29 14 9), (0xA280, 0x1A5DD602, .vmul true .f16 6 29 14 9), (0xA200, 0x825DD603, .vfma false .i32 6 29 14 9), (0xA280, 0x8A5DD604, .vdiv true .n32 6 29 14 9), (0xA200, 0x925DD605, .vmin false .i16 6 29 14 9),
    (0xA280, 0x9A5DD606, .vmax true .n16 6 29 14 9), (0xA200, 0xA01DD607, .vabs false .i8 6 29 14), (0xA280, 0xA5DD608, .vsgn true .f32 6 29 14 9), (0xA200, 0xAA5DD609, .vand false .n8 6 29 14 9), (0xA280, 0xA25DD60A, .vor true .i8 6 29 14 9), (0xA200, 0x8A5DD60B, .vxor false .n32 6 29 14 9),
    (0xA280, 0x825DD60C, .vshl true .i32 0 6 29 14 9), (0xA204, 0x981DD60D, .vshr false .n16 4 6 29 14 0), (0xA280, 0xA25DD60E, .vsha true .i8 0 6 29 14 9), (0xA204, 0x125DD60F, .vcmp false .bf16 4 6 29 14 9), (0xA280, 0x1A5DD610, .vsel true .f16 6 29 14 9), (0xA204, 0xEDDD611, .vcvt false (.b 2) .f32 4 6 29 14),
    (0xA280, 0x81DD612, .vrcp true .f32 6 29 14), (0xA200, 0x101DD613, .vrsq false .bf16 6 29 14), (0xA280, 0x181DD614, .vexp2 true .f16 6 29 14), (0xA200, 0x81DD615, .vlog2 false .f32 6 29 14), (0xA204, 0x801C0616, .vrsum .i32 4 6 14), (0xA204, 0xA81C0617, .vrmax .n8 4 6 14),
    (0xA204, 0x181C1617, .vrmin .f16 4 6 14), (0xA284, 0x901DD618, .vscan true .i16 4 6 29 14), (0xA200, 0xAA5DD619, .vperm false .n8 6 29 14 9), (0xA284, 0x1001D61A, .vbcast true .bf16 4 6 29), (0xA204, 0x825DD61B, .vext false .i32 4 6 29 14 9), (0xA284, 0x8801D61C, .viota true .n32 4 6 29),
    (0xA204, 0xA1DD61D, .vbfpq false .e4m3s .f32 4 6 29 14), (0xA284, 0xC89DD61E, .vbfpd true .bf16 (.b 0) 4 6 29 14)] = true := by decide +kernel

theorem test_words_row_memory : reads [
    (0xF384, 0x81230001D640, .vld true 1 4 6 29 0x8123), (0xF304, 0x81230001D681, .vst 2 4 6 29 0x8123), (0xF384, 0x81230015D6C2, .vlds true 3 4 5 6 29 0x8123), (0xF304, 0x81232241D643, .vgath false 1 .e4m3 4 6 29 9 0x8123), (0xF304, 0x81238241D684, .vscat 2 .i32 4 6 29 9 0x8123)] = true := by decide +kernel

theorem test_words_tile : reads [
    (0xC234, 0x0, .tmov .l0 0 3 4), (0xC2B4, 0x15041, .tadd .l1 1 11 4 5 0), (0xC234, 0x5641, .tadd .l0 1 3 4 5 6), (0xC234, 0x25002, .tmul .l2 0 3 4 5 0), (0xC234, 0x30603, .tcvt .l3 0 3 4 6), (0xC234, 0x45604, .tbaq .l4 0 3 4 5 6),
    (0xC234, 0xD0685, .tsortc .l5 true 2 3 4 6), (0xC234, 0x15606, .tcompact .l1 false 0 3 4 5 6), (0xC234, 0x607, .tred .l0 0 3 4 6), (0xC234, 0x20008, .ttrans .l2 0 3 4 0), (0xC234, 0x609, .tfill .l0 0 3 4 6), (0xC634, 0x15606, .tmmaFloat .l1 0 .e4m3s .e5m2s 3 4 5 6),
    (0xCA34, 0x5031, .tmmaBlock .l0 0 6 1 3 4 5 0), (0xCE34, 0xD56CC, .tmmagFloat .l5 true 3 .e2m1s .bf16 3 4 5 6), (0xD245, 0x36712, .tmmagBlock .l3 false 0 2 2 4 5 6 7)] = true := by decide +kernel

/-! A panel with one resident context of four virtual clusters, a strand of a kernel on core 0 that holds tile slot 0, and one page of every target type in the translation cache. -/

/-- A page of 64 KiB with every permission. -/
def page (k : Agent) (n tt loc : Nat) : TlbEntry := { at_ := k, asid := 1, gen := 0, base := n * 2 ^ 16, size := 2 ^ 16, leaf := BitVec.ofNat 64 (0x3F + tt * 2 ^ 8 + loc * 2 ^ 16) }

/-- Pages 1 to 10: the own core, core 0 of VCN 1, the scratchpads of VCN 0 and VCN 1, the chiplet scratchpad, the event unit of VCN 0, the window, HBM, host memory, a peer. -/
def pageList : List (Nat × Nat × Nat) := [(1, 0, 0), (2, 1, 1), (3, 2, 0), (4, 2, 1), (5, 3, 0), (6, 4, 0), (7, 5, 0), (8, 8, 1), (9, 9, 0), (10, 10, 0)]

/-- They stand in the caches of cluster 0 and of chiplet 0. -/
def pages : List TlbEntry := [Agent.cluster 0, .chiplet 0].flatMap fun k => pageList.map fun p => page k p.1 p.2.1 p.2.2

/-- Pages in one table at 0x80000 that leads to itself, for the agents that keep no translations (R165, R177). -/
def tablesOf (ps : List (Nat × Nat × Nat)) : Memory :=
  let words : List (Nat × Nat) := (0, 0x80001) :: ps.map fun p => (p.1, (page .device p.1 p.2.1 p.2.2).leaf.toNat)
  { cells := (words.flatMap fun w => (List.range 8).map fun k => (0x80000 + 8 * w.1 + k, BitVec.ofNat 8 (w.2 / 2 ^ (8 * k)))).filter fun c => c.2 != 0
    blockKey := [(0x2000, 7), (0x2001, 7), (0x2002, 7), (0x2003, 7)] }
def tables : Memory := tablesOf pageList

def ctxOne : Ctx := { desc := 0, ptroot := 0x80000, vcnum := 4, peers := 0x8000, stage2 := some 0x90000, stage3 := some 0xA0000, resident := true, everResident := true, chain := [{ entry := 0x80002, frames := 0x80000, hvcn := 0, nframes := 2 }] }

def hdrOne : Header := { widths := [3, 2, 4], nfields := 3, extents := [8, 4, 12], vccount := 4, pooloff := 0x10000, poolcap := 8, wlcap := 2, wloff := 0x20000 }

def kernelOne : Kernel := { q := 0, pkt := 0, asid := 1, hdr := hdrOne, live := 1 }

def strandOne : Strand := { asid := 1, kernel := some 0, st := .running, slot := some 0, holding := true }

def base : State :=
  { State.reset with
    cur := { run := some 0, str := strandOne, slot0 := some 0, pc := 0x80002 }
    mem := tables
    nextSid := 1, nextId := 1, nextKernel := 1, tlb := pages, ctxs := [(1, ctxOne)], kernels := [(0, kernelOne)], keys := [(0, 7)], keyCtr := 7
    queues := [(0, { enable := true, st := .idle, asid := some 1 })]
    map := [(0, { pcn := 0, valid := true }), (1, { pcn := 1, valid := true }), (2, { pcn := 64, valid := true }), (3, { pcn := 65, valid := true })] }

def withRegs (s : State) (l : List (Reg × Word)) : State := l.foldl (fun s e => s.setReg e.1 e.2) s

/-- The strand with other fields. -/
def withStr (s : State) (f : Strand → Strand) : State := s.setStr f

/-- The strand without a slot, which is free. -/
def bare : State := { base with cur := { base.cur with str := { strandOne with slot := none }, slot0 := none } }

/-- The same strand as a handler. -/
def handling : State := withStr base fun x => { x with kernel := none, serves := some { chain := 0, slot := 0 }, acked := true }

theorem base_memory : base.mem.wf = true ∧ bare.mem.wf = true := by decide +kernel

/-! Single steps with results computed by hand. -/

/-- A next state with a property. -/
def leads (o : Out) (p : State → Bool) : Bool :=
  match o with
  | .next t => p t
  | _ => false

/-- R338: ADD wraps; R338: a divisor of 0 gives all ones; R348: BFX's example; R459: WID's examples, for widths 3, 2 and 4 and s1 = 0x135. -/
theorem test_scalar_results :
    leads (exec (.add 3 4 5) (withRegs base [(4, 0xFFFFFFFFFFFFFFFF), (5, 2)])) (fun t => t.reg 3 == 1 && t.cur.pc == 0x80004) = true
    ∧ leads (exec (.div 3 4 0) (withRegs base [(4, 7)])) (fun t => t.reg 3 == 0xFFFFFFFFFFFFFFFF) = true
    ∧ leads (exec (.bfx 3 4 8 3) (withRegs base [(4, 0xAF00)])) (fun t => t.reg 3 == 0xFFFFFFFFFFFFFFFF) = true
    ∧ leads (exec (.wid 3 1 2 .field) (withRegs base [(1, 0x135)])) (fun t => t.reg 3 == 9) = true
    ∧ leads (exec (.wid 3 1 1 .group) (withRegs base [(1, 0x135)])) (fun t => t.reg 3 == 38) = true
    ∧ leads (exec (.wid 3 1 2 .pos) (withRegs base [(1, 0x135)])) (fun t => t.reg 3 == 5) = true := by decide +kernel

/-- R106's example: the branch at 0x1_2340 with imm16 0xFFA4 goes to 0x1_228A. -/
theorem test_branch_target : target16 0x12342 0xFFA4 = 0x1228A := by decide +kernel

/-- From reset with one instruction placed: step fetches it and runs it (LIM, R137; ADDI of s0, R85). -/
theorem test_step_fetches :
    leads (step (State.reset.withFetchWord 64 0xE330123456780002)) (fun t => t.reg 3 == 0x12345678) = true
    ∧ leads (step (State.reset.withFetchWord 48 0x820000050000)) (fun t => t.reg 0 == 0) = true := by decide +kernel

/-! Witnesses: for each statement with hypotheses, states and operands that meet them, clause by clause in the statement's order. -/

def okD {ε α : Type} (e : Except ε α) (d : α) : α := match e with | .ok x => x | .error _ => d
def isOk {ε α : Type} (e : Except ε α) : Bool := match e with | .ok _ => true | .error _ => false
theorem okD_eq {ε α : Type} {e : Except ε α} {d : α} (h : isOk e = true) : e = .ok (okD e d) := by
  cases e with
  | ok x => rfl
  | error x => simp [isOk] at h
def errD {ε α : Type} (e : Except ε α) (d : ε) : ε := match e with | .error x => x | .ok _ => d
theorem errD_eq {ε α : Type} {e : Except ε α} {d : ε} (h : isOk e = false) : e = .error (errD e d) := by
  cases e with
  | ok x => simp [isOk] at h
  | error x => rfl
theorem getD_eq {α : Type} {o : Option α} {d : α} (h : o.isSome = true) : o = some (o.getD d) := by
  cases o with
  | some x => rfl
  | none => simp at h
theorem forall_some {α : Type} {o : Option α} {P : α → Prop} [DecidablePred P] (h : (o.all fun x => decide (P x)) = true) : ∀ x, o = some x → P x := by
  intro x e; subst e; simpa using h
def okIs {ε α : Type} [DecidableEq α] (e : Except ε α) (x : α) : Bool := match e with | .ok y => decide (y = x) | .error _ => false
theorem ok_is {ε α : Type} [DecidableEq α] {e : Except ε α} {x : α} (h : okIs e x = true) : e = .ok x := by
  cases e with
  | ok y => simpa [okIs] using h
  | error y => simp [okIs] at h
def errIs {ε α : Type} [DecidableEq ε] (e : Except ε α) (x : ε) : Bool := match e with | .error y => decide (y = x) | .ok _ => false
theorem error_is {ε α : Type} [DecidableEq ε] {e : Except ε α} {x : ε} (h : errIs e x = true) : e = .error x := by
  cases e with
  | ok y => simp [errIs] at h
  | error y => simpa [errIs] using h

/-! Encodings and the step. -/

/-- An operand at its highest value; a privileged head; a word of the longest tail. -/
theorem meets_encodings :
    (∃ i h t, WellFormed i = true ∧ encode i = some (h, t) ∧ i = Instr.bfx 15 15 63 0)
    ∧ (∃ i h t, Privileged i = true ∧ encode i = some (h, t) ∧ i = Instr.csrw 15 15)
    ∧ (∃ i, ∃ (h : BitVec 16) (t : BitVec 48), decode false h t = .instr i ∧ t.toNat < 2 ^ (16 * (hTl h).toNat) ∧ t.toNat = 0xFFFFFFFF0000) :=
  ⟨⟨.bfx 15 15 63 0, 0x82FF, 0x003F0008, by decide +kernel⟩, ⟨.csrw 15 15, 0x510F, 0xF002, by decide +kernel⟩, ⟨.jmp 0xFFFFFFFF, 0xE300, 0xFFFFFFFF0000, by decide +kernel⟩⟩

/-- A strand at a boundary with one instruction in the line that it is about to enter: a NOP, and, outside a handler, a privileged head. -/
def fetching (h : BitVec 16) (t : BitVec 48) : State := base.placed h t
def notHandler (h : BitVec 16) (t : BitVec 48) : State := withStr (fetching h t) fun x => { x with serves := none, kernel := some 0 }

theorem meets_PrivilegedHeadsOutsideAHandler :
    (AtBoundary (notHandler 0x2400 0) ∧ (notHandler 0x2400 0).cur.run = some 0 ∧ (notHandler 0x2400 0).enterLine.cur.stop = none ∧ (notHandler 0x2400 0).enterLine.decoded = some (.illegal .priv))
    ∧ ∀ e ∈ [(0x0101, Csr.logbase), (0x0210, .pmovf), (0x020F, .pmcnt 7)], csrOf (bitsOf ((withRegs base [(4, e.1)]).reg 4) 15 0) = some e.2 ∧ (withRegs base [(4, e.1)]).handler = false := by
  refine ⟨⟨?_, by decide +kernel⟩, by decide +kernel⟩
  constructor <;> decide +kernel

/-- The first visit to a line, and a line that stands entered. -/
theorem meets_StepRunsTheDecodedInstruction :
    (∃ s sid k l i, AtBoundary s ∧ s.cur.run = some sid ∧ s.cur.past = false ∧ (s.cur.line = none ∧ s.fetchLine (lineAddr s.cur.pc) = .ok l) ∧ headIndex s.cur.pc = some k ∧ lineFault l (some k) = none
      ∧ decode s.handler (headWord l k) (tailWord l k) = .instr i ∧ s.pendingOperand i = false)
    ∧ (∃ s sid k l i, AtBoundary s ∧ s.cur.run = some sid ∧ s.cur.past = false ∧ s.cur.line = some (lineAddr s.cur.pc, l) ∧ headIndex s.cur.pc = some k ∧ lineFault l (some k) = none
      ∧ decode s.handler (headWord l k) (tailWord l k) = .instr i ∧ s.pendingOperand i = false) := by
  refine ⟨⟨fetching 0x4134 0x5000, 0, 0, okD ((fetching 0x4134 0x5000).fetchLine 0x100000) 0, .add 3 4 5, ?_, by decide +kernel, by decide +kernel, ⟨by decide +kernel, okD_eq (by decide +kernel)⟩, by decide +kernel⟩,
    ⟨(fetching 0x4134 0x5000).enterLine, 0, 0, okD ((fetching 0x4134 0x5000).fetchLine 0x100000) 0, .add 3 4 5, ?_, by decide +kernel⟩⟩ <;>
  constructor <;> decide +kernel

/-- A scheduled event; the last core that exists, and the first that does not. -/
theorem meets_StepLetsTheScheduledAgentMove :
    (∃ (s : State) (dt : Nat) (i : Instr) (rest : List (Nat × Pick)), s.sched = (dt, .event i) :: rest ∧ i.isEvent = true)
    ∧ (∃ (s : State) (dt : Nat) (rest : List (Nat × Pick)), s.sched = (dt, .core 24575) :: rest) ∧ ∃ (s : State) (dt : Nat) (rest : List (Nat × Pick)), s.sched = (dt, .core 24576) :: rest :=
  ⟨⟨{ base with sched := [(5, .event .healthSweep)] }, 5, .healthSweep, [], by decide +kernel⟩, ⟨{ base with sched := [(5, .core 24575)] }, 5, [], by decide +kernel⟩,
    ⟨{ base with sched := [(5, .core 24576)] }, 5, [], by decide +kernel⟩⟩

theorem meets_StepNeverStops : SchedOk { base with sched := [(5, .core 24575), (0, .event .healthSweep)] } := by
  intro p h
  simp at h
  rcases h with rfl | rfl
  · decide
  · trivial

theorem meets_StepKeepsMemoryCanonical : ∃ s t, MemInv s ∧ step s = .next t := ⟨base, _, base_memory.1, rfl⟩

/-- The last byte listed, a byte that the write does not name, and the byte after the write. -/
theorem meets_MemoryReadAfterWrite : ∃ (m : Memory) (bs : List (Option Byte)), m.wf = true ∧ 0 < bs.length ∧ (none : Option Byte) ∈ bs ∧ bs.length = 3 ∧ m.byte 0x42 = 7 :=
  ⟨{ cells := [(0x42, 7)] }, [some 1, none, some 2], by decide +kernel⟩

/-! Scalar instructions. -/

/-- The last head of a line and one that is not. -/
theorem meets_NextHead :
    ∀ pc ∈ [(0x80002 : BitVec 56), 0x80008], ∃ s : State, ∃ l k, s.cur.pc = pc ∧ s.cur.line = some (lineAddr s.cur.pc, l) ∧ headIndex s.cur.pc = some k ∧ k < lineHeads l := by
  intro pc h
  simp at h
  rcases h with rfl | rfl
  · exact ⟨{ base with cur := { base.cur with line := some (0x80000, 4) } }, 4, 0, by decide +kernel⟩
  · exact ⟨{ base with cur := { base.cur with pc := 0x80008, line := some (0x80000, 4) } }, 4, 3, by decide +kernel⟩

theorem meets_DivisionCorners :
    ((withRegs base []).reg 0 = 0) ∧ ((withRegs base [(4, 0x8000000000000000), (5, 0xFFFFFFFFFFFFFFFF)]).reg 4 = 0x8000000000000000 ∧ (withRegs base [(4, 0x8000000000000000), (5, 0xFFFFFFFFFFFFFFFF)]).reg 5 = 0xFFFFFFFFFFFFFFFF)
    ∧ (withRegs base [(5, 1)]).reg 5 ≠ 0 := by decide +kernel

theorem meets_ShiftAndRemainderCorners :
    (∃ (s : State) (d a b : Reg) (v : Word), v.extractLsb' 0 6 = (s.reg b).extractLsb' 0 6 ∧ b ≠ 0 ∧ a ≠ b ∧ v = 0xFFFFFFFFFFFFFFFF ∧ d = b)
    ∧ (withRegs base [(4, 0x8000000000000000), (5, 0xFFFFFFFFFFFFFFFF)]).reg 4 = 0x8000000000000000 ∧ (withRegs base [(4, -7), (5, 2)]).reg 4 = -7 ∧ (withRegs base [(4, -7), (5, 2)]).reg 5 = 2
    ∧ (withRegs base [(4, 0xFFFFFFFFFFFFFFFF), (5, 2)]).reg 4 = 0xFFFFFFFFFFFFFFFF :=
  ⟨⟨withRegs base [(5, 63)], 5, 4, 5, 0xFFFFFFFFFFFFFFFF, by decide +kernel⟩, by decide +kernel⟩

theorem meets_IntegerImmediates : base.kernelHere = some kernelOne ∧ handling.cur.str.kernel = none := by decide +kernel

/-- A field that ends at bit 63, and the whole register. -/
theorem meets_BitFields :
    ([((60 : BitVec 6), (3 : BitVec 6)), (0, 63), (63, 0)].all fun f => decide (f.1.toNat + f.2.toNat + 1 ≤ 64)) = true ∧ (withRegs base [(4, 0xAF00)]).reg 4 = 0xAF00 ∧ base.reg 3 = 0 ∧ (withRegs base [(4, 0xA)]).reg 4 = 0xA := by
  decide +kernel

theorem meets_LongImmediate : (withRegs base [(3, 0x12345678)]).reg 3 = 0x12345678 := by decide +kernel

/-- Each check of R107 in turn: bit 0 set, index bits 0, a high bit set, and a target that passes. -/
theorem meets_JumpRegisterChecks :
    (withRegs base [(4, 0x43)]).reg 4 = 0x43 ∧ (0x43 : Word).getLsbD 0 = true ∧ (0x40 : Word).extractLsb' 1 5 = 0
    ∧ (withRegs base [(4, 0x0100000000000042)]).reg 4 = 0x0100000000000042 ∧ (0x0100000000000042 : Word).getLsbD 0 = false ∧ (0x0100000000000042 : Word).extractLsb' 1 5 ≠ 0 ∧ (0x0100000000000042 : Word).extractLsb' 56 8 ≠ 0
    ∧ (withRegs base [(4, 0x00FFFFFFFFFFFFFE)]).reg 4 = 0x00FFFFFFFFFFFFFE ∧ (0x00FFFFFFFFFFFFFE : Word).getLsbD 0 = false ∧ (0x00FFFFFFFFFFFFFE : Word).extractLsb' 1 5 ≠ 0 ∧ (0x00FFFFFFFFFFFFFE : Word).extractLsb' 56 8 = 0
    ∧ lineAddr 0x12342 = 0x12340 := by decide +kernel

/-- A NaN and a number. -/
theorem meets_ScalarFloatingPoint : fpVal .f32 ((withRegs base [(4, 0x7FC00000)]).reg 4) = .nan ∧ fpVal .f32 ((withRegs base [(4, 0x3F800000)]).reg 4) ≠ .nan := by decide +kernel

/-! Strand control. -/

theorem meets_PlainHeads :
    base.counts.stores = 0 ∧ (withStr base fun x => { x with counts := { stores := 1 } }).counts.stores ≠ 0
    ∧ (base.cur.str.serves = none ∧ base.counts.zero = true ∧ base.cur.run = some 0 ∧ base.cur.str.kernel = some 0 ∧ base.kernels.get? 0 = some kernelOne)
    ∧ (withStr base fun x => { x with counts := { loads := 1 } }).counts.zero = false ∧ handling.handler = true := by decide +kernel

theorem meets_SuspensionHeads :
    (withStr base fun x => { x with counts := { tiles := 63 } }).counts.zero = false ∧ base.counts.zero = true
    ∧ ∃ s : State, coreExists s.focus = true ∧ s.cur.run = some 0 ∧ s.cur.susp ≠ .none ∧ s.cur.susp ≠ .retry ∧ s.cur.stop = none ∧ s.cur.str.pending = [] ∧ s.counts.zero = true ∧ s.lanesIdle = true :=
  ⟨by decide +kernel, by decide +kernel, { base with cur := { base.cur with susp := .yield } }, by decide +kernel⟩

/-- A count that equals its bound, and one that is higher by one. -/
theorem meets_WaitOnCounts :
    (∀ n ∈ [(1 : Nat), 2], ∃ (s : State) (a b : Reg) (met : Prop), s.counts.loads = n ∧ (met ↔ ∀ k, k < 7 → (s.reg b).getLsbD k = true ∨ (s.counts.word.extractLsb' (8 * k) 6).toNat ≤ ((s.reg a).extractLsb' (8 * k) 6).toNat) ∧ (met ↔ n = 1))
    ∧ (∀ k, k < 7 → (((withRegs base [(4, 0x3F3F3F3F3F3F3F)]).reg 4).extractLsb' (8 * k) 6).toNat = 63) ∧ base.counts.word = 0 := by
  refine ⟨?_, by decide +kernel, by decide +kernel⟩
  intro n h
  simp at h
  rcases h with rfl | rfl
  · exact ⟨withRegs (withStr base fun x => { x with counts := { loads := 1 } }) [(4, 1)], 4, 0, True, by decide +kernel, by simp; decide +kernel, by simp⟩
  · exact ⟨withRegs (withStr base fun x => { x with counts := { loads := 2 } }) [(4, 1)], 4, 0, False, by decide +kernel, by simp; decide +kernel, by simp⟩

/-! Fences, messages, undo windows, system registers. -/

/-- An access of the strand. -/
def access (op : AccOp) (segs : List Seg) : Access := { id := 5, sid := 0, core := 0, pc := 0x80002, asid := 1, vcn := 0, op := op, segs := segs }

/-- With these accesses in flight, and their counts. -/
def inFlight (s : State) (l : List Access) : State := { s with flight := l, nextId := 10 }

/-- A posted store to another chiplet holds FENCE.L4 and L5 and not L3; a far copy that is not done holds L5 alone. -/
theorem meets_FencesWaitForOlderAccesses :
    (∀ k ∈ [1, 2, 3], ∀ a ∈ (inFlight base [{ access .store [] with cls := [.pn] }]).flight, a.sid = 0 → a.stage.past = true ∨ (a.op.isLoad = false ∧ ∀ c ∈ a.cls, k < c.level))
    ∧ (∀ k ∈ [4, 5], ¬ ∀ a ∈ (inFlight base [{ access .store [] with cls := [.pn] }]).flight, a.sid = 0 → a.stage.past = true ∨ (a.op.isLoad = false ∧ ∀ c ∈ a.cls, k < c.level))
    ∧ (¬ ∀ e ∈ ({ base with engines := [{ id := 1, sid := 0, core := 0, pc := 0, asid := 1, vcn := 0, kind := .put, far := true }] } : State).engines, e.sid = 0 → e.far = true → e.farDone = true)
    ∧ base.cur.run = some 0 ∧ base.counts.zero = true
    ∧ ((withRegs base [(4, 0x100000000)]).reg 4).extractLsb' 32 16 ≠ base.fixWindow.cur.runStamp
    ∧ (∀ x ∈ (inFlight base [{ access .load [] with stage := .performed [] 0 }]).flight, x.sid = 0 → x.stage.past = true) := by decide +kernel

/-- A wake of the last record, a push to the last virtual cluster of the kernel, a spawn from the last line of the data area, a pop of a list with one item and of one that the quiescence report has reached. -/
theorem meets_MessagesToOtherClusters :
    (withStr base fun x => { x with counts := { stores := 1 } }).counts.stores ≠ 0
    ∧ (∃ (s : State) (a : Reg) (k : Kernel) (v : Nat), s.counts.stores = 0 ∧ v = (if a = 0 then s.vcn else bitsOf (s.reg a) 11 0) ∧ s.reaches v = true ∧ (s.entryAt s.pcn v).valid = true ∧ s.full false [s.classTo v] = false
        ∧ s.actingKernel = some k ∧ bitsOf (s.reg a) 29 16 < k.hdr.poolcap ∧ v = 3 ∧ bitsOf (s.reg a) 29 16 = 7)
    ∧ (∃ (s : State) (a : Reg) (k : Kernel) (v : Nat), s.counts.stores = 0 ∧ v = (if a = 0 then s.vcn else bitsOf (s.reg a) 11 0) ∧ s.kernelHere = some k ∧ k.hdr.wlcap ≠ 0 ∧ k.hdr.vcbase ≤ v ∧ v < k.hdr.vcbase + k.hdr.vccount
        ∧ (s.entryAt s.pcn v).valid = true ∧ s.cur.str.holding = true ∧ s.full false [s.classTo v] = false ∧ v = 3)
    ∧ (∃ (s : State) (a b : Reg) (k : Kernel) (ad v p off t : Nat) (bs : List Byte), s.counts.stores = 0 ∧ (s.reg a).toNat = ad ∧ ad < 2 ^ 56 ∧ ad % 64 = 0 ∧ s.xlate s.agent s.asid s.vcn s.pos .rd ad = .ok (.core v p off true)
        ∧ off < 0xC000 ∧ s.claims = [] ∧ s.readSegs [{ va := BitVec.ofNat 56 ad, loc := .core v p off true, n := 64 }] = .ok bs ∧ t = (if b = 0 then s.vcn else bitsOf (s.reg b) 11 0)
        ∧ s.kernelHere = some k ∧ k.hdr.vcbase ≤ t ∧ t < k.hdr.vcbase + k.hdr.vccount ∧ (dwordOf bs 0).getLsbD 0 = false ∧ (dwordOf bs 0).getLsbD 56 = false
        ∧ (dwordOf bs 0).getLsbD 61 = false ∧ (dwordOf bs 0).getLsbD 63 = false ∧ (s.entryAt s.pcn t).valid = true ∧ s.full false [s.classTo t] = false)
    ∧ (∃ (s : State) (a : Reg) (kid : Nat) (k : Kernel) (w : WorkList), s.cur.str.kernel = some kid ∧ s.kernelHere = some k ∧ k.hdr.wlcap ≠ 0 ∧ k.told.contains s.vcn = false ∧ w = k.list s.vcn (bitsOf (s.reg a) 3 0) ∧ 0 < w.count
        ∧ readErr s.mem s.lostDies none 8 (s.itemAddr k s.vcn (bitsOf (s.reg a) 3 0) w.head) 8 = none)
    ∧ (∃ (s : State) (kid : Nat) (k : Kernel), s.cur.str.kernel = some kid ∧ s.kernelHere = some k ∧ k.hdr.wlcap ≠ 0 ∧ k.told.contains s.vcn = true) := by
  refine ⟨by decide +kernel, ⟨withRegs base [(4, 0x70003)], 4, kernelOne, 3, by decide +kernel⟩, ⟨withRegs base [(4, 3)], 4, kernelOne, 3, by decide +kernel⟩, ?_,
    ⟨{ base with kernels := [(0, { kernelOne with lists := [(0, { count := 1 })] })] }, 0, 0, { kernelOne with lists := [(0, { count := 1 })] }, { count := 1 }, by decide +kernel⟩,
    ⟨{ base with kernels := [(0, { kernelOne with told := [0] })] }, 0, { kernelOne with told := [0] }, by decide +kernel⟩⟩
  exact ⟨withRegs base [(4, 0x1BFC0)], 4, 0, kernelOne, 0x1BFC0, 0, 0, 0xBFC0, 0, List.replicate 64 0, by decide +kernel, by decide +kernel, by decide +kernel, by decide +kernel, ok_is (by decide +kernel),
    by decide +kernel, by decide +kernel, ok_is (by decide +kernel), by decide +kernel⟩

/-- Every state of a window, and none. -/
theorem meets_WindowNumber :
    (∀ st ∈ [WinState.opened, .fixed, .sealed, .truncated, .none], (withStr base fun x => { x with window := { num := 1, st := st } }).cur.str.window.st = st)
    ∧ base.cur.str.serves = none ∧ base.counts.zero = true ∧ base.cur.run = some 0 := by decide +kernel

/-- A context that logs to the HBM page, whose first blocks were written under its key. -/
def logging : State := { bare with
  mem := { tables with blockKey := [(0x400, 7), (0x401, 7), (0x402, 7), (0x403, 7), (0x2000, 7), (0x2001, 7), (0x2002, 7), (0x2003, 7)] }
  ctxs := [(1, { ctxOne with log := { mode := 1, logsz := 30, base := 0x80000 } })] }

/-- A write of an entry of 96 bytes to the log's first chunk goes through, whatever the entry. -/
theorem logging_append (s : State) (hs : s = (logging.reserve 1 [(0, 128)]).getD logging) (x : List Byte) (hx : x.length = 80) :
    isOk (s.append 1 0 .mark 0 1 0 x) = true := by
  have hl : (entryImage .mark 0 1 (dstampOf 1 0 (s.dieTime (writerDie 0))) x).length = 96 := by simp [entryImage, toLe, hx]
  have hc : ¬ (((s.log 1).writer 0).chunk.isSome = true ∧ ((s.log 1).writer 0).fill + (entryImage .mark 0 1 (dstampOf 1 0 (s.dieTime (writerDie 0))) x).length ≤ chunkSize) := by
    subst hs; intro h; exact absurd h.1 (by decide +kernel)
  have hseg : (s.newChunk 1 0).xlateAll .device 1 0 0 .wr (pagePieces 2 0x80000 96) = .ok [{ va := 0x80000, loc := .hbm 0x10000 0, n := 96 }] := by subst hs; exact ok_is (by decide +kernel)
  have hat : ((s.newChunk 1 0).log 1).base.toNat + (((s.newChunk 1 0).log 1).writer 0 |>.chunk.getD 0) + ((s.newChunk 1 0).log 1 |>.writer 0).fill = 0x80000 := by subst hs; decide +kernel
  have hw : isOk ((s.newChunk 1 0).ringWrite 1 ((((s.newChunk 1 0).log 1).writer 0 |>.chunk.getD 0) + ((s.newChunk 1 0).log 1 |>.writer 0).fill) (entryImage .mark 0 1 (dstampOf 1 0 (s.dieTime (writerDie 0))) x)) = true := by
    unfold State.ringWrite
    rw [← Nat.add_assoc, hat, hl]
    simp only [hseg, List.all_cons, List.all_nil, Bool.and_self, if_true]
    have he : writeErr (s.newChunk 1 0).mem (s.newChunk 1 0).lostDies ((s.newChunk 1 0).homeKey (.hbm 0x10000 0)) 96 ((s.newChunk 1 0).homeFlat (.hbm 0x10000 0))
        (List.take 96 ((entryImage .mark 0 1 (dstampOf 1 0 (s.dieTime (writerDie 0))) x).map some)) = none := by
      refine writeErr_none 96 _ 96 _ (by simp [hl]) ?_
      subst hs
      intro c h1 h2
      have : ∀ k < 96, (((logging.reserve 1 [(0, 128)]).getD logging).newChunk 1 0).mem.bad.contains (errUnit (0x10000 + k)) = false
          ∧ (isHbm (0x10000 + k) = true → stackLost (((logging.reserve 1 [(0, 128)]).getD logging).newChunk 1 0).lostDies (0x10000 + k) = false
            ∧ keyMatches (((logging.reserve 1 [(0, 128)]).getD logging).newChunk 1 0).mem ((((logging.reserve 1 [(0, 128)]).getD logging).newChunk 1 0).homeKey (.hbm 0x10000 0)) (0x10000 + k) = true) := by decide +kernel
      have h1' : 0x10000 ≤ c := h1
      have h2' : c < 0x10000 + 96 := h2
      have := this (c - 0x10000) (by omega)
      rwa [show 0x10000 + (c - 0x10000) = c by omega] at this
    unfold State.writeSegs
    dsimp only
    rw [he]
    rfl
  unfold State.append
  simp only [if_neg hc]
  generalize (s.newChunk 1 0).ringWrite _ _ _ = e at hw ⊢
  cases e with
  | ok t => rfl
  | error t => simp [isOk] at hw

/-- A ring without room for 32 bytes, and one whose pages no context maps. -/
def fullRing : State := { logging with ctxs := [(1, { ctxOne with log := { mode := 1, logsz := 16, base := 0x80000, tail := 0x10000, used := 0x10000 } })] }
def lostRing : State := { logging with ctxs := [(1, { ctxOne with log := { mode := 1, logsz := 30, base := 0xB0000 } })] }

theorem meets_UndoWindows :
    (withStr base fun x => { x with counts := { pn := 1 } }).counts.zero = false ∧ (base.counts.zero = true ∧ base.cur.str.slot ≠ none)
    ∧ (bare.counts.zero = true ∧ bare.cur.str.slot = none ∧ (∀ d ∈ [(8 : Reg), 15], 8 ≤ d.toNat) ∧ (7 : Reg).toNat < 8)
    ∧ (bare.cur.run = some 0 ∧ bare.ctx? bare.asid = some ctxOne ∧ ctxOne.log.mode = 0)
    ∧ (logging.counts.zero = true ∧ logging.cur.str.slot = none ∧ (∃ c, logging.ctx? logging.asid = some c ∧ c.log.mode ≠ 0) ∧ ∃ s1, logging.reserve logging.asid [(logging.chipHere, 128)] = some s1
        ∧ ∀ x : List Byte, x.length = 80 → ∃ u, s1.append logging.asid logging.chipHere .mark (logging.vcn % 2 ^ 12 + logging.cur.str.recIdx * 2 ^ 12) 1 logging.ptime x = .ok u)
    ∧ ((∃ s1, bare.sealWindow none = .done s1) ∧ fullRing.sealWindow none = .full ∧ fullRing.counts.zero = true ∧ lostRing.counts.zero = true ∧ ∃ s1 x, lostRing.sealWindow none = .refused s1 x)
    ∧ (∀ st ∈ [WinState.opened, .fixed, .truncated], (withStr base fun x => { x with window := { num := 1, st := st } }).cur.str.window.st = st) ∧ (bare.log bare.asid).mode = 0
    ∧ ((withStr base fun x => { x with kernel := none }).cur.run = some 0 ∧ ((withStr base fun x => { x with kernel := none }).log 1).mode = 0 ∧ (withStr base fun x => { x with kernel := none }).cur.str.kernel = none ∧ base.cur.str.serves = none)
    ∧ ∃ (s : State) (q : Nat) (r : TraceSession), s.cur.run = some 0 ∧ (s.log s.asid).mode = 0 ∧ s.queueOf s.cur.str = some q ∧ (s.queue q).trace = some r ∧ (r.buffers.getD s.chipHere []).length < 64 := by
  refine ⟨by decide +kernel, by decide +kernel, by decide +kernel, by decide +kernel, ⟨by decide +kernel, by decide +kernel, ⟨_, rfl, by decide +kernel⟩, _, rfl, ?_⟩,
    ⟨⟨_, rfl⟩, rfl, by decide +kernel, by decide +kernel, _, _, rfl⟩, by decide +kernel, by decide +kernel, by decide +kernel,
    ⟨{ base with queues := [(0, { enable := true, asid := some 1, trace := some { asid := 1, ring := 0x80000, logsz := 12, wrap := false, imbal := false, status := 0 } })] }, 0,
      { asid := 1, ring := 0x80000, logsz := 12, wrap := false, imbal := false, status := 0 }, by decide +kernel⟩⟩
  intro x hx
  exact ⟨okD (α := State × Nat) _ (logging, 0), okD_eq (logging_append _ rfl x hx)⟩

/-- An unassigned number, the first and the last assigned ones, a VCN of the context and the one after its last. -/
theorem meets_SystemRegisters :
    (∀ n ∈ [(0x00FF : Nat), 0x0105, 0x01FF, 0x0211], csrOf n = none) ∧ (csrOf 0x0100 = some .undoctl ∧ csrOf 0x0103 = some .logtail ∧ csrOf 0x0104 = some .uwnext ∧ csrOf 0x0200 = some (.pmcfg 0) ∧ csrOf 0x0207 = some (.pmcfg 7)
      ∧ csrOf 0x0208 = some (.pmcnt 0) ∧ csrOf 0x020F = some (.pmcnt 7) ∧ csrOf 0x0210 = some .pmovf) ∧ bitsOf ((withRegs handling [(4, 0x0210)]).reg 4) 15 0 = 0x0210 ∧ handling.handler = true
    ∧ base.cur.run = some 0 ∧ base.ctx? base.asid = some ctxOne ∧ ctxOne.hasVcn 3 = true ∧ ctxOne.hasVcn 4 = false := by decide +kernel

/-! Accesses of a core. -/

theorem reached_of {s : State} {w : BitVec 2} {k : AKind} {need : Need} {b : Word} {disp : Int} {n ad : Nat} {l : Loc}
    (h : (0 ≤ (b.toNat : Int) + disp ∧ (b.toNat : Int) + disp < 2 ^ 56) ∧ (b.toNat : Int) + disp = ad ∧ s.classBusy w = false ∧ ad % n = 0
      ∧ okIs (s.xlate s.agent s.asid s.vcn s.pos need ad) l = true ∧ s.refuses s.pcn s.holdsSlot k n l = none ∧ sizeRefuses n l = false) :
    Reached s w k need b disp n ad l :=
  ⟨h.1, h.2.1, h.2.2.1, h.2.2.2.1, ok_is h.2.2.2.2.1, h.2.2.2.2.2.1, h.2.2.2.2.2.2⟩

/-- The checks in their order, with the last address below the first and the first one past the last: out of range, behind a class, misaligned, unmapped, refused, of a wrong size. -/
theorem meets_AccessChecks :
    ((withRegs base []).reg 4).toNat + (0xFFFF : BitVec 16).toInt < 0 ∧ (2 ^ 56 : Int) ≤ ((withRegs base [(4, 0xFFFFFFFFFFFFFF)]).reg 4).toNat + (1 : BitVec 16).toInt
    ∧ ((withStr base fun x => { x with counts := { cl := 1 } }).classBusy 1 = true ∧ base.classBusy 1 = false) ∧ 0xFFFFFFFFFFFFFF % 8 ≠ 0 ∧ 0xFFFFFFFFFFFFF8 % 8 = 0
    ∧ (∃ f, base.xlate base.agent base.asid base.vcn base.pos .rd 0xFFFFFFFFFFFFF8 = .error f)
    ∧ (∃ l, base.xlate base.agent base.asid base.vcn base.pos .rd 0x80000 = .ok l ∧ base.refuses base.pcn base.holdsSlot .load 8 l = some 0x02)
    ∧ ∃ l, base.xlate base.agent base.asid base.vcn base.pos .rd 0x60000 = .ok l ∧ base.refuses base.pcn base.holdsSlot .load 4 l = none ∧ sizeRefuses 4 l = true := by
  refine ⟨by decide +kernel, by decide +kernel, by decide +kernel, by decide +kernel, by decide +kernel, ⟨errD (base.xlate base.agent base.asid base.vcn base.pos .rd 0xFFFFFFFFFFFFF8) { cause := 0, sub := 0 }, errD_eq (by decide +kernel)⟩,
    ⟨.hbm 0x10000 0, ok_is (by decide +kernel), by decide +kernel⟩, ⟨.event 0 0, ok_is (by decide +kernel), by decide +kernel⟩⟩

/-- No entry, an unreadable table, a page that permits and one that does not. -/
theorem meets_AddressErrorsOfTranslation :
    (∃ f, base.xlate (.core 0) 1 0 0 .rd 0xB0000 = .error f)
    ∧ (base.ctx? 1 = some ctxOne ∧ ({ base with tlb := [] } : State).tlb = [] ∧ base.walks = [] ∧ ∃ x, ({ base with tlb := [] } : State).tableWord (ctxOne.ptroot + 8 * (0x0BFFFFFFFFFFFF / 2 ^ 48 % 256)) = some x ∧ x.getLsbD 0 = false)
    ∧ ({ base with tlb := [] } : State).tableWord (ctxOne.ptroot + 8 * (0xFFFFFFFFFFFFFF / 2 ^ 48 % 256)) = none
    ∧ (∃ p, base.page (.core 0) 1 ctxOne 0x1FFFF = .ok p ∧ permits p.leaf .at = true)
    ∧ (∃ p, base.page .device 1 ctxOne 0x1FFFF = .ok p ∧ permits p.leaf .at = true)
    ∧ ∃ s : State, ∃ p, s.page (.core 0) 1 ctxOne 0x10000 = .ok p ∧ permits p.leaf .wr = false ∧ permits p.leaf .rd = true := by
  refine ⟨⟨errD (base.xlate (.core 0) 1 0 0 .rd 0xB0000) { cause := 0, sub := 0 }, errD_eq (by decide +kernel)⟩, ⟨by decide +kernel, by decide +kernel, by decide +kernel, 0, by decide +kernel⟩, by decide +kernel,
    ⟨okD (base.page (.core 0) 1 ctxOne 0x1FFFF) { base := 0, size := 0, leaf := 0 }, okD_eq (by decide +kernel), by decide +kernel⟩,
    ⟨okD (base.page .device 1 ctxOne 0x1FFFF) { base := 0, size := 0, leaf := 0 }, okD_eq (by decide +kernel), by decide +kernel⟩,
    ⟨{ base with tlb := [{ page (.core 0) 1 0 0 with leaf := 0x07 }] }, { base := 0x10000, size := 0x10000, leaf := 0x07 }, ok_is (by decide +kernel), by decide +kernel⟩⟩

/-- The last double-word of the own data area, with 62 and 63 loads outstanding; the first of a slot; the window; both kinds of event unit register, with and without a grant. -/
theorem meets_LoadsIssue :
    (∃ s ad l, Reached s 0 .load .rd (s.reg 4) (0xFFF8 : BitVec 16).toInt 8 ad l ∧ Ordinary l 8 ∧ s.counts.loads = 62 ∧ l = .core 0 0 0xBFF8 true)
    ∧ (∃ s ad l, Reached s 0 .load .rd (s.reg 4) (0 : BitVec 16).toInt 16 ad l ∧ Ordinary l 16 ∧ s.counts.loads = 63)
    ∧ (∀ n ∈ [8, 16], ∃ s ad v p off bs, Reached s 0 .load .rd (s.reg 4) (0 : BitVec 16).toInt n ad (.core v p off true) ∧ (Loc.core v p off true).inSlots n = true
        ∧ s.slotBusy [{ va := BitVec.ofNat 56 ad, loc := .core v p off true, n := n }] = false ∧ s.readSegs [{ va := BitVec.ofNat 56 ad, loc := .core v p off true, n := n }] = .ok bs ∧ off = 0xC000)
    ∧ (∃ s ad off, Reached s 0 .load .rd (s.reg 4) (8 : BitVec 16).toInt 8 ad (.window off))
    ∧ (∃ s ad v off, Reached s 0 .load .rd (s.reg 4) (0 : BitVec 16).toInt 8 ad (.event v off) ∧ (evReg off).gates = true ∧ s.cur.str.grant = some (.value 1))
    ∧ (∃ s ad v off, Reached s 0 .load .rd (s.reg 4) (0 : BitVec 16).toInt 8 ad (.event v off) ∧ (evReg off).gates = true ∧ s.cur.str.grant = some (.error 2))
    ∧ (∃ s ad v off, Reached s 0 .load .rd (s.reg 4) (0 : BitVec 16).toInt 8 ad (.event v off) ∧ (evReg off).gates = true ∧ s.cur.str.grant = none ∧ s.counts.loads < 63 ∧ s.queuedAt v (s.cur.run.getD 0) (evReg off) = false)
    ∧ ∃ s ad v off, Reached s 0 .load .rd (s.reg 4) (0 : BitVec 16).toInt 8 ad (.event v off) ∧ (evReg off).gates = false ∧ s.counts.loads < 63 := by
  refine ⟨⟨withRegs (withStr base fun x => { x with counts := { loads := 62 } }) [(4, 0x1C000)], 0x1BFF8, .core 0 0 0xBFF8 true, reached_of (by decide +kernel), ⟨nofun, nofun, by decide +kernel⟩, by decide +kernel⟩,
    ⟨withRegs (withStr base fun x => { x with counts := { loads := 63 } }) [(4, 0x20000)], 0x20000, .core 1 0 0 false, reached_of (by decide +kernel), ⟨nofun, nofun, by decide +kernel⟩, by decide +kernel⟩, ?_,
    ⟨withRegs base [(4, 0x70000)], 0x70008, 8, reached_of (by decide +kernel)⟩,
    ⟨withRegs (withStr base fun x => { x with grant := some (.value 1) }) [(4, 0x60000)], 0x60000, 0, 0, reached_of (by decide +kernel), by decide +kernel⟩,
    ⟨withRegs (withStr base fun x => { x with grant := some (.error 2) }) [(4, 0x60000)], 0x60000, 0, 0, reached_of (by decide +kernel), by decide +kernel⟩,
    ⟨withRegs base [(4, 0x60000)], 0x60000, 0, 0, reached_of (by decide +kernel), by decide +kernel⟩, ⟨withRegs base [(4, 0x6FFF8)], 0x6FFF8, 0, 0xFFF8, reached_of (by decide +kernel), by decide +kernel⟩⟩
  intro n h
  simp at h
  rcases h with rfl | rfl
  · exact ⟨withRegs base [(4, 0x1C000)], 0x1C000, 0, 0, 0xC000, List.replicate 8 0, reached_of (by decide +kernel), by decide +kernel, by decide +kernel, ok_is (by decide +kernel), by decide +kernel⟩
  · exact ⟨withRegs base [(4, 0x1C000)], 0x1C000, 0, 0, 0xC000, List.replicate 16 0, reached_of (by decide +kernel), by decide +kernel, by decide +kernel, ok_is (by decide +kernel), by decide +kernel⟩

/-- A context that logs whose undo log has no room. -/
def fullLog : State := { base with ctxs := [(1, { ctxOne with log := { mode := 2, logsz := 16, base := 0x80000, used := 65536 } })] }

/-- A full count, a full log, a place for the store; the window; an event unit register; the first word of a slot. -/
theorem meets_StoresIssue :
    (∃ s ad l, Reached s 0 .store .wr (s.reg 4) (0 : BitVec 16).toInt 8 ad l ∧ Ordinary l 8 ∧ s.full false [s.classOf s.pcn s.vcn l] = true)
    ∧ (∃ s ad l, Reached s 0 .store .wr (s.reg 4) (0 : BitVec 16).toInt 8 ad l ∧ Ordinary l 8 ∧ s.full false [s.classOf s.pcn s.vcn l] = false
        ∧ s.reserve s.asid (s.segsReq (s.withParts [{ va := BitVec.ofNat 56 ad, loc := l, n := 8, data := (toLe 8 (s.reg 3).toNat).map some }])) = none)
    ∧ (∃ s ad l s1, Reached s 0 .store .wr (s.reg 4) (0 : BitVec 16).toInt 16 ad l ∧ Ordinary l 16 ∧ s.full false [s.classOf s.pcn s.vcn l] = false
        ∧ s.reserve s.asid (s.segsReq (s.withParts [{ va := BitVec.ofNat 56 ad, loc := l, n := 8, data := (toLe 8 (s.reg 3).toNat).map some },
          { va := BitVec.ofNat 56 ad + 8, loc := l.plus 8, n := 8, data := (toLe 8 (s.reg 5).toNat).map some }])) = some s1)
    ∧ (∃ s ad off, Reached s 0 .store .wr (s.reg 4) (0 : BitVec 16).toInt 8 ad (.window off))
    ∧ (∃ s ad v off, Reached s 0 .store .wr (s.reg 4) (0 : BitVec 16).toInt 8 ad (.event v off) ∧ s.full false [s.classOf s.pcn s.vcn (.event v off)] = false)
    ∧ ∃ s ad v p off f, s.mem.wf = true ∧ Reached s 0 .store .wr (s.reg 4) (0 : BitVec 16).toInt 8 ad (.core v p off true) ∧ (Loc.core v p off true).inSlots 8 = true
        ∧ s.slotBusy [{ va := BitVec.ofNat 56 ad, loc := .core v p off true, n := 8, data := (toLe 8 (s.reg 3).toNat).map some }] = false
        ∧ f = s.homeFlat (.core v p off true) ∧ s.homeKey (.core v p off true) = none ∧ s.mirrorOf f = none ∧ writeErr s.mem s.lostDies none 8 f ((toLe 8 (s.reg 3).toNat).map some) = none :=
  ⟨⟨withRegs (withStr base fun x => { x with counts := { stores := 63 } }) [(4, 0x10000)], 0x10000, .core 0 0 0 true, reached_of (by decide +kernel), ⟨nofun, nofun, by decide +kernel⟩, by decide +kernel⟩,
    ⟨withRegs fullLog [(4, 0x30000)], 0x30000, .cluster 0 0, reached_of (by decide +kernel), ⟨nofun, nofun, by decide +kernel⟩, by decide +kernel, by decide +kernel⟩,
    ⟨withRegs base [(4, 0x3FFF0)], 0x3FFF0, .cluster 0 0xFFF0, _, reached_of (by decide +kernel), ⟨nofun, nofun, by decide +kernel⟩, by decide +kernel, rfl⟩,
    ⟨withRegs base [(4, 0x70010)], 0x70010, 0x10, reached_of (by decide +kernel)⟩, ⟨withRegs base [(4, 0x60000)], 0x60000, 0, 0, reached_of (by decide +kernel), by decide +kernel⟩,
    ⟨withRegs base [(4, 0x1C000)], 0x1C000, 0, 0, 0xC000, base.homeFlat (.core 0 0 0xC000 true), by decide +kernel, reached_of (by decide +kernel), by decide +kernel, by decide +kernel, by decide +kernel⟩⟩

/-- A full count, a full log, and a place for the atomic; a WAITA with and without the pass latch; the targets that a WAITA refuses. -/
theorem meets_AtomicsIssue :
    (∃ s ad l, Reached s 0 .atomic .at (s.reg 4) (0 : BitVec 16).toInt 4 ad l ∧ s.full false [s.classOf s.pcn s.vcn l] = true)
    ∧ (∃ s ad l, Reached s 0 .atomic .at (s.reg 4) (0 : BitVec 16).toInt 4 ad l ∧ s.full false [s.classOf s.pcn s.vcn l] = false
        ∧ s.reserve s.asid (s.segsReq (s.withParts [{ va := BitVec.ofNat 56 ad, loc := l, n := 4, data := List.replicate 4 (some 0) }])) = none)
    ∧ (∃ s ad l s1, Reached s 0 .atomic .at (s.reg 4) (0 : BitVec 16).toInt 8 ad l ∧ s.full false [s.classOf s.pcn s.vcn l] = false
        ∧ s.reserve s.asid (s.segsReq (s.withParts [{ va := BitVec.ofNat 56 ad, loc := l, n := 8, data := List.replicate 8 (some 0) }])) = some s1)
    ∧ (∀ b ∈ [true, false], ∃ s ad l, Reached s 0 .load .rd (s.reg 4) (0 : BitVec 16).toInt 8 ad l ∧ Ordinary l 8 ∧ s.counts.loads < 63 ∧ s.cur.str.passLatch = b)
    ∧ (∀ e ∈ [((0x60000 : Nat), Loc.event 0 0), (0x70000, .window 0), (0x80000, .hbm 0x10000 0), (0x90000, .host 0), (0xA0000, .peer 0 0)],
        base.xlate base.agent base.asid base.vcn base.pos .rd e.1 = .ok e.2 ∧ (match e.2 with | .event .. | .window _ | .hbm .. | .host _ | .peer .. => true | _ => false) = true)
    ∧ base.xlate base.agent base.asid base.vcn base.pos .rd 0x1BFF8 = .ok (.core 0 0 0xBFF8 true) ∧ (Loc.core 0 0 0xBFF8 true).inSlots 8 = false
    ∧ base.xlate base.agent base.asid base.vcn base.pos .rd 0x1C000 = .ok (.core 0 0 0xC000 true) ∧ (Loc.core 0 0 0xC000 true).inSlots 8 = true := by
  refine ⟨⟨withRegs (withStr base fun x => { x with counts := { cl := 63, stores := 63 } }) [(4, 0x30000)], 0x30000, .cluster 0 0, reached_of (by decide +kernel), by decide +kernel⟩,
    ⟨withRegs fullLog [(4, 0x30000)], 0x30000, .cluster 0 0, reached_of (by decide +kernel), by decide +kernel, by decide +kernel⟩,
    ⟨withRegs base [(4, 0x3FFF8)], 0x3FFF8, .cluster 0 0xFFF8, _, reached_of (by decide +kernel), by decide +kernel, rfl⟩, ?_, ?_, ok_is (by decide +kernel), by decide +kernel, ok_is (by decide +kernel), by decide +kernel⟩
  · intro b _
    cases b
    · exact ⟨withRegs base [(4, 0x30000)], 0x30000, .cluster 0 0, reached_of (by decide +kernel), ⟨nofun, nofun, by decide +kernel⟩, by decide +kernel⟩
    · exact ⟨withRegs (withStr base fun x => { x with passLatch := true }) [(4, 0x30000)], 0x30000, .cluster 0 0, reached_of (by decide +kernel), ⟨nofun, nofun, by decide +kernel⟩, by decide +kernel⟩
  · intro e h
    simp at h
    rcases h with rfl | rfl | rfl | rfl | rfl <;> exact ⟨ok_is (by decide +kernel), rfl⟩

/-! Rows. -/

theorem some_of {α : Type} {o : Option α} (h : o.isSome = true) : ∃ u, o = some u := by
  cases o with
  | some x => exact ⟨x, rfl⟩
  | none => simp at h
theorem ok_of {ε α : Type} {e : Except ε α} (h : isOk e = true) : ∃ x, e = .ok x := by
  cases e with
  | ok x => exact ⟨x, rfl⟩
  | error x => simp [isOk] at h
theorem error_of {ε α : Type} {e : Except ε α} (h : isOk e = false) : ∃ x, e = .error x := by
  cases e with
  | ok x => simp [isOk] at h
  | error x => exact ⟨x, rfl⟩

/-- Room for one more row operation. -/
def seven : State := { base with cur := { base.cur with vq := List.replicate 7 { clocks := 4 } } }

theorem seven_ready : RowReady seven := ⟨by decide +kernel, by decide +kernel, 0, by decide +kernel⟩

theorem meets_RowArithmetic :
    RowReady seven ∧ (∀ f ∈ [Fmt.i32, .n32, .i16, .n16, .i8, .n8], f.isInt = true) ∧ (∀ f ∈ [Fmt.f32, .bf16, .f16], f.isFloat = true ∧ (fmtLayout f).isSome = true)
    ∧ (Fmt.i32.isSigned = true ∧ Fmt.n32.isSigned = false ∧ ∀ y, Instr.vabs false .n32 0 1 2 ≠ .vsgn y .n32 0 1 2 3) :=
  ⟨seven_ready, by decide +kernel, by decide +kernel, by decide +kernel, by decide +kernel, nofun⟩

theorem meets_RowBitsShiftsAndMoves : RowReady seven ∧ Fmt.i8.isInt = true ∧ Fmt.f32.rowOk = true ∧ Fmt.n8.rowOk = true ∧ Fmt.f16.isFloat = true ∧ fmtLayout .f16 = some fp16 := ⟨seven_ready, by decide +kernel⟩

/-- Sums, extremes and no active element; control words with a legal mode and with mode 5; float, block and scaled formats on either side. -/
theorem meets_RowComparesReductionsConversions :
    RowReady seven ∧ Fmt.n16.rowOk = true
    ∧ (∀ i ∈ [Instr.vrsum .i32 3 0 2, .vrmax .i32 3 0 2, .vrmin .i32 3 0 2], ∃ v : Int, ∃ es : List Int, seven.cur.vq.length < 8
        ∧ es = ((List.range (perRow Fmt.i32.bits)).filter fun n => (0 : Reg) = 0 ∨ (seven.reg 0).getLsbD (n * 64 / perRow Fmt.i32.bits) = true).map (fun n => elemInt .i32 (rowElem (seven.row 2) Fmt.i32.bits n))
        ∧ (i = .vrsum .i32 3 0 2 ∧ v = es.sum
          ∨ i = .vrmax .i32 3 0 2 ∧ (∀ e ∈ es, e ≤ v) ∧ (v ∈ es ∨ es = [] ∧ v = if Fmt.i32.isSigned then -(2 ^ (Fmt.i32.bits - 1)) else 0)
          ∨ i = .vrmin .i32 3 0 2 ∧ (∀ e ∈ es, v ≤ e) ∧ (v ∈ es ∨ es = [] ∧ v = if Fmt.i32.isSigned then 2 ^ (Fmt.i32.bits - 1) - 1 else 2 ^ Fmt.i32.bits - 1)))
    ∧ (∃ vs : List FVal, vs = ((List.range (perRow Fmt.f32.bits)).filter fun n => (6 : Reg) = 0 ∨ (seven.reg 6).getLsbD (n * 64 / perRow Fmt.f32.bits) = true).map (fun n => fp32.val (rowElem (seven.row 2) Fmt.f32.bits n)) ∧ vs = [])
    ∧ (∃ vs : List FVal, vs = ((List.range (perRow Fmt.f32.bits)).filter fun n => (0 : Reg) = 0 ∨ (seven.reg 0).getLsbD (n * 64 / perRow Fmt.f32.bits) = true).map (fun n => fp32.val (rowElem (seven.row 2) Fmt.f32.bits n)) ∧ vs ≠ [])
    ∧ fmtLayout .f32 = some fp32 ∧ rcwOf ((withRegs seven [(4, 5)]).reg 4) = none ∧ (rcwOf ((withRegs seven [(4, 4)]).reg 4)).isSome = true
    ∧ Fmt.f32.hasScale = false ∧ Fmt.e2m1s.hasScale = true ∧ (Fmt.b 6).hasScale = true ∧ 48 = 48 * (if max Fmt.f32.bits (Fmt.b 6).bits = 4 then 8 else perRow (max Fmt.f32.bits (Fmt.b 6).bits) / 48) ∧ 384 = 48 * (if max (Fmt.b 0).bits Fmt.e2m1s.bits = 4 then 8 else perRow (max (Fmt.b 0).bits Fmt.e2m1s.bits) / 48) := by
  refine ⟨seven_ready, by decide +kernel, ?_, ⟨_, rfl, by decide +kernel⟩, ⟨_, rfl, by decide +kernel⟩, by decide +kernel⟩
  intro i h
  simp at h
  rcases h with rfl | rfl | rfl <;> exact ⟨0, _, by decide +kernel, rfl, by decide +kernel⟩

/-- A free slot, two occupied ones with units free and with none, no slot and no bypass, a full queue. -/
theorem meets_FirstRowMakesTheRegistersLive :
    (bare.cur.vq.length < 8 ∧ bare.cur.str.slot = none ∧ bare.cur.freeSlot = some 0 ∧ rcwOf (bare.reg 4) ≠ none ∧ bare.mem.wf = true)
    ∧ ({ bare with cur := { bare.cur with slot0 := some 5, slot1 := some 6 } } : State).cur.freeSlot = none ∧ bare.cur.bypass.lookup 3 = none
    ∧ 8 ≤ ({ base with cur := { base.cur with vq := List.replicate 8 { clocks := 4 } } } : State).cur.vq.length := by decide +kernel

def stridedWords (s : State) : List (Nat × Int) := (List.range 32).map fun (j : Nat) => (j, (s.reg 4).toNat + (0 : BitVec 16).toInt + j * (s.reg 5).toInt)
def stridedRanges (s : State) : Except Fail (List (Nat × List Seg)) :=
  s.checkRanges .load .rd (fun _ => true) 8 8 (if (s.reg 5).toInt < 0 then (stridedWords s).reverse else stridedWords s) 256

theorem base_ready : RowReady base := ⟨by decide +kernel, by decide +kernel, 0, by decide +kernel⟩

/-- The row of v2 under no mask, and the pieces of a store of it. -/
def bytesOut (s : State) : List (Option Byte) := (List.range 256).map fun n => if (0 : Reg) = 0 ∨ (s.reg 0).getLsbD (n / 4) = true then some (BitVec.ofNat 8 ((s.row 2).toNat / 2 ^ (8 * n))) else none
def rowIn (s : State) : Except Fail (List Seg) := s.checkRange .load .rd (fun _ => true) ((s.reg 4).toNat + (0 : BitVec 16).toInt) 256 8
def rowOut (s : State) : Except Fail (List Seg) := s.checkRange .store .wr (fun _ => true) ((s.reg 4).toNat + (0 : BitVec 16).toInt) 256 8

/-- Whole rows at the end of the data area, across the start of the slot and at it, across no page; strides of both signs; elements of a gather at the base of a page; what each waits for or is refused for. -/
theorem meets_RowMemory :
    (withStr base fun x => { x with counts := { pn := 1 } }).classBusy 3 = true
    ∧ (∃ (s : State) (ad : Nat) (l : Loc), ad % 8 = 0 ∧ ad % 2 ^ 16 + 256 ≤ 2 ^ 16 ∧ ad + 256 ≤ 2 ^ 56 ∧ State.xlate s s.agent s.asid s.vcn s.pos .rd ad = .ok l ∧ s.refuses s.pcn s.holdsSlot .load 256 l = none ∧ sizeRefuses 256 l = false ∧ ad = 0x3FF00)
    ∧ (∃ e, base.checkRange .load .rd (fun _ => true) ((base.reg 4).toNat + (0xFFF8 : BitVec 16).toInt) 256 8 = .error e)
    ∧ (∃ e, (withRegs base [(4, 0x80000)]).checkRange .store .wr (fun _ => true) (((withRegs base [(4, 0x80000)]).reg 4).toNat + (0 : BitVec 16).toInt) 256 8 = .error e)
    ∧ ((withRegs base [(5, 4)]).reg 5).toInt % 8 ≠ 0
    ∧ (∃ e, (withRegs base [(4, 0x60000)]).checkRanges .load .rd gatherTarget (Fmt.n32.bits / 8) (Fmt.n32.bits / 8) ((withRegs base [(4, 0x60000)]).elemAddrs .n32 4 0 2 0) = .error e)
    ∧ (∃ (s : State) (segs : List Seg), s.classBusy 0 = false ∧ RowReady s ∧ rowIn s = .ok segs ∧ s.cur.vq ≠ [])
    ∧ (∃ (s : State) (segs : List Seg), s.classBusy 0 = false ∧ RowReady s ∧ rowIn s = .ok segs ∧ s.cur.vq = [] ∧ s.slotBusy segs = false ∧ segs ≠ [] ∧ (∀ g ∈ segs, g.loc.inSlots g.n = false) ∧ s.counts.loads < 63)
    ∧ (∃ (s : State) (segs : List Seg), s.classBusy 0 = false ∧ RowReady s ∧ rowIn s = .ok segs ∧ s.cur.vq = [] ∧ s.slotBusy segs = false ∧ s.counts.loads < 63 ∧ ((segs.flatMap Seg.atSlots).all fun g => g.loc.inSlots g.n) = false
        ∧ (segs.any fun g => g.loc.inSlots g.n) = true ∧ ∃ bs, s.readSegs ((segs.flatMap Seg.atSlots).filter fun g => g.loc.inSlots g.n) = .ok bs)
    ∧ (∃ (s : State) (segs : List Seg) (bs : List Byte), RowReady s ∧ rowIn s = .ok segs ∧ s.cur.vq = [] ∧ s.slotBusy segs = false ∧ ((segs.flatMap Seg.atSlots).all fun g => g.loc.inSlots g.n) = true ∧ s.readSegs segs = .ok bs)
    ∧ (∀ stride ∈ [(8 : Word), -8], ∃ (s : State) (ps : List (Nat × List Seg)) (words : List (Nat × Int)), RowReady s ∧ s.reg 5 = stride ∧ (s.reg 5).toInt % 8 = 0
        ∧ words = ((List.range 32).map fun (j : Nat) => (j, (s.reg 4).toNat + (0 : BitVec 16).toInt + j * (s.reg 5).toInt))
        ∧ s.checkRanges .load .rd (fun _ => true) 8 8 (if (s.reg 5).toInt < 0 then words.reverse else words) 256 = .ok ps
        ∧ (∀ g ∈ inOrder 32 ps, g.loc.inSlots g.n = false) ∧ inOrder 32 ps ≠ [] ∧ s.cur.vq = [] ∧ s.slotBusy (inOrder 32 ps) = false)
    ∧ (∃ (s : State) (segs : List Seg) (gs : List Seg), rowOut s = .ok segs ∧ segs ≠ [] ∧ (∀ g ∈ segs, g.loc.inSlots g.n = false) ∧ gs = s.withParts (withData segs (bytesOut s)) ∧ s.cur.vq = [] ∧ s.slotBusy gs = false
        ∧ s.full false (s.classes segs) = false ∧ (s.reserve s.asid (s.segsReq gs)).isSome = true)
    ∧ (∃ (s : State) (segs gs out : List Seg), rowOut s = .ok segs ∧ ((segs.flatMap Seg.atSlots).all fun g => g.loc.inSlots g.n) = false ∧ (segs.any fun g => g.loc.inSlots g.n) = true ∧ gs = withData segs (bytesOut s)
        ∧ out = s.withParts ((gs.flatMap Seg.atSlots).filter fun g => !g.loc.inSlots g.n) ∧ s.cur.vq = [] ∧ s.slotBusy gs = false ∧ s.full false (s.classes out) = false ∧ (s.reserve s.asid (s.segsReq out)).isSome = true)
    ∧ (∃ (s : State) (segs : List Seg), s.classBusy 0 = false ∧ rowOut s = .ok segs ∧ s.cur.vq ≠ [])
    ∧ (∃ (s : State) (g : Seg) (p : Nat), s.mem.wf = true ∧ rowOut s = .ok [g] ∧ g.n = 256 ∧ (g.atSlots.all fun h => h.loc.inSlots h.n) = true ∧ s.cur.vq = [] ∧ s.slotBusy [g] = false ∧ p = s.homeFlat g.loc ∧ s.mirrorOf p = none
        ∧ writeErr s.mem s.lostDies (s.homeKey g.loc) 256 p (bytesOut s) = none)
    ∧ (∃ (s : State) (ps : List (Nat × List Seg)), RowReady s ∧ s.checkRanges .load .rd gatherTarget (Fmt.n32.bits / 8) (Fmt.n32.bits / 8) (s.elemAddrs .n32 4 0 2 0) = .ok ps ∧ (ps.flatMap fun p => p.2) ≠ []
        ∧ (∀ g ∈ ps.flatMap fun p => p.2, g.loc.inSlots g.n = false) ∧ s.cur.vq = [] ∧ s.slotBusy (ps.flatMap fun p => p.2) = false)
    ∧ (∃ (s : State) (ps : List (Nat × List Seg)) (gs : List Seg), s.checkRanges .store .wr gatherTarget (Fmt.n32.bits / 8) (Fmt.n32.bits / 8) (s.elemAddrs .n32 4 0 2 0) = .ok ps
        ∧ gs = ps.flatMap (fun p => p.2.map fun g => let h := { g with data := (toLe (Fmt.n32.bits / 8) (rowElem (s.row 3) Fmt.n32.bits p.1)).map some }; { h with parts := s.scatPart h })
        ∧ gs ≠ [] ∧ (∀ g ∈ gs, g.loc.inSlots g.n = false) ∧ s.cur.vq = [] ∧ s.slotBusy gs = false ∧ s.full false (s.classes gs) = false ∧ (s.reserve s.asid (s.segsReq gs)).isSome = true) := by
  refine ⟨by decide +kernel, ⟨base, 0x3FF00, .cluster 0 0xFF00, by decide +kernel, by decide +kernel, by decide +kernel, ok_is (by decide +kernel), ?_⟩, error_of (by decide +kernel), error_of (by decide +kernel), by decide +kernel,
    error_of (by decide +kernel),
    ⟨withRegs seven [(4, 0x1BF00)], okD (rowIn (withRegs seven [(4, 0x1BF00)])) [], by decide +kernel, ⟨by decide +kernel, by decide +kernel, 0, by decide +kernel⟩, okD_eq (by decide +kernel), by decide +kernel⟩,
    ⟨withRegs base [(4, 0x1BF00)], okD (rowIn (withRegs base [(4, 0x1BF00)])) [], by decide +kernel, ⟨by decide +kernel, by decide +kernel, 0, by decide +kernel⟩, okD_eq (by decide +kernel), by decide +kernel⟩,
    ⟨withRegs base [(4, 0x1BF08)], okD (rowIn (withRegs base [(4, 0x1BF08)])) [], by decide +kernel, ⟨by decide +kernel, by decide +kernel, 0, by decide +kernel⟩, okD_eq (by decide +kernel), by decide +kernel, by decide +kernel, by decide +kernel,
      by decide +kernel, by decide +kernel, ok_of (by decide +kernel)⟩,
    ⟨withRegs base [(4, 0x1C000)], [{ va := 0x1C000, loc := .core 0 0 0xC000 true, n := 256 }], List.replicate 256 0, ⟨by decide +kernel, by decide +kernel, 0, by decide +kernel⟩, ok_is (by decide +kernel), by decide +kernel, by decide +kernel, by decide +kernel, ok_is (by decide +kernel)⟩, ?_,
    ⟨withRegs base [(4, 0x3FF00)], [{ va := 0x3FF00, loc := .cluster 0 0xFF00, n := 256 }], _, ok_is (by decide +kernel), by decide +kernel, by decide +kernel, rfl, by decide +kernel⟩,
    ⟨withRegs base [(4, 0x1BF08)], okD (rowOut (withRegs base [(4, 0x1BF08)])) [], _, _, okD_eq (by decide +kernel), by decide +kernel, by decide +kernel, rfl, rfl, by decide +kernel⟩,
    ⟨withRegs seven [(4, 0x3FF00)], [{ va := 0x3FF00, loc := .cluster 0 0xFF00, n := 256 }], by decide +kernel, ok_is (by decide +kernel), by decide +kernel⟩,
    ⟨withRegs base [(4, 0x1C000)], { va := 0x1C000, loc := .core 0 0 0xC000 true, n := 256 }, _, by decide +kernel, ok_is (by decide +kernel), by decide +kernel, by decide +kernel, by decide +kernel, by decide +kernel, rfl, by decide +kernel⟩,
    ⟨withRegs base [(4, 0x30000)], okD ((withRegs base [(4, 0x30000)]).checkRanges .load .rd gatherTarget 4 4 ((withRegs base [(4, 0x30000)]).elemAddrs .n32 4 0 2 0)) [], ⟨by decide +kernel, by decide +kernel, 0, by decide +kernel⟩, okD_eq (by decide +kernel), by decide +kernel⟩,
    ⟨withRegs base [(4, 0x30000)], okD ((withRegs base [(4, 0x30000)]).checkRanges .store .wr gatherTarget 4 4 ((withRegs base [(4, 0x30000)]).elemAddrs .n32 4 0 2 0)) [], _, okD_eq (by decide +kernel), rfl, by decide +kernel⟩⟩
  · decide +kernel
  · intro stride h
    simp at h
    rcases h with rfl | rfl
    · exact ⟨withRegs base [(4, 0x30000), (5, 8)], okD (stridedRanges (withRegs base [(4, 0x30000), (5, 8)])) [], stridedWords (withRegs base [(4, 0x30000), (5, 8)]),
        ⟨by decide +kernel, by decide +kernel, 0, by decide +kernel⟩, by decide +kernel, by decide +kernel, rfl, okD_eq (e := stridedRanges (withRegs base [(4, 0x30000), (5, 8)])) (by decide +kernel), by decide +kernel⟩
    · exact ⟨withRegs base [(4, 0x3FFF8), (5, -8)], okD (stridedRanges (withRegs base [(4, 0x3FFF8), (5, -8)])) [], stridedWords (withRegs base [(4, 0x3FFF8), (5, -8)]),
        ⟨by decide +kernel, by decide +kernel, 0, by decide +kernel⟩, by decide +kernel, by decide +kernel, rfl, okD_eq (e := stridedRanges (withRegs base [(4, 0x3FFF8), (5, -8)])) (by decide +kernel), by decide +kernel⟩
/-! Tiles and engines. -/

/-- The memory that holds byte lists at rising addresses. -/
def memOf (l : List (Nat × List Byte)) : Memory := { cells := l.flatMap fun e => (e.2.zipIdx.filter fun p => p.1 != 0).map fun p => (e.1 + p.2, p.1) }

/-- A tile descriptor (R63) and a shape record of one dimension of 4-byte elements (R174). -/
def descBytes (base fmt rows cols rowstride : Nat) : List Byte := toLe 8 base ++ toLe 4 fmt ++ toLe 4 rows ++ toLe 4 cols ++ toLe 4 0 ++ toLe 8 rowstride ++ List.replicate 32 0
def shapeBytes (base ext : Nat) : List Byte := toLe 8 base ++ [1, 2, 0, 0, 0, 0, 0, 0] ++ List.replicate 48 0 ++ toLe 4 ext ++ toLe 8 4 ++ List.replicate 180 0

/-- Descriptors in VCN 0's cluster scratchpad: at 0x30000 and 0x30040 f32 tiles of 2 by 4, the first in the cluster, the second in the own core; at 0x30080 a third in the own core; shape records at 0x30100 and 0x30200. -/
def tiling : State := { base with mem := { tables with cells := tables.cells ++ (memOf [(2 ^ 45, descBytes 0x31000 1 2 4 16), (2 ^ 45 + 0x40, descBytes 0x10000 1 2 4 16), (2 ^ 45 + 0x80, descBytes 0x10100 1 2 4 16),
  (2 ^ 45 + 0x100, shapeBytes 0x31000 4), (2 ^ 45 + 0x200, shapeBytes 0x32000 4)]).cells } }

def descD : Desc := { base := 0x31000, fmt := .f32, rows := 2, cols := 4, rowstride := 16 }
def descA : Desc := { descD with base := 0x10000 }
def descB : Desc := { descD with base := 0x10100 }

/-- Every kind of control word: f32 to bf16, f32 to f32, both axes of a reduction, one with a reserved bit and one with mode 5. -/
theorem meets_TileInstructionsAtLevelZero :
    RowReady seven ∧ seven.classBusy 1 = false
    ∧ (ctlWord 0x20104 true).map (fun k => (k.sfmt, k.dfmt)) = some (.f32, .bf16) ∧ (ctlWord 0x10100 false).map (fun k => (k.sfmt == k.dfmt, k.op, k.axis, redFmt k.dfmt)) = some (true, 0, false, true)
    ∧ (ctlWord 0x6010100 false).map (fun k => (k.op, k.axis, decide (perRow k.sfmt.bits ≤ 4 * perRow k.dfmt.bits))) = some (2, true, true)
    ∧ (2 = min 8 (min (perRow Fmt.f16.bits / 48) (perRow Fmt.bf16.bits / 48)) ∧ 8 = min 8 (min (perRow (Fmt.b 0).bits / 48) (perRow (Fmt.b 2).bits / 48)))
    ∧ ctlWord 0x10105 true = none ∧ (0x10110 : Word) &&& 0xF8E0E0F0#64 ≠ 0 ∧ ((withRegs seven [(6, 0x20104)]).reg 6 = 0x20104 ∧ RowReady (withRegs seven [(6, 0x20104)]))
    ∧ (withStr base fun x => { x with counts := { cl := 1 } }).classBusy 1 = true :=
  ⟨seven_ready, by decide +kernel, by decide +kernel, by decide +kernel, by decide +kernel, by decide +kernel, by decide +kernel, by decide +kernel, ⟨by decide +kernel, by decide +kernel, by decide +kernel, 0, by decide +kernel⟩, by decide +kernel⟩

def argsMov : TileArgs := { kind := .mov, level := 1, d := 3, a := 4 }
def argsBaq : TileArgs := { kind := .baq, level := 5, d := 3, a := 4, b := 5, c := 0 }
def movHere : State := withRegs tiling [(3, 0x30040), (4, 0x30080)]
def baqHere : State := withRegs tiling [(3, 0x30000), (4, 0x30040), (5, 0x30080)]

theorem mov_admitted : TileAdmitted movHere 0 argsMov descA (some descB) none none [] 0 0 (movHere.tileRoot argsMov descA (some descB) none none [] 0 0) where
  wait := by decide +kernel
  stores := by decide +kernel
  room := by decide +kernel
  value := by decide +kernel
  addrs := by decide +kernel
  descD := ok_is (by decide +kernel)
  descA := ok_is (by decide +kernel)
  descB := ok_is (by decide +kernel)
  descC := ok_is (by decide +kernel)
  peers := by intro h; exact absurd h (by decide)
  fmts := by decide +kernel
  residual := by intro h; exact absurd h (by decide)
  record := ok_is (by decide +kernel)
  dims := by decide +kernel
  root := rfl
  targets := by decide +kernel
  staging := by intro h; exact absurd h (by decide)
  claims := by decide +kernel
  ring := ⟨_, rfl, fun h => absurd h (by decide)⟩
  mask := ok_of (by decide +kernel)

theorem baq_admitted : TileAdmitted baqHere 0 argsBaq descD (some descA) (some descB) none [] 0 0 (baqHere.tileRoot argsBaq descD (some descA) (some descB) none [] 0 0) where
  wait := by decide +kernel
  stores := by decide +kernel
  room := by decide +kernel
  value := by decide +kernel
  addrs := by decide +kernel
  descD := ok_is (by decide +kernel)
  descA := ok_is (by decide +kernel)
  descB := ok_is (by decide +kernel)
  descC := ok_is (by decide +kernel)
  peers := fun _ => ⟨ctxOne, by decide +kernel⟩
  fmts := by decide +kernel
  residual := by intro _ _ x h; cases h; decide +kernel
  record := ok_is (by decide +kernel)
  dims := by decide +kernel
  root := rfl
  targets := by decide +kernel
  staging := fun _ => ⟨ctxOne, by decide +kernel, by decide +kernel, fun _ => by decide +kernel⟩
  claims := by decide +kernel
  ring := ⟨_, rfl, fun _ => ⟨_, rfl⟩⟩
  mask := ok_of (by decide +kernel)

/-- TMOV at L1 and TBAQ at L5 with a residual are admitted; the counts at and below their limit; a control word, an address and a descriptor address that are refused. -/
theorem meets_TileInstructionsIssue :
    (∃ r, TileAdmitted movHere 0 argsMov descA (some descB) none none [] 0 0 r) ∧ (∃ r, TileAdmitted baqHere 0 argsBaq descD (some descA) (some descB) none [] 0 0 r)
    ∧ (63 ≤ (withStr base fun x => { x with counts := { tiles := 63 } }).counts.tiles) ∧ argsBaq.badValue ((withRegs base [(0, 5)]).reg 0) = false ∧ argsBaq.badValue 5 = true
    ∧ (∃ x ∈ argsMov.addrRegs, 2 ^ 56 ≤ ((withRegs base [(3, 0x0100000000000000)]).reg x).toNat) ∧ ((withRegs base [(3, 0x30020)]).reg argsMov.d).toNat % 64 ≠ 0 ∧ (withRegs base [(3, 0x30020)]).classBusy 0 = false :=
  ⟨⟨_, mov_admitted⟩, ⟨_, baq_admitted⟩, by decide +kernel⟩

/-- The source page of a GET and the destination page of a PUT, with the plans that R364 and R386 give. -/
def getHere : State := withRegs tiling [(3, 0x1BFC0), (4, 0x8FFC0), (5, 64)]
/-- The panel with port 0 up and peer 0 reached through it. -/
def linked (s : State) : State := { s with peers := [(0, { remote := 5, ports := 1, asid := 1 })], ports := [(0, { enable := true, st := 2, width := 64 })] }
def putHere : State := withRegs (linked tiling) [(3, 0xAFFC0), (4, 0x1BFC0), (5, 64)]
def getPlan : Plan := (copyPieces (2 * ((getHere.reg 5).toNat / 2 ^ 16) + 4) (getHere.reg 4).toNat (getHere.reg 3).toNat (getHere.reg 5).toNat).foldl (getHere.plan .outside .scratch true [] none) {}
def putPeer : Option Nat := (copyPieces (2 * ((putHere.reg 5).toNat / 2 ^ 16) + 4) (putHere.reg 4).toNat (putHere.reg 3).toNat (putHere.reg 5).toNat).findSome? fun x => x.dst.bind putHere.peerNamed
def putPlan : Plan := (copyPieces (2 * ((putHere.reg 5).toNat / 2 ^ 16) + 4) (putHere.reg 4).toNat (putHere.reg 3).toNat (putHere.reg 5).toNat).foldl (putHere.plan .scratch .outside true [] putPeer) {}
def copyHere : State := withRegs tiling [(4, 0x30100), (5, 0x30200), (10, 1)]
def shapes : Shape × Shape := okD (copyHere.twoShapes (copyHere.reg 4).toNat (copyHere.reg 5).toNat none) (default_shape, default_shape)
  where default_shape : Shape := { base := 0, esize := 1, clip := [], fill := [], ext := [], stride := [] }
def copyPlan : Plan := ((allIdx shapes.1.ext).map fun j => ({ src := if shapes.1.outside j then none else some (shapes.1.addr j), dst := if shapes.2.outside j then none else some (shapes.2.addr j), n := shapes.1.esize, al := shapes.1.esize } : Want)).foldl
  (copyHere.plan .panel .panel false shapes.1.fill none) {}

theorem shapes_read : copyHere.twoShapes (copyHere.reg 4).toNat (copyHere.reg 5).toNat none = .ok (shapes.1, shapes.2) := ok_is (by decide +kernel)

theorem get_ready : EngineReady getHere 0 getPlan (getHere.reg 0) none [] false where
  wait := by decide +kernel
  stores := by decide +kernel
  copies := by decide +kernel
  slots := by decide +kernel
  arrival := by decide +kernel
  claims := by decide +kernel
  ring := ⟨_, rfl, nofun⟩

theorem put_ready : EngineReady putHere 0 putPlan (putHere.reg 0) putPeer [] putPlan.far where
  wait := by decide +kernel
  stores := by decide +kernel
  copies := by decide +kernel
  slots := by decide +kernel
  arrival := by decide +kernel
  claims := by decide +kernel
  ring := ⟨_, rfl, fun _ => ⟨_, rfl⟩⟩

theorem copy_ready : EngineReady copyHere 0 copyPlan (copyHere.reg 0) none [] false where
  wait := by decide +kernel
  stores := by decide +kernel
  copies := by decide +kernel
  slots := by decide +kernel
  arrival := by decide +kernel
  claims := by decide +kernel
  ring := ⟨_, rfl, nofun⟩

/-- Each range limit and one past it; a GET, a PUT to a peer, a tensor copy with and without adding, an ARMW, and the operands at which each traps. -/
theorem meets_EngineInstructionsIssue :
    (withStr base fun x => { x with counts := { stores := 1 } }).counts.stores ≠ 0
    ∧ (2 ^ 56 < ((withRegs base [(4, 0xFFFFFFFFFFFFFF), (5, 2)]).reg 4).toNat + ((withRegs base [(4, 0xFFFFFFFFFFFFFF), (5, 2)]).reg 5).toNat ∧ 2 ^ 32 ≤ (0x100000000 : Word).toNat ∧ 2 ^ 57 ≤ (0x0200000000000000 : Word).toNat)
    ∧ (base.reg 5 = 0 ∧ (base.reg 4).toNat < 2 ^ 56 ∧ (base.reg 6).toNat < 2 ^ 57)
    ∧ (∃ p arrs, EngineReady getHere 0 p (getHere.reg 0) none arrs false ∧ getHere.reg 5 ≠ 0 ∧ (getHere.reg 5).toNat < 2 ^ 32 ∧ p = getPlan
        ∧ (getHere.engines.filter fun e => e.core == getHere.focus && (match e.kind with | .get | .put => true | _ => false)).length < 16 ∧ p.moves ≠ [])
    ∧ (∃ p arrs peer, EngineReady putHere 0 p (putHere.reg 0) peer arrs p.far ∧ p.far = true ∧ peer = some 0 ∧ p = putPlan ∧ p.moves ≠ [])
    ∧ (∃ (n : Nat) (la ld : Loc), n = 64 ∧ n ≤ 2 ^ 16 ∧ 0x8FFC0 % 2 ^ 16 + n ≤ 2 ^ 16 ∧ getHere.engPlace .outside .rd 0x8FFC0 64 1 = .ok la ∧ getHere.engPlace .scratch .wr 0x1BFC0 64 1 = .ok ld)
    ∧ (∃ p arrs x y, EngineReady copyHere 0 p (copyHere.reg 0) none arrs false ∧ copyHere.twoShapes (copyHere.reg 4).toNat (copyHere.reg 5).toNat none = .ok (x, y) ∧ p = copyPlan ∧ p.moves.length = 4)
    ∧ ((copyHere.reg 10).toNat < 32 ∧ fmtOf (BitVec.ofNat 5 (copyHere.reg 10).toNat) = some .f32 ∧ addFmtOk .f32 = true ∧ ∃ x, copyHere.twoShapes (copyHere.reg 4).toNat (copyHere.reg 5).toNat (some .f32) = .ok x)
    ∧ 32 ≤ ((withRegs base [(10, 32)]).reg 10).toNat
    ∧ (∃ (s : State) (ph key : Nat), s.counts.copies < 63 ∧ s.classBusy 0 = false ∧ s.counts.stores = 0 ∧ (s.reg 4).toNat % aBytes (armwWidth .fadd32) = 0 ∧ s.xlate (.chiplet s.chipHere) s.asid s.vcn s.pos .at (s.reg 4).toNat = .ok (.hbm ph key) ∧ s.homeKey (.hbm ph key) ≠ none
        ∧ s.claimsWait (s.claimsFor s.nextId false [(false, .hbm ph key, 4), (true, .hbm ph key, 4)]) [(false, .hbm ph key, 4), (true, .hbm ph key, 4)] = false
        ∧ ∃ u, s.reserve s.asid (s.segsReq [{ va := BitVec.ofNat 56 (s.reg 4).toNat, loc := .hbm ph key, n := 4, parts := if 1 ≤ (s.log s.asid).mode then [partAt { va := BitVec.ofNat 56 (s.reg 4).toNat, loc := .hbm ph key, n := 4 } ph (ph / 64 * 64) 64] else [] }]) = some u)
    ∧ ((withRegs base [(4, 0x80004)]).reg 4).toNat % aBytes (armwWidth .add) ≠ 0 := by
  refine ⟨by decide +kernel, by decide +kernel, by decide +kernel, ⟨getPlan, [], get_ready, by decide +kernel, by decide +kernel, rfl, by decide +kernel, by decide +kernel⟩, ⟨putPlan, [], putPeer, put_ready, by decide +kernel, by decide +kernel, rfl, by decide +kernel⟩,
    ⟨64, .hbm 0x1FFC0 0, .core 0 0 0xBFC0 true, rfl, by decide +kernel, by decide +kernel, ok_is (by decide +kernel), ok_is (by decide +kernel)⟩,
    ⟨copyPlan, [], shapes.1, shapes.2, copy_ready, shapes_read, rfl, by decide +kernel⟩, ⟨by decide +kernel, by decide +kernel, by decide +kernel, ok_of (by decide +kernel)⟩, by decide +kernel,
    ⟨withRegs base [(4, 0x8FFFC)], 0x1FFFC, 0, by decide +kernel, by decide +kernel, by decide +kernel, by decide +kernel, ok_is (by decide +kernel), by decide +kernel, by decide +kernel, some_of (by decide +kernel)⟩, by decide +kernel⟩

/-! What engines and the memory side do. -/

/-- A GET of 64 bytes from HBM to the own core's scratchpad, not moved; with its data moved; with an arrival on a counter in cluster scratchpad; performed whole, without and with a sub-fault. -/
def engOne : EngOp := { id := 9, sid := 0, core := 0, pc := 0x80000, asid := 1, vcn := 0, kind := .get, bytes := 64, arrived := true, moves := [{ sva := 0x80000, src := some (.hbm 0x10000 0), dst := { va := 0x10000, loc := .core 0 0 0 true, n := 64 } }] }
/-- The words of an HBM line at 0x10000 stand under VCN 0's key. -/
def filled (s : State) : State := { s with mem := s.mem.store (some 7) 0x10000 ((List.replicate 64 (0xA5 : Byte)).map some) }
def atEngine (f : EngOp → EngOp) : State := { filled (linked base) with engines := [f engOne], nextId := 10, claims := [{ owner := 9, write := true, bank := 0, lo := 0, hi := 63 }, { owner := 8, write := true, bank := 0, lo := 64, hi := 127 }] }
def counter : Seg := { va := 0x30000, loc := .cluster 0 0, n := 16 }
def tallied (c : Word) (n : Nat) : State := { (atEngine fun e => { e with moved := true, arrived := false, arr := some (c, { counter with n := n }) }) with claims := [] }

/-- A copy that has not moved; one that has; the two forms of arrival; the counter at its limit and at its threshold; completion with no fault, with one and with a shape error. -/
theorem meets_EngineOperationsMoveArriveAndComplete :
    (∃ (s : State) (m : EMove) (l : Loc), s = atEngine id ∧ s.engine? 9 = some engOne ∧ engOne.moved = false ∧ engOne.moves = [m] ∧ engOne.kind ∈ [EngKind.get, .put, .tcpy] ∧ engOne.add = none
      ∧ engOne.out = [] ∧ engOne.again = [] ∧ engOne.hold = [] ∧ m.src = some l ∧ (∀ i o, l ≠ .peer i o) ∧ (∀ i o, m.dst.loc ≠ .peer i o) ∧ m.dst.parts = [] ∧ s.migrations = [] ∧ s.mem.wf = true
      ∧ s.homeFault l = none ∧ s.homeFault m.dst.loc = none ∧ readErr s.mem s.lostDies (s.keyOf l) m.dst.n (s.flatOf l) m.dst.n = none
      ∧ writeErr s.mem s.lostDies (s.keyOf m.dst.loc) m.dst.n (s.flatOf m.dst.loc) ((s.mem.read (s.flatOf l) m.dst.n).map some) = none)
    ∧ (∃ e, (atEngine fun e => { e with moved := true }).engine? 9 = some e ∧ e.settled = true)
    ∧ (∀ cn ∈ [((0x30000 : Word), 16), (0x0100000000030000, 8)], ∃ (s : State) (e : EngOp) (c : Word) (g : Seg), s = tallied cn.1 cn.2 ∧ s.engine? 9 = some e ∧ e.performedAll = true ∧ e.arrived = false ∧ e.arr = some (c, g)
        ∧ s.wayOf e.arrGens e.arrFwd = .there ∧ s.homeFault g.loc = none ∧ s.claimed true [g] = false ∧ isOk (s.readSegs [g]) = true ∧ g.parts = [] ∧ s.migrations = [] ∧ s.mem.wf = true ∧ g.n = (if c.getLsbD 56 then 8 else 16))
    ∧ (∀ w ∈ [(Way.held, none, RotState.copying), (.waits, some 3, .copying)], ∃ (s : State) (e : EngOp) (c : Word) (g : Seg), s = { atEngine (fun e => { e with moved := true, arrived := false, arr := some (0x30000, counter), arrGens := [(0, 0)], arrFwd := w.2.1 }) with clusters := [(0, { rot := w.2.2 })], claims := [] }
        ∧ s.engine? 9 = some e ∧ e.performedAll = true ∧ e.arrived = false ∧ e.arr = some (c, g) ∧ s.wayOf e.arrGens e.arrFwd = w.1)
    ∧ (∀ b ∈ [toLe 4 64 ++ toLe 4 0 ++ toLe 8 0, toLe 4 65 ++ toLe 4 0 ++ toLe 8 0, toLe 4 0 ++ toLe 4 0xFFFFFFFF ++ toLe 8 0], b.length = 16)
    ∧ (∀ f ∈ [fun e : EngOp => e, fun e => { e with dest := some 3, result := 7 }, fun e => { e with subs := [{ cause := 3, sub := 2, level := 0, resumable := false, addr := 0, vcn := 0 }] }, fun e => { e with shapeErr := some 0x30100 }],
        ∃ (s : State) (e : EngOp), s = { atEngine (fun e => { f e with moved := true }) with claims := [{ owner := 8, write := true, bank := 0, lo := 64, hi := 127 }, { owner := 9, tile := true, write := true, bank := 0, lo := 64, hi := 127 }] }
          ∧ s.engine? 9 = some e ∧ e.performedAll = true ∧ e.arrived = true ∧ (∀ c ∈ s.claims, c.tile = true ∨ c.owner ≠ 9)) := by
  refine ⟨⟨_, engOne.moves.getD 0 { dst := counter }, .hbm 0x10000 0, rfl, rfl, rfl, rfl, by decide, rfl, rfl, rfl, rfl, rfl, by nofun, by nofun, rfl, rfl, by decide +kernel⟩, ⟨_, rfl, by decide +kernel⟩, ?_, ?_, by decide +kernel, ?_⟩
  · intro cn h
    simp only [List.mem_cons, List.not_mem_nil, or_false] at h
    rcases h with rfl | rfl <;> exact ⟨_, _, _, _, rfl, rfl, by decide +kernel, rfl, rfl, by decide +kernel⟩
  · intro w h
    simp only [List.mem_cons, List.not_mem_nil, or_false] at h
    rcases h with rfl | rfl <;> exact ⟨_, _, _, _, rfl, rfl, by decide +kernel, rfl, rfl, by decide +kernel⟩
  · intro f h
    simp only [List.mem_cons, List.not_mem_nil, or_false] at h
    rcases h with rfl | rfl | rfl | rfl <;> exact ⟨_, _, rfl, rfl, by decide +kernel⟩
theorem arrives_of {s : State} {id : Nat} {a : Access} (h : s.access? id = some a ∧ s.mayArrive a = true ∧ s.arrive a = .here ∧ s.noPlace a = none) : ArrivesHere s id a := ⟨h.1, h.2.1, h.2.2.1, h.2.2.2⟩

/-- Eight bytes at the end of VCN 0's cluster scratchpad, where 8 bytes of 7 stand. -/
def lastWord : Seg := { va := 0x3FFF8, loc := .cluster 0 0xFFF8, n := 8 }
def lastBytes : Memory := memOf [(2 ^ 45 + 0xFFF8, List.replicate 8 7)]
def loadA : Access := { access .load [lastWord] with gens := [(0, 0)], cls := [.cl], dest := .scalar 3 .d64 }
def storeA : Access := { access .store [{ lastWord with data := [some 1, none, none, none, none, none, none, some 2] }] with gens := [(0, 0)], cls := [.cl] }
def atomA (op : AtomOp) (n : AWidth) : Access := { access (.atomic op n 9 8) [lastWord] with gens := [(0, 0)], cls := [.cl], dest := .atomic 3 n }
def sent (a : Access) : State := { inFlight base [a] with mem := lastBytes }
def claimedLast (a : Access) : State := { sent a with claims := [{ owner := 9, write := true, bank := ((banksOf (base.homeFlat lastWord.loc) 8).getD 0 0), lo := base.homeFlat lastWord.loc + 7, hi := base.homeFlat lastWord.loc + 100 }] }
/-- VCN 0's cluster is being copied, so that a message of the current generation is forwarded; its generation has moved on; it is not in the map. -/
def copying (a : Access) : State := { sent a with clusters := [(0, { rot := .copying })] }
def movedOn (a : Access) : State := { sent a with map := [(0, { pcn := 0, valid := true, gen := 1 })] }
def unmapped (a : Access) : State := { sent a with map := [] }
def later (s : State) : State := { s with ptime := 46 }
def waitA (c : Word) : Access := { access (.waita c) [lastWord] with gens := [(0, 0)], cls := [.cl] }
def trapA : Trap := { cause := 0x0D, sub := 1, fpc := 0x80002, addr := 0x3FFF8 }
def watchOf (a : Access) : Watch := { sid := a.sid, bank := noBank, addr := noBank, va := 0x3FFF8, cmp := 7, access := a.id }
def other (a : Access) : Access := { a with id := 6, sid := 1, core := 1 }
/-- 64 parked accesses of other strands at the same bank. -/
def crowd : List Access := (List.range 64).map fun k => { access .store [lastWord] with id := 100 + k, sid := 2, stage := .parked }
def forwardedCrowd (n : Nat) : List Access := (List.range n).map fun k => { access .store [lastWord] with id := 100 + k, sid := 2, stage := .forwarded, gens := [(0, 0)] }

/-- Performing: a load, a held store, a store with masked bytes with and without room in the log, an atomic at its home and from the fault queue, a CAS that fails, a WAITA with the word equal and not. Operands of atomics at the ends of their ranges. -/
theorem meets_AccessesArePerformed :
    (∃ (s : State) (a : Access), s = sent a ∧ ArrivesHere s 5 a ∧ a.stage ≠ .parked ∧ a.op = .load ∧ s.claimed false a.segs = false ∧ isOk (s.readSegs a.segs) = true ∧ s.staging a = [])
    ∧ (∀ a ∈ [loadA, storeA], ∃ (s : State), s = claimedLast a ∧ ArrivesHere s 5 a ∧ a.stage ≠ .parked ∧ (a.op = .load ∨ a.op = .store) ∧ s.claimed (a.op == .store) a.segs = true)
    ∧ (∀ r ∈ [([] : List (Nat × Nat)), [(0, 80)]], ∃ (s : State) (a : Access) (g : Seg), s = sent a ∧ ArrivesHere s 5 a ∧ a.stage ≠ .parked ∧ a.op = .store ∧ a.rsv = r ∧ s.claimed true a.segs = false ∧ a.segs = [g] ∧ g.data.length = g.n ∧ s.migrations = [] ∧ s.mem.wf = true
        ∧ writeErr s.mem s.lostDies (s.keyOf g.loc) g.n (s.flatOf g.loc) g.data = none)
    ∧ (∀ x ∈ [(AtomOp.add, AWidth.w64, Stage.issued), (.cas, .w32, .parked), (.fadd32, .w32, .issued)], ∃ (s : State) (a : Access) (g : Seg), s = sent a ∧ ArrivesHere s 5 a ∧ a.op = .atomic x.1 x.2.1 9 8 ∧ a.stage = x.2.2 ∧ s.claimed true a.segs = false ∧ a.segs = [g] ∧ a.rsv = [] ∧ a.merged = []
        ∧ s.migrations = [] ∧ s.mem.wf = true ∧ isOk (s.readSegs [{ g with n := aBytes x.2.1 }]) = true)
    ∧ (0xFFFFFFFF < 2 ^ 32 ∧ atomApply .cas .w32 5 9 8 = none ∧ atomApply .cas .w32 8 9 8 = some 9 ∧ atomApply .min .w32 0x80000000 0x7FFFFFFF 0 = some 0x80000000 ∧ atomApply .maxu .w32 0x80000000 0x7FFFFFFF 0 = some 0x80000000 ∧ atomApply .add .w32 0xFFFFFFFF 1 0 = some 0)
    ∧ (∀ c ∈ [(0x0707070707070707 : Word), 0], ∃ (s : State) (a : Access) (g : Seg), s = sent a ∧ ArrivesHere s 5 a ∧ a.stage ≠ .parked ∧ a.op = .waita c ∧ a.segs = [g] ∧ s.claimed false a.segs = false ∧ okIs (s.readSegs a.segs) (List.replicate 8 7) = true)
    ∧ (∀ b ∈ [true, false], (withStr (sent (waitA 0x0707070707070707)) fun x => { x with passLatch := b }).passLatched (waitA 0).sid = b) := by
  refine ⟨⟨_, loadA, rfl, arrives_of (by decide +kernel), by decide +kernel⟩, ?_, ?_, ?_, by decide +kernel, ?_, by decide +kernel⟩
  · intro a h
    simp only [List.mem_cons, List.not_mem_nil, or_false] at h
    rcases h with rfl | rfl <;> exact ⟨_, rfl, arrives_of (by decide +kernel), by decide +kernel⟩
  · intro r h
    simp only [List.mem_cons, List.not_mem_nil, or_false] at h
    rcases h with rfl | rfl
    · exact ⟨_, storeA, storeA.segs.getD 0 lastWord, rfl, arrives_of (by decide +kernel), by decide +kernel⟩
    · exact ⟨_, { storeA with rsv := [(0, 80)] }, storeA.segs.getD 0 lastWord, rfl, arrives_of (by decide +kernel), by decide +kernel⟩
  · intro x h
    simp only [List.mem_cons, List.not_mem_nil, or_false] at h
    rcases h with rfl | rfl | rfl
    · exact ⟨_, atomA .add .w64, lastWord, rfl, arrives_of (by decide +kernel), by decide +kernel⟩
    · exact ⟨_, { atomA .cas .w32 with stage := .parked }, lastWord, rfl, arrives_of (by decide +kernel), by decide +kernel⟩
    · exact ⟨_, atomA .fadd32 .w32, lastWord, rfl, arrives_of (by decide +kernel), by decide +kernel⟩
  · intro c h
    simp only [List.mem_cons, List.not_mem_nil, or_false] at h
    rcases h with rfl | rfl
    · exact ⟨_, waitA 0x0707070707070707, lastWord, rfl, arrives_of (by decide +kernel), by decide +kernel⟩
    · exact ⟨_, waitA 0, lastWord, rfl, arrives_of (by decide +kernel), by decide +kernel⟩

/-- The answer with a result and with a fault, merges, the fault queue's and the shadow's limits, a stale message whose cluster has moved and one whose cluster is gone, a watch on the core and off it, the log writer's acceptance. -/
theorem meets_AccessesAreAnswered :
    (∀ g ∈ [Gate.access 5, .none], ∃ (s : State) (a : Access), s = { sent a with cur := { (sent a).cur with gate := g } } ∧ s.access? 5 = some a ∧ a.stage = .performed (List.replicate 8 7) 0 ∧ a.core = s.focus ∧ s.cur.run = some a.sid
        ∧ (∀ k x y, a.op ≠ .spawn k x y) ∧ (∀ k x y, a.op ≠ .qpush k x y))
    ∧ (∃ (s : State) (a : Access) (x : Trap), s = sent a ∧ s.access? 5 = some a ∧ a.stage = .failed x ∧ a.core = s.focus ∧ s.cur.run = some a.sid ∧ (∀ k y z, a.op ≠ .spawn k y z) ∧ (∀ k y z, a.op ≠ .qpush k y z) ∧ s.cur.str.st ≠ .blocked)
    ∧ ((0xFFFFFFFFFFFFFFFF : Nat) < 2 ^ (8 * aBytes .w64) ∧ 0xFFFFFFFF < 2 ^ (8 * aBytes .w32))
    ∧ (∃ (s : State) (ids : List Nat) (a : Access) (l : List Access), s = inFlight base [a, other a] ∧ ids.filterMap s.access? = a :: l ∧ l ≠ [] ∧ (a :: l).length ≤ 16 ∧ (a :: l).length = ids.length ∧ ids.Nodup ∧ (∀ b ∈ a :: l, s.loose b = true) ∧ (∀ b ∈ l, s.mergeWith a b = true))
    ∧ (∃ (s : State) (a : Access), s.access? 5 = some a ∧ a.stage = .refused ∧ s.ptime < resendAt a.staleAt)
    ∧ (∃ (s : State) (a : Access), s.access? 5 = some a ∧ a.stage = .refused ∧ resendAt a.staleAt ≤ s.ptime)
    ∧ (∃ (s : State) (a : Access), s.access? 5 = some a ∧ a.stage = .issued ∧ s.arrive a = .forward ∧ s.behindOlder a = false ∧ (s.heldFor a.gens).length < 2048)
    ∧ (∃ (s : State) (a : Access), s.access? 5 = some a ∧ a.stage = .issued ∧ s.arrive a = .forward ∧ s.behindOlder a = false ∧ 2048 ≤ (s.heldFor a.gens).length)
    ∧ (∃ (s : State) (a : Access), s.access? 5 = some a ∧ a.stage = .stale ∧ resendAt a.staleAt ≤ s.ptime ∧ ∀ p ∈ a.gens, (s.entryAt (a.core / 8) p.1).valid = true)
    ∧ (∃ (s : State) (a : Access), s.access? 5 = some a ∧ a.stage = .stale ∧ resendAt a.staleAt ≤ s.ptime ∧ ∃ p ∈ a.gens, (s.entryAt (a.core / 8) p.1).valid = false)
    ∧ (∃ (s : State) (x : Watch), s.watches.find? (fun w => w.access == 5 && w.bank == noBank) = some x ∧ s.cur.run = some x.sid ∧ s.cur.str.st ≠ .blocked ∧ ∀ a ∈ s.flight, a.sid = x.sid → a.stage ≠ .watching)
    ∧ (∃ (s : State) (x : Watch) (a : Access), s.watches.find? (fun w => w.access == 5 && w.bank == noBank) = some x ∧ s.flight.find? (fun a => a.sid == x.sid && a.stage == .watching && (match a.op with | .waita _ => true | _ => false)) = some a)
    ∧ (∃ (s u : State) (a : Access) (g : Seg), s.access? 5 = some a ∧ a.stage = .logWait ∧ s.arrive a = .here ∧ s.claimed true a.segs = false ∧ a.op = .store ∧ a.segs = [g] ∧ s.migrations = []
        ∧ writeErr s.mem s.lostDies (s.keyOf g.loc) g.n (s.flatOf g.loc) g.data = none ∧ (s.modAccess 5 fun x => { x with rsv := [] }).appendParts a.asid a.win a.winStamp .store g.parts = .ok u) := by
  refine ⟨?_, ⟨_, { loadA with stage := .failed trapA }, trapA, rfl, by decide +kernel, rfl, rfl, rfl, nofun, nofun, by decide +kernel⟩, by decide +kernel, ⟨_, [5, 6], atomA .add .w64, [other (atomA .add .w64)], rfl, by decide +kernel⟩,
    ⟨sent { storeA with stage := .refused }, { storeA with stage := .refused }, by decide +kernel⟩, ⟨later (sent { storeA with stage := .refused }), { storeA with stage := .refused }, by decide +kernel⟩,
    ⟨copying storeA, storeA, by decide +kernel, rfl, by decide +kernel, by decide +kernel⟩,
    ⟨{ copying storeA with flight := storeA :: forwardedCrowd 2048 }, storeA, by decide +kernel, rfl, by decide +kernel, by decide +kernel⟩,
    ⟨later (movedOn { storeA with stage := .stale }), { storeA with stage := .stale }, by decide +kernel⟩, ⟨later (unmapped { storeA with stage := .stale }), { storeA with stage := .stale }, by decide +kernel⟩,
    ⟨{ base with watches := [watchOf (waitA 7)] }, watchOf (waitA 7), by decide +kernel⟩, ⟨{ sent { waitA 7 with stage := .watching } with watches := [watchOf (waitA 7)] }, watchOf (waitA 7), { waitA 7 with stage := .watching }, by decide +kernel⟩,
    ⟨sent { storeA with stage := .logWait, rsv := [(0, 80)] }, _, { storeA with stage := .logWait, rsv := [(0, 80)] }, storeA.segs.getD 0 lastWord, by decide +kernel, rfl, by decide +kernel, by decide +kernel, rfl, rfl, rfl, by decide +kernel, rfl⟩⟩
  intro g h
  simp only [List.mem_cons, List.not_mem_nil, or_false] at h
  rcases h with rfl | rfl <;> exact ⟨_, { loadA with stage := .performed (List.replicate 8 7) 0 }, rfl, by decide +kernel, rfl, rfl, rfl, nofun, nofun⟩
/-! Event units. -/

/-- The event unit of VCN 0 with line 31 at n, barrier 7 with a configuration, mutex 7 with a holder and waiters. -/
def unitOf (n : Nat) (b : Barrier) (m : Mutex) : VCluster := { lines := [(31, n)], bars := [(7, b)], mutexes := [(7, m)] }
def evA (op : AccOp) (off : Nat) : Access := { access op [{ va := BitVec.ofNat 56 (0x60000 + off), loc := .event 0 off, n := 8 }] with gens := [(0, 0)], cls := [.cl], dest := .scalar 3 .d64 }
def atUnit (a : Access) (n : Nat := 0) (b : Barrier := {}) (m : Mutex := {}) : State := { inFlight base [a] with vcs := [(0, unitOf n b m)] }
def waiting : Waiter := { sid := 4, dest := 3, va := 0x600F8 }
def one : BarArrival := { waiter := some waiting }
/-- A strand of the same kernel that waits suspended. -/
def sleeper : Strand := { strandOne with st := .blocked, slot := none, holding := false }

/-- Line 31 with a count of 1 and of 0, added to with a waiter and without; a configuration of barrier 7 while it counts and while it does not, with a parent of the context and without; arrivals at a barrier that is not configured, that counts on, that completes alone and with a parent; the parent that takes the arrival and that does not exist; a release; mutex 7 free, held, given to the next. -/
theorem meets_EventUnitsServeTheirRegisters :
    (∀ n ∈ [0, 1], ∃ (s : State) (a : Access), ArrivesHere s 5 a ∧ a.op = .eventLoad 0xF8 ∧ a.unitReg = some (0, .line 31) ∧ (s.vc 0).lineWaiters.getD 31 [] = [] ∧ (∀ b ∈ s.flight, b.sid = a.sid → b.stage ≠ .watching) ∧ (s.vc 0).lines.getD 31 0 = n)
    ∧ (∀ x ∈ [(AccOp.eventStore 0xF8 0xFFFFFFFF, 0xFFFFFFFF), (.evsig 0 31, 1)], ∃ (s : State) (w : Word) (a : Access), ArrivesHere s 5 a ∧ s.releaseMet a 4 = true ∧ (a.op = .eventStore 0xF8 w ∧ a.unitReg = some (0, .line 31) ∧ x.2 = bitsOf w 31 0 ∨ a.op = .evsig 0 31 ∧ x.2 = 1)
        ∧ (s.vc 0).lineWaiters.getD 31 [] = [])
    ∧ (∃ (s : State) (w : Word) (a : Access) (y : Waiter) (x : Strand), ArrivesHere s 5 a ∧ s.releaseMet a 4 = true ∧ (a.op = .eventStore 0xF8 w ∧ a.unitReg = some (0, .line 31) ∧ 2 = bitsOf w 31 0) ∧ (s.vc 0).lineWaiters.getD 31 [] = [y]
        ∧ (s.vc 0).lines.getD 31 0 = 0 ∧ s.coreOf y.sid = none ∧ s.strands.get? y.sid = some x ∧ ∀ b ∈ s.flight, b.sid ≠ y.sid)
    ∧ (∀ w ∈ [(0xFFFF : Word), 0x7FFF, 0x20000FFFF, 0x17FFF], ∃ (s : State) (a : Access), ArrivesHere s 5 a ∧ a.op = .eventStore 0x2E0 w ∧ a.unitReg = some (0, .barcfg 7) ∧ (s.bar 0 7).arrivals = [] ∧ (w.getLsbD 16 = true → ∃ e c, s.ctxOfVcn 0 = some (e, c) ∧ c.hasVcn (w.extractLsb' 17 12).toNat = true))
    ∧ (∃ (s : State) (w : Word) (a : Access), ArrivesHere s 5 a ∧ a.op = .eventStore 0x2E0 w ∧ a.unitReg = some (0, .barcfg 7) ∧ w.getLsbD 16 = true ∧ ∀ e c, s.ctxOfVcn 0 = some (e, c) → c.hasVcn (w.extractLsb' 17 12).toNat = false)
    ∧ (∃ (s : State) (w : Word) (a : Access), ArrivesHere s 5 a ∧ a.op = .eventStore 0x2E0 w ∧ a.unitReg = some (0, .barcfg 7) ∧ (s.bar 0 7).arrivals ≠ [])
    ∧ (∀ c ∈ [({} : Barrier), { count := 2 }, { count := 2, chain := true, arrivals := [one], scope := 3 }, { count := 1, scope := 3 }], ∃ (s : State) (a : Access), ArrivesHere s 5 a ∧ a.op = .eventLoad 0x2E8 ∧ a.unitReg = some (0, .bararr 7) ∧ s.bar 0 7 = c
        ∧ s.releaseMet a (max 2 ((s.bar 0 7).scope + 1)) = true ∧ c.complete = false ∧ (c.count = 0 ∨ c.arrivals.length + 1 < c.count ∨ c.count = c.arrivals.length + 1 ∧ c.chain = true ∨ c.count = c.arrivals.length + 1 ∧ c.chain = false)
        ∧ (∀ x ∈ s.flight, x.sid = a.sid → x.stage ≠ .watching) ∧ ∀ e c, s.ctxOfVcn 0 = some (e, c) → c.armed = none)
    ∧ (∀ c ∈ [({ chain := true, pvcn := 1, pbar := 7, complete := true } : Barrier), { chain := true, pvcn := 9, pbar := 0, complete := true }], ∃ (s : State) (x : Nat × Nat × BarArrival), s.parentArrivals.find? (fun x => x.1 == 0 && x.2.1 == 7) = some x ∧ c = s.bar 0 7 ∧ c.held = []
        ∧ (0, 7) ≠ (c.pvcn, c.pbar) ∧ ((s.mapNow c.pvcn).valid = true ∧ (s.bar c.pvcn c.pbar).complete = false ∧ (s.bar c.pvcn c.pbar).arrivals.length + 1 < (s.bar c.pvcn c.pbar).count ∨ (s.mapNow c.pvcn).valid = false))
    ∧ (∃ (s : State) (x : Nat × Nat × Grant) (w : Word), s.releases.find? (fun x => x.1 == 0 && x.2.1 == 7) = some x ∧ x.2.2 = .value w ∧ (s.bar 0 7).held = [] ∧ (s.bar 0 7).arrivals = [one] ∧ ∀ y ∈ (s.bar 0 7).arrivals, y.waiter ≠ none)
    ∧ (∀ h ∈ [(none : Option Nat), some 4], ∃ (s : State) (a : Access), ArrivesHere s 5 a ∧ a.op = .eventLoad 0x438 ∧ a.unitReg = some (0, .mutex 7) ∧ ((s.vc 0).mutexes.getD 7 {}).holder = h)
    ∧ (∀ x ∈ [({ holder := some 4 } : Mutex), { holder := some 0 }, { holder := some 0, waiters := [waiting] }], ∃ (s : State) (w : Word) (a : Access), ArrivesHere s 5 a ∧ s.releaseMet a 4 = true ∧ a.op = .eventStore 0x438 w ∧ a.unitReg = some (0, .mutex 7) ∧ (s.vc 0).mutexes.getD 7 {} = x)
    ∧ (∀ x ∈ [(0x2E0, EvReg.barcfg 7), (0x2F0, .barval 7), (0x2F8, .other), (0x100, .other), (0x440, .other)], ∃ (s : State) (a : Access), ArrivesHere s 5 a ∧ a.stage ≠ .parked ∧ a.op = .eventLoad x.1 ∧ a.unitReg = some (0, x.2)) := by
  simp only [List.forall_mem_cons, List.not_mem_nil, false_imp_iff, implies_true, and_true]
  refine ⟨⟨⟨atUnit (evA (.eventLoad 0xF8) 0xF8), evA (.eventLoad 0xF8) 0xF8, arrives_of (by decide +kernel), by decide +kernel⟩, ⟨atUnit (evA (.eventLoad 0xF8) 0xF8) 1, evA (.eventLoad 0xF8) 0xF8, arrives_of (by decide +kernel), by decide +kernel⟩⟩,
    ⟨⟨atUnit (evA (.eventStore 0xF8 0xFFFFFFFF) 0xF8), 0xFFFFFFFF, evA (.eventStore 0xF8 0xFFFFFFFF) 0xF8, arrives_of (by decide +kernel), by decide +kernel⟩, ⟨atUnit (evA (.evsig 0 31) 0xF8), 0, evA (.evsig 0 31) 0xF8, arrives_of (by decide +kernel), by decide +kernel⟩⟩,
    ⟨{ inFlight base [evA (.eventStore 0xF8 2) 0xF8] with vcs := [(0, { lineWaiters := [(31, [waiting])] })], strands := [(4, sleeper)] }, 2, evA (.eventStore 0xF8 2) 0xF8, waiting, sleeper, arrives_of (by decide +kernel), by decide +kernel⟩,
    ⟨⟨atUnit (evA (.eventStore 0x2E0 0xFFFF) 0x2E0), evA (.eventStore 0x2E0 0xFFFF) 0x2E0, arrives_of (by decide +kernel), by decide +kernel, by decide +kernel, by decide +kernel, fun h => absurd h (by decide)⟩,
      ⟨atUnit (evA (.eventStore 0x2E0 0x7FFF) 0x2E0), evA (.eventStore 0x2E0 0x7FFF) 0x2E0, arrives_of (by decide +kernel), by decide +kernel, by decide +kernel, by decide +kernel, fun h => absurd h (by decide)⟩,
      ⟨atUnit (evA (.eventStore 0x2E0 0x20000FFFF) 0x2E0), evA (.eventStore 0x2E0 0x20000FFFF) 0x2E0, arrives_of (by decide +kernel), by decide +kernel, by decide +kernel, by decide +kernel, fun h => absurd h (by decide)⟩,
      ⟨atUnit (evA (.eventStore 0x2E0 0x17FFF) 0x2E0), evA (.eventStore 0x2E0 0x17FFF) 0x2E0, arrives_of (by decide +kernel), by decide +kernel, by decide +kernel, by decide +kernel, fun _ => ⟨1, ctxOne, by decide +kernel, by decide +kernel⟩⟩⟩,
    ⟨atUnit (evA (.eventStore 0x2E0 0x90001) 0x2E0), 0x90001, evA (.eventStore 0x2E0 0x90001) 0x2E0, arrives_of (by decide +kernel), by decide +kernel, by decide +kernel, by decide +kernel, ?_⟩,
    ⟨atUnit (evA (.eventStore 0x2E0 1) 0x2E0) 0 { count := 2, arrivals := [one] }, 1, evA (.eventStore 0x2E0 1) 0x2E0, arrives_of (by decide +kernel), by decide +kernel⟩,
    ⟨⟨atUnit (evA (.eventLoad 0x2E8) 0x2E8), evA (.eventLoad 0x2E8) 0x2E8, arrives_of (by decide +kernel), by decide +kernel, by decide +kernel, by decide +kernel, by decide +kernel, by decide +kernel, by decide +kernel, by decide +kernel, ?_⟩,
      ⟨atUnit (evA (.eventLoad 0x2E8) 0x2E8) 0 { count := 2 }, evA (.eventLoad 0x2E8) 0x2E8, arrives_of (by decide +kernel), by decide +kernel, by decide +kernel, by decide +kernel, by decide +kernel, by decide +kernel, by decide +kernel, by decide +kernel, ?_⟩,
      ⟨atUnit (evA (.eventLoad 0x2E8) 0x2E8) 0 { count := 2, chain := true, arrivals := [one], scope := 3 }, evA (.eventLoad 0x2E8) 0x2E8, arrives_of (by decide +kernel), by decide +kernel, by decide +kernel, by decide +kernel, by decide +kernel, by decide +kernel, by decide +kernel, by decide +kernel, ?_⟩,
      ⟨atUnit (evA (.eventLoad 0x2E8) 0x2E8) 0 { count := 1, scope := 3 }, evA (.eventLoad 0x2E8) 0x2E8, arrives_of (by decide +kernel), by decide +kernel, by decide +kernel, by decide +kernel, by decide +kernel, by decide +kernel, by decide +kernel, by decide +kernel, ?_⟩⟩,
    ⟨⟨{ base with vcs := [(0, unitOf 0 { chain := true, pvcn := 1, pbar := 7, complete := true } {}), (1, unitOf 0 { count := 2 } {})], parentArrivals := [(0, 7, one)] }, (0, 7, one), by decide +kernel⟩,
      ⟨{ base with vcs := [(0, unitOf 0 { chain := true, pvcn := 9, pbar := 0, complete := true } {})], parentArrivals := [(0, 7, one)] }, (0, 7, one), by decide +kernel⟩⟩,
    ⟨{ base with vcs := [(0, unitOf 0 { count := 1, chain := true, complete := true, arrivals := [one] } {})], releases := [(0, 7, .value 5)] }, (0, 7, .value 5), 5, by decide +kernel⟩,
    ⟨⟨atUnit (evA (.eventLoad 0x438) 0x438), evA (.eventLoad 0x438) 0x438, arrives_of (by decide +kernel), by decide +kernel⟩, ⟨atUnit (evA (.eventLoad 0x438) 0x438) 0 {} { holder := some 4 }, evA (.eventLoad 0x438) 0x438, arrives_of (by decide +kernel), by decide +kernel⟩⟩,
    ⟨⟨atUnit (evA (.eventStore 0x438 0) 0x438) 0 {} { holder := some 4 }, 0, evA (.eventStore 0x438 0) 0x438, arrives_of (by decide +kernel), by decide +kernel⟩,
      ⟨atUnit (evA (.eventStore 0x438 0) 0x438) 0 {} { holder := some 0 }, 0, evA (.eventStore 0x438 0) 0x438, arrives_of (by decide +kernel), by decide +kernel⟩,
      ⟨atUnit (evA (.eventStore 0x438 0) 0x438) 0 {} { holder := some 0, waiters := [waiting] }, 0, evA (.eventStore 0x438 0) 0x438, arrives_of (by decide +kernel), by decide +kernel⟩⟩,
    ⟨⟨atUnit (evA (.eventLoad 0x2E0) 0x2E0), evA (.eventLoad 0x2E0) 0x2E0, arrives_of (by decide +kernel), by decide +kernel⟩, ⟨atUnit (evA (.eventLoad 0x2F0) 0x2F0), evA (.eventLoad 0x2F0) 0x2F0, arrives_of (by decide +kernel), by decide +kernel⟩,
      ⟨atUnit (evA (.eventLoad 0x2F8) 0x2F8), evA (.eventLoad 0x2F8) 0x2F8, arrives_of (by decide +kernel), by decide +kernel⟩, ⟨atUnit (evA (.eventLoad 0x100) 0x100), evA (.eventLoad 0x100) 0x100, arrives_of (by decide +kernel), by decide +kernel⟩,
      ⟨atUnit (evA (.eventLoad 0x440) 0x440), evA (.eventLoad 0x440) 0x440, arrives_of (by decide +kernel), by decide +kernel⟩⟩⟩
  · intro e c h
    rw [show (atUnit (evA (.eventStore 0x2E0 0x90001) 0x2E0)).ctxOfVcn 0 = some (1, ctxOne) by decide +kernel] at h
    cases h; decide +kernel
  all_goals
    intro e c h
    rw [State.ctxOfVcn, show (atUnit _ _ _ _).ctxs = [(1, ctxOne)] from rfl, show [(1, ctxOne)].find? (fun e => e.2.hasVcn 0) = some (1, ctxOne) by decide +kernel] at h
    cases h; rfl
/-! Tile tasks. -/

/-- A record of one element: TADD at L2, a product of two K-blocks, a sort of four items, a reduction through the gateway. -/
def root (kind : TileKind) (l : List Leaf) : TileRoot :=
  { seq := 20, sid := 0, asid := 1, vcn := 0, core := 0, pc := 0x80002, kind := kind, level := 2, d := { base := 0x31000, rowstride := 16 }, a := some { base := 0x10000, rowstride := 16 }, b := some { base := 0x10100, rowstride := 16 }, st := .running, leaves := l }
def leafOne : Leaf := { idx := 0, vcn := 0, order := 1, rowCnt := 1, colCnt := 1 }
def product (l : Leaf) : TileRoot := { root (.mma .bf16 .bf16) [l] with a := some { base := 0x10000, fmt := .bf16, cols := 96, rowstride := 192 }, b := some { base := 0x10200, fmt := .bf16, cols := 96, rowstride := 192 } }
def sorting (l : Leaf) : TileRoot := { root .sortc [l] with d := { base := 0x31000, fmt := .n8, cols := 4, rowstride := 4 }, a := some { base := 0x10000, fmt := .n8, cols := 4, rowstride := 4 }, keys := 4 }
def tasks (r : TileRoot) : State := { base with tiles := [r], nextId := 30 }
def tasksAnd (r : TileRoot) (f : Cluster → Cluster) : State := { tasks r with clusters := [(0, f {})] }
def subOne : SubFault := { cause := 3, sub := 1, level := 2, resumable := true, addr := 0x10000, vcn := 0 }

/-- A piece at L1 in the course of its staging, and a core with n entries in its vector queue. -/
def stagedL1 : TileRoot := { root .add [{ leafOne with st := .staging }] with level := 1 }
def withQueue (n : Nat) (s : State) : State := { s with cur := { s.cur with vq := List.replicate n { clocks := 4 } } }

/-- Decomposition behind an older task on the same bytes and alone; the deal's ends; staging begun by the oldest, done with and without a fault; a block that faults, that is added on a cluster that works and on one that drains, that fails its residue once and twice; the last block. -/
theorem meets_TileTasksAreDealtAndRun :
    (∃ (s : State) (r : TileRoot), s.root? 20 = some r ∧ r.st = .waiting ∧ s.olderConflict r = true)
    ∧ (∃ (s : State) (r : TileRoot), s.root? 20 = some r ∧ r.st = .waiting ∧ s.olderConflict r = false ∧ (r.gateway = true → s.gatewayCores ≠ []) ∧ r.leafUnits ≠ [])
    ∧ (∃ (s : State) (r : TileRoot), s.root? 20 = some r ∧ r.st = .waiting ∧ r.gateway = true ∧ s.gatewayCores = [])
    ∧ (∃ (s : State) (r : TileRoot), s.root? 20 = some r ∧ r.st = .waiting ∧ r.gateway = true ∧ s.olderConflict r = false ∧ s.gatewayCores ≠ [] ∧ r.leafUnits ≠ [])
    ∧ (∃ (s : State) (r : TileRoot) (l : Leaf), s.leaf? 20 0 = some (r, l) ∧ l.st = .ready ∧ l.stealTo = none ∧ s.clusterWorks (s.host l.vcn) = true ∧ s.tasksAt l.vcn (fun q x => sameQueue r q && x.st == .staging) = []
      ∧ ∀ x ∈ s.tasksAt l.vcn (fun q x => sameQueue r q && x.st == .ready && x.stealTo.isNone), (x.1.seq, x.2.idx) = (r.seq, l.idx) ∨ l.order < x.2.order)
    ∧ (∃ (s : State) (r : TileRoot) (l : Leaf), s.leaf? 20 0 = some (r, l) ∧ l.st = .staging ∧ r.level ≠ 1 ∧ s.stageFault r l = none)
    ∧ (∀ n ∈ [7, 8], ∃ (s : State) (r : TileRoot) (l : Leaf), s.leaf? 20 0 = some (r, l) ∧ l.st = .staging ∧ r.level = 1 ∧ (s.coreAt (s.pieceCore r)).vq.length = n ∧ s.clusterWorks (s.host l.vcn) = true ∧ s.stageFault r l = none)
    ∧ (∃ (s : State) (r : TileRoot) (l : Leaf), s.leaf? 20 0 = some (r, l) ∧ l.st = .staging ∧ r.level = 1 ∧ (s.coreAt (s.pieceCore r)).vq.length < 8 ∧ s.clusterWorks (s.host l.vcn) = false)
    ∧ (∃ (s : State) (r : TileRoot) (l : Leaf) (b : Nat) (f : Fail), s.leaf? 20 0 = some (r, l) ∧ l.st = .staging ∧ r.level ≠ 1 ∧ s.stageFault r l = some (b, f))
    ∧ (∃ (s : State) (r : TileRoot) (l : Leaf) (f : SubFault), s.leaf? 20 0 = some (r, l) ∧ r.product = true ∧ l.active = true ∧ l.kblk < r.kblocks ∧ l.fail = some (l.kblk, f))
    ∧ (∀ w ∈ [true, false], ∃ (s : State) (r : TileRoot) (l : Leaf) (acc : List Nat), s.leaf? 20 0 = some (r, l) ∧ r.product = true ∧ l.active = true ∧ l.kblk < r.kblocks ∧ (∀ f, l.fail ≠ some (l.kblk, f)) ∧ s.nextAcc r l = .ok acc ∧ l.kblk + 1 < r.kblocks
      ∧ s.clusterWorks (s.host l.vcn) = w)
    ∧ (∀ y ∈ [true, false], ∃ (s : State) (r : TileRoot) (l : Leaf), s.leaf? 20 0 = some (r, l) ∧ r.product = true ∧ l.active = true ∧ l.kblk < r.kblocks ∧ (∀ f, l.fail ≠ some (l.kblk, f)) ∧ l.retried = y)
    ∧ (∃ (s u v : State) (r : TileRoot) (l m : Leaf) (acc : List Nat) (ws : List (Nat × List Byte)), s.leaf? 20 0 = some (r, l) ∧ r.product = true ∧ l.active = true ∧ l.kblk + 1 = r.kblocks ∧ (∀ f, l.fail ≠ some (l.kblk, f)) ∧ s.nextAcc r l = .ok acc ∧ r.spoiled = false
      ∧ m = { l with acc := acc, begun := true, kblk := l.kblk + 1, retried := false } ∧ u = s.modLeaf r.seq l.idx (fun _ => m) ∧ u.productWrites r m = .ok ws ∧ u.tileWrites (r.via m) ws = .ok v) := by
  simp only [List.forall_mem_cons, List.not_mem_nil, false_imp_iff, implies_true, and_true]
  refine ⟨⟨{ base with tiles := [{ root .add [leafOne] with seq := 19, spans := [(0x31000, 0x31004, true)] }, { root .add [] with st := .waiting, spans := [(0x31003, 0x31006, false)] }] }, { root .add [] with st := .waiting, spans := [(0x31003, 0x31006, false)] }, by decide +kernel⟩, ⟨tasks { root .add [] with st := .waiting }, { root .add [] with st := .waiting }, by decide +kernel⟩,
    ⟨tasks { root .baq [] with st := .waiting, level := 5 }, { root .baq [] with st := .waiting, level := 5 }, by decide +kernel⟩, ⟨linked (tasks { root .baq [] with st := .waiting, level := 5 }), { root .baq [] with st := .waiting, level := 5 }, by decide +kernel⟩,
    ⟨tasks (root .add [leafOne, { leafOne with idx := 1, order := 2 }]), root .add [leafOne, { leafOne with idx := 1, order := 2 }], leafOne, by decide +kernel⟩,
    ⟨tasks (root .add [{ leafOne with st := .staging }]), root .add [{ leafOne with st := .staging }], { leafOne with st := .staging }, by decide +kernel⟩,
    ⟨⟨withQueue 7 (tasks stagedL1), stagedL1, { leafOne with st := .staging }, by decide +kernel⟩, ⟨withQueue 8 (tasks stagedL1), stagedL1, { leafOne with st := .staging }, by decide +kernel⟩⟩,
    ⟨tasksAnd stagedL1 (fun c => { c with rot := .draining }), stagedL1, { leafOne with st := .staging }, by decide +kernel⟩,
    ⟨tasks { root .add [{ leafOne with st := .staging }] with a := some { base := 0xB0000 } }, { root .add [{ leafOne with st := .staging }] with a := some { base := 0xB0000 } }, { leafOne with st := .staging }, 0, { cause := 0x04, sub := 0x01, addr := 0xB0000 }, by decide +kernel⟩,
    ⟨tasks (product { leafOne with active := true, kblk := 1, fail := some (1, subOne) }), product { leafOne with active := true, kblk := 1, fail := some (1, subOne) }, { leafOne with active := true, kblk := 1, fail := some (1, subOne) }, subOne, by decide +kernel⟩,
    ⟨⟨tasks (product { leafOne with active := true }), product { leafOne with active := true }, { leafOne with active := true }, [0], by decide +kernel, rfl, rfl, by decide +kernel, nofun, ok_is (by decide +kernel), by decide +kernel, by decide +kernel⟩,
      ⟨tasksAnd (product { leafOne with active := true }) (fun c => { c with rot := .draining }), product { leafOne with active := true }, { leafOne with active := true }, [0], by decide +kernel, rfl, rfl, by decide +kernel, nofun, ok_is (by decide +kernel), by decide +kernel, by decide +kernel⟩⟩,
    ⟨⟨tasks (product { leafOne with active := true, retried := true }), product { leafOne with active := true, retried := true }, { leafOne with active := true, retried := true }, by decide +kernel, rfl, rfl, by decide +kernel, nofun, rfl⟩,
      ⟨tasks (product { leafOne with active := true }), product { leafOne with active := true }, { leafOne with active := true }, by decide +kernel, rfl, rfl, by decide +kernel, nofun, rfl⟩⟩, ?_⟩
  exact ⟨tasks (product { leafOne with active := true, begun := true, kblk := 1, acc := [0x3F800000] }), _, _, product { leafOne with active := true, begun := true, kblk := 1, acc := [0x3F800000] }, { leafOne with active := true, begun := true, kblk := 1, acc := [0x3F800000] }, _, [0x3F800000],
    [(0x31000, [0, 0, 0x80, 0x3F])], by decide +kernel, rfl, rfl, by decide +kernel, nofun, ok_is (by decide +kernel), rfl, rfl, rfl, ok_is (by decide +kernel), okD_eq (d := base) (by decide +kernel)⟩

def rowHead : VqEntry := { clocks := 4 }
def productHead : VqEntry := { clocks := 48, product := true }
def queued (e : VqEntry) (l : List TileRoot) : State := { base with cur := { base.cur with vq := [e] }, tiles := l }
def running : Leaf := { leafOne with st := .running }
def gatewayRoot : TileRoot := { root .baq [running] with level := 5, b := none, order := 3 }
/-- The context's only member is the own panel. -/
def member : State := { linked base with peers := [(0, { remote := BitVec.ofNat 64 base.panelId, ports := 1, asid := 1 })], ctxs := [(1, { ctxOne with peerList := [0] })], tiles := [gatewayRoot] }
def gatewayStep : List Nat × State := member.gatewaySum .f32 (okD (member.ownContribution gatewayRoot running) ([], [])).1 1 [0] [0]

/-- Grants of the matrix unit and of a lane group to a core and to a task; ends of lane groups of each kind; reports that are not the last, the last with all done and with a fault; a theft asked and done; a block of a gateway reduction. -/
theorem meets_TileTasksAreReported :
    (∃ (s : State) (cs : List Machine.Cand) (w : Machine.Cand), s.matrixBusy 0 = false ∧ s.grants 0 = true ∧ cs = s.matrixRisen 0 ∧ lowestPass cs = some w ∧ w.key < 8 ∧ ∃ e, s.vqHead w.key = some e ∧ e.tile = none)
    ∧ (∃ (s : State) (cs : List Machine.Cand) (w : Machine.Cand) (r : TileRoot) (m : Leaf), s.matrixBusy 0 = false ∧ s.grants 0 = true ∧ cs = s.matrixRisen 0 ∧ lowestPass cs = some w ∧ w.key < 8 ∧ (∃ e, s.vqHead w.key = some e ∧ e.tile = some (r.seq, m.idx)) ∧ s.leaf? r.seq m.idx = some (r, m))
    ∧ (∃ (s : State) (cs : List Machine.Cand) (w : Machine.Cand) (r : TileRoot) (l m : Leaf), s.matrixBusy 0 = false ∧ s.grants 0 = true ∧ cs = s.matrixRisen 0 ∧ lowestPass cs = some w ∧ 8 ≤ w.key
      ∧ s.productTask (w.key - 8) = some (r, l) ∧ s.leaf? r.seq l.idx = some (r, m))
    ∧ (∃ (s : State) (cs : List Machine.Cand) (w : Machine.Cand), ((List.range 4).find? fun g => ((s.cluster 0).groups.get? g).isNone) = some 3 ∧ s.grants 0 = true ∧ cs = s.lanesRisen 0 ∧ lowestPass cs = some w ∧ w.key < 8 ∧ ∃ e, s.vqHead w.key = some e)
    ∧ (∃ (s : State) (cs : List Machine.Cand) (w : Machine.Cand) (r : TileRoot) (l : Leaf), ((List.range 4).find? fun g => ((s.cluster 0).groups.get? g).isNone) = some 0 ∧ s.grants 0 = true ∧ cs = s.lanesRisen 0 ∧ lowestPass cs = some w
      ∧ w.key = 8 ∧ s.laneTask 0 = some (r, l) ∧ s.leaf? r.seq l.idx = some (r, l))
    ∧ (∃ (s u : State) (o : Occupant), (s.cluster 0).groups.get? 3 = some o ∧ u = s.setCluster 0 { s.cluster 0 with groups := (s.cluster 0).groups.drop 3 } ∧ o = .core 7 [])
    ∧ (∃ (s u : State) (o : Occupant) (r : TileRoot) (l : Leaf) (f : SubFault), (s.cluster 0).groups.get? 3 = some o ∧ u = s.setCluster 0 { s.cluster 0 with groups := (s.cluster 0).groups.drop 3 } ∧ o = .leaf 20 0 ∧ s.leaf? 20 0 = some (r, l) ∧ l.fail = some (0, f))
    ∧ (∃ (s u v : State) (o : Occupant) (r : TileRoot) (l : Leaf) (ws : List (Nat × List Byte)), (s.cluster 0).groups.get? 3 = some o ∧ u = s.setCluster 0 { s.cluster 0 with groups := (s.cluster 0).groups.drop 3 } ∧ o = .leaf 20 0 ∧ s.leaf? 20 0 = some (r, l) ∧ l.fail = none
      ∧ r.twoPhase = false ∧ r.spoiled = false ∧ u.leafWrites r l = .ok ws ∧ u.tileWrites (r.via l) ws = .ok v)
    ∧ (∃ (s u : State) (o : Occupant) (r : TileRoot) (l : Leaf) (ks : List Nat), (s.cluster 0).groups.get? 3 = some o ∧ u = s.setCluster 0 { s.cluster 0 with groups := (s.cluster 0).groups.drop 3 } ∧ o = .leaf 20 0 ∧ s.leaf? 20 0 = some (r, l) ∧ l.fail = none
      ∧ r.twoPhase = true ∧ l.placed = false ∧ l.go = false ∧ u.itemKeys r l = .ok ks)
    ∧ (∃ (s u v : State) (o : Occupant) (r : TileRoot) (l : Leaf) (ws : List (Nat × List Byte)), (s.cluster 0).groups.get? 3 = some o ∧ u = s.setCluster 0 { s.cluster 0 with groups := (s.cluster 0).groups.drop 3 } ∧ o = .leaf 20 0 ∧ s.leaf? 20 0 = some (r, l) ∧ l.fail = none
      ∧ r.twoPhase = true ∧ l.placed = false ∧ l.go = true ∧ r.spoiled = false ∧ u.placeWrites r l = .ok ws ∧ u.tileWrites (r.via l) ws = .ok v)
    ∧ (∃ (s : State) (r : TileRoot) (l : Leaf), s.leaf? 20 0 = some (r, l) ∧ r.st ≠ .done ∧ l.reported = false ∧ l.vcn < farVcn ∧ s.cur.run = some r.sid ∧ s.cur.str.ending = false ∧ (∃ x ∈ r.leaves, x.idx ≠ 0 ∧ x.reported = false) ∧ l.st = .faulted)
    ∧ (∃ (s : State) (r : TileRoot) (l : Leaf), s.leaf? 20 0 = some (r, l) ∧ r.st ≠ .done ∧ l.reported = false ∧ l.vcn < farVcn ∧ s.cur.run = some r.sid ∧ s.cur.str.ending = false ∧ (∀ x ∈ r.leaves, x.idx ≠ 0 → x.reported = true) ∧ (∀ x ∈ r.leaves, x.st ≠ .faulted) ∧ l.st = .done ∧ r.twoPhase = false ∧ s.rootReleased r = true ∧ ∀ q ∈ s.tiles, q.sid = r.sid → q.st ≠ .done)
    ∧ (∃ (s : State) (r : TileRoot) (l : Leaf), s.leaf? 20 0 = some (r, l) ∧ r.st ≠ .done ∧ l.reported = false ∧ l.vcn < farVcn ∧ s.cur.run = some r.sid ∧ s.cur.str.ending = false ∧ (∀ x ∈ r.leaves, x.idx ≠ 0 → x.reported = true) ∧ (∀ x ∈ r.leaves, x.st ≠ .faulted)
      ∧ l.st = .done ∧ r.twoPhase = false ∧ s.rootReleased r = false ∧ (∀ q ∈ s.tiles, q.sid = r.sid → q.st ≠ .done) ∧ ∀ q ∈ s.tiles, q.seq = 20 → q = r)
    ∧ (∃ (s : State) (r : TileRoot) (l : Leaf), s.leaf? 20 0 = some (r, l) ∧ r.st ≠ .done ∧ l.reported = false ∧ l.vcn < farVcn ∧ s.cur.run = some r.sid ∧ s.cur.str.ending = false ∧ (∀ x ∈ r.leaves, x.idx ≠ 0 → x.reported = true)
      ∧ (∀ x ∈ r.leaves, x.st = .running ∧ x.begun = true ∧ x.go = false ∧ x.active = false ∧ x.placed = false) ∧ r.twoPhase = true ∧ r.level ≠ 1)
    ∧ (∃ (s : State) (r : TileRoot) (l : Leaf), s.leaf? 20 0 = some (r, l) ∧ r.st ≠ .done ∧ l.reported = false ∧ l.vcn < farVcn ∧ s.cur.run = some r.sid ∧ s.cur.str.ending = false ∧ (∀ x ∈ r.leaves, x.idx ≠ 0 → x.reported = true) ∧ l.st = .faulted)
    ∧ fullest [(0, 2), (1, 2)] = some 0
    ∧ (∃ (s : State) (c : Ctx) (r : TileRoot) (l : Leaf), (s.ctxs.find? fun e => e.2.hasVcn 1 && e.2.resident) = some (1, c) ∧ s.clusterWorks (s.host 1) = true ∧ s.tasksAt 1 (fun q l => l.st == .ready && l.stealTo.isNone && q.level != 1) = [] ∧ (∀ q ∈ s.tiles, ∀ x ∈ q.leaves, x.stealTo ≠ some 1)
      ∧ fullest (((s.ctxOn 1 (chipOf (s.host 1))).filter fun v => v != 1 && s.trades (s.host v)).map fun v => (v, (s.tasksAt v stealable).length)) = some 0 ∧ youngestTask (s.tasksAt 0 stealable) = some (r, l) ∧ s.leaf? r.seq l.idx = some (r, l))
    ∧ (∃ (s : State) (r : TileRoot) (l : Leaf), s.leaf? 20 0 = some (r, l) ∧ l.stealTo = some 1)
    ∧ (∃ (s u v : State) (r : TileRoot) (l : Leaf) (own : List FVal) (resid w : List (Nat × List Byte)) (acc : List Nat) (q : List Nat × List Nat), (s.tiles.find? fun r => r.asid == 1 && r.gateway && r.order == 3 && r.st == .running) = some r ∧ (r.leaves.find? fun l => l.idx == 0 && l.st == .running) = some l
      ∧ (∃ p ∈ s.ports, p.2.st = 2) ∧ r.twoPhase = false ∧ r.spoiled = false ∧ s.ownContribution r l = .ok (own, resid) ∧ s.gatewaySum (if r.b.isSome then r.d.fmt else (r.a.getD {}).fmt) own l.colCnt (((s.ctx? 1).map fun c => c.peerList).getD []) (List.replicate l.colCnt 0) = (acc, u)
      ∧ q = convRow r.d.fmt r.rcw (l.rowOrg * r.d.cols + l.colOrg) (acc.map fun c => fp32.val c) ∧ u.tileRow r r.d l.rowOrg l.colOrg q.1 q.2 = .ok w ∧ u.tileWrites (r.via l) (w ++ resid) = .ok v) := by
  refine ⟨⟨queued productHead [], _, { key := 0, weight := 1, clocks := 48, pass := 0 }, by decide +kernel, by decide +kernel, rfl, by decide +kernel, by decide +kernel, productHead, by decide +kernel⟩,
    ⟨queued { productHead with tile := some (20, 0) } [{ product running with level := 1 }], _, { key := 0, weight := 1, clocks := 48, pass := 0 }, { product running with level := 1 }, running, by decide +kernel, by decide +kernel, rfl, by decide +kernel, by decide +kernel,
      ⟨{ productHead with tile := some (20, 0) }, by decide +kernel⟩, by decide +kernel⟩,
    ⟨tasks (product running), _, { key := 8, weight := 1, clocks := 384, pass := 0 }, product running, running, running, by decide +kernel, by decide +kernel, rfl, by decide +kernel⟩,
    ⟨{ queued rowHead [] with clusters := [(0, { groups := [(0, .core 1 []), (1, .core 2 []), (2, .core 3 [])] })] }, _, { key := 0, weight := 1, clocks := 4, pass := 0 }, by decide +kernel, by decide +kernel, rfl, by decide +kernel, by decide +kernel, rowHead, by decide +kernel⟩,
    ⟨tasks (root .add [running]), _, { key := 8, weight := 1, clocks := 4, pass := 0 }, root .add [running], running, by decide +kernel, by decide +kernel, rfl, by decide +kernel⟩,
    ⟨{ base with clusters := [(0, { groups := [(3, .core 7 [])] })] }, _, .core 7 [], by decide +kernel, rfl, rfl⟩,
    ⟨tasksAnd (root .add [{ running with fail := some (0, subOne) }]) (fun c => { c with groups := [(3, .leaf 20 0)] }), _, .leaf 20 0, root .add [{ running with fail := some (0, subOne) }], { running with fail := some (0, subOne) }, subOne, by decide +kernel, rfl, rfl, by decide +kernel⟩,
    ⟨tasksAnd (root .add [running]) (fun c => { c with groups := [(3, .leaf 20 0)] }), _, _, .leaf 20 0, root .add [running], running, [(0x31000, [0, 0, 0, 0])], by decide +kernel, rfl, rfl, by decide +kernel, rfl, rfl, rfl, ok_is (by decide +kernel), okD_eq (d := base) (by decide +kernel)⟩,
    ⟨tasksAnd (sorting { running with colCnt := 4 }) (fun c => { c with groups := [(3, .leaf 20 0)] }), _, .leaf 20 0, sorting { running with colCnt := 4 }, { running with colCnt := 4 }, [0, 0, 0, 0], by decide +kernel, rfl, rfl, by decide +kernel, rfl, rfl, rfl, rfl, ok_is (by decide +kernel)⟩,
    ⟨tasksAnd (sorting { running with colCnt := 4, begun := true, go := true, acc := [4, 0, 0, 0] }) (fun c => { c with groups := [(3, .leaf 20 0)] }), _, _, .leaf 20 0, sorting { running with colCnt := 4, begun := true, go := true, acc := [4, 0, 0, 0] },
      { running with colCnt := 4, begun := true, go := true, acc := [4, 0, 0, 0] }, _, by decide +kernel, rfl, rfl, by decide +kernel, rfl, rfl, rfl, rfl, rfl, okD_eq (d := []) (by decide +kernel), okD_eq (d := base) (by decide +kernel)⟩,
    ⟨tasks (root .add [{ leafOne with st := .faulted }, { leafOne with idx := 1 }]), root .add [{ leafOne with st := .faulted }, { leafOne with idx := 1 }], { leafOne with st := .faulted }, by decide +kernel⟩,
    ⟨tasks (root .add [{ leafOne with st := .done }]), root .add [{ leafOne with st := .done }], { leafOne with st := .done }, by decide +kernel⟩,
    ⟨{ tasks { root .add [{ leafOne with st := .done }] with tick := 6 } with flight := [loadA] }, { root .add [{ leafOne with st := .done }] with tick := 6 }, { leafOne with st := .done }, by decide +kernel⟩,
    ⟨tasks (sorting { running with begun := true }), sorting { running with begun := true }, { running with begun := true }, by decide +kernel⟩,
    ⟨tasks (root .add [{ leafOne with st := .faulted, sub := some subOne }]), root .add [{ leafOne with st := .faulted, sub := some subOne }], { leafOne with st := .faulted, sub := some subOne }, by decide +kernel⟩, by decide +kernel,
    ⟨tasks (root .add [leafOne]), ctxOne, root .add [leafOne], leafOne, by decide +kernel⟩, ⟨tasks (root .add [{ leafOne with stealTo := some 1 }]), root .add [{ leafOne with stealTo := some 1 }], { leafOne with stealTo := some 1 }, by decide +kernel⟩,
    ⟨member, gatewayStep.2, _, gatewayRoot, running, (okD (member.ownContribution gatewayRoot running) ([], [])).1, (okD (member.ownContribution gatewayRoot running) ([], [])).2, _, gatewayStep.1, _, by decide +kernel, by decide +kernel, ⟨_, List.mem_cons_self, rfl⟩, rfl, rfl,
      okD_eq (d := ([], [])) (by decide +kernel), by decide +kernel, rfl, okD_eq (d := []) (by decide +kernel), okD_eq (d := base) (by decide +kernel)⟩⟩
/-! Strands. -/

/-- A second strand of the kernel, in record 1, and its record: PC 0x80002, s1 = 0x11. -/
def second : Strand := { strandOne with recIdx := 1, st := .ready, slot := none, holding := false }
def recAt (w0 : Word) : Memory := memOf [(2 ^ 45 + 0x10040, toLe 8 w0.toNat ++ toLe 8 0x11)]
/-- Core 0 idle, the second strand READY in its list. -/
def readyToRun (w0 : Word) : State := { base with cur := {}, strands := [(1, second)], ready := [(0, [1])], nextSid := 2, mem := recAt w0 }
def waitsAt (w : Wait) (g : Gate) : State := { base with cur := { base.cur with wait := w, gate := g } }
def suspends (f : Strand → Strand) : State := { base with strands := [(1, f { second with st := .suspending })], nextSid := 2 }
def message (op : AccOp) : Access := { access op [] with gens := [(0, 0)], cls := [.cl], dest := .status 3 }
def receives (op : AccOp) (f : Kernel → Kernel) (x : Strand) : State := { inFlight base [message op] with kernels := [(0, f kernelOne)], strands := [(1, x)], nextSid := 2 }

/-- A dispatch of a good record and of one with the reserved bit; a wait at a strand that may not suspend, that suspends, that watches; a record written with no wake and with each kind of it; a wake of nothing, of the runner, of a strand off its core; spawns and pushes at their limits. -/
theorem meets_StrandsAreDispatchedSuspendedWokenAndSpawned_1 :
    (∀ w0 ∈ [(0x80002 : Word), 0x8000000000080002], ∃ (s : State) (x : Strand) (ws : List Word), coreExists s.focus = true ∧ s.cur.run = none ∧ s.clusterWorks (s.focus / 8) = true ∧ s.live (s.focus / 8) (s.focus % 8) = true ∧ s.pickFor s.focus = some 1
        ∧ s.strands.get? 1 = some x ∧ s.knownHere (s.focus / 8) x.vcn = true ∧ x.saved = none ∧ x.stop = none ∧ s.recordWords (s.recordAt x) = (ws, none) ∧ ws.getD 0 0 = w0 ∧ bitsOf w0 62 62 = 0 ∧ x.serves = none ∧ (∀ q ∈ s.queues, q.2.trace = none)
        ∧ ∀ c, s.ctx? x.asid = some c → c.chain ≠ [])
    ∧ (∃ (s : State) (x : Strand) (ws : List Word) (k : Nat), coreExists s.focus = true ∧ s.cur.run = none ∧ s.clusterWorks (s.focus / 8) = true ∧ s.live (s.focus / 8) (s.focus % 8) = true ∧ s.pickFor s.focus = some 1 ∧ s.strands.get? 1 = some x
        ∧ s.knownHere (s.focus / 8) x.vcn = true ∧ x.saved = none ∧ x.stop = none ∧ s.recordWords (s.recordAt x) = (ws, some k) ∧ k = 7 ∧ x.serves = none ∧ (∀ q ∈ s.queues, q.2.trace = none) ∧ ∀ c, s.ctx? x.asid = some c → c.chain ≠ [])
    ∧ ((readyToRun 0x80002).badRecord 0 0x80002 = false ∧ (readyToRun 0x80002).badRecord 0 0x8000000000080002 = true)
    ∧ (∀ w ∈ [Wait.block false, .block true], coreExists (waitsAt w .none).focus = true ∧ (waitsAt w .none).cur.run ≠ none ∧ (waitsAt w .none).cur.stop = none ∧ (waitsAt w .none).cur.susp = .none ∧ (waitsAt w .none).cur.wait = w ∧ (waitsAt w .none).cur.gate = .none)
    ∧ (∃ (s : State) (a : Access), coreExists s.focus = true ∧ s.cur.run ≠ none ∧ s.cur.stop = none ∧ s.cur.susp = .none ∧ s.cur.wait = .block true ∧ s.cur.gate = .access 5 ∧ s.access? 5 = some a ∧ a.stage = .watching)
    ∧ (∃ (s : State) (x : Strand), s.strands.get? 1 = some x ∧ x.st = .suspending ∧ x.yielded = false ∧ x.wakeLatch = false ∧ x.pending = [] ∧ s.metAlready x = false)
    ∧ (∀ p ∈ [(true, false, ([] : List Trap), BlockOn.other), (false, true, [], .other), (false, false, [trapA], .other), (false, false, [], .counts)], ∃ (s : State) (x : Strand), s.strands.get? 1 = some x ∧ x.st = .suspending ∧ (x.yielded, x.wakeLatch, x.pending, x.blockOn) = p
        ∧ (x.yielded = true ∨ x.wakeLatch = true ∨ x.pending ≠ [] ∨ s.metAlready x = true))
    ∧ (∀ r ∈ [((7 : Nat), (none : Option Nat)), (0, some 0), (1, some 1)], ∃ (s : State) (a : Access), s.access? 5 = some a ∧ a.op = .wake 0 r.1 ∧ s.mayArrive a = true ∧ s.releaseMet a 4 = true ∧ s.arrive a = .here ∧ ((s.kernelFor a.sid).bind fun k => s.strandAt k 0 r.1) = r.2
        ∧ (r.2 = some 0 → s.cur.run = some 0 ∧ s.cur.str.st ≠ .blocked) ∧ (r.2 = some 1 → s.coreOf 1 = none ∧ ∃ x, s.strands.get? 1 = some x ∧ x.st = .blocked ∧ x.trapMark = false)
        ∧ ∀ b ∈ s.flight, b.stage ≠ .watching)
    ∧ (∀ p ∈ [(1, (none : Option Nat)), (8, some 2)], ∃ (s : State) (a : Access) (k : Kernel), s.access? 5 = some a ∧ a.op = .spawn 0 (List.replicate 8 7) true ∧ s.mayArrive a = true ∧ s.releaseMet a 4 = true ∧ s.arrive a = .here ∧ ((s.strand? a.sid).bind fun x => x.kernel) = some 0 ∧ s.kernel? 0 = some k
        ∧ k.hdr.poolcap = p.1 ∧ s.freeRecord 0 k 0 = p.2 ∧ s.watches = [] ∧ s.mem.wf = true)
    ∧ (∀ n ∈ [1, 2], ∃ (s : State) (a : Access) (k : Kernel) (x : Strand), s.access? 5 = some a ∧ a.op = .qpush 0 15 7 ∧ s.mayArrive a = true ∧ s.releaseMet a 4 = true ∧ s.arrive a = .here ∧ ((s.strand? a.sid).bind fun x => x.kernel) = some 0 ∧ s.kernel? 0 = some k ∧ (k.list 0 15).count = n
        ∧ k.hdr.wlcap = 2 ∧ s.watches = [] ∧ s.strands.get? 1 = some x ∧ s.coreOf 1 = none ∧ x.kernel = some 0 ∧ x.vcn = 0 ∧ x.st = .blocked ∧ x.trapMark = false ∧ x.blockOn = .list 15) := by
  simp only [List.forall_mem_cons, List.not_mem_nil, false_imp_iff, implies_true, and_true]
  refine ⟨⟨⟨readyToRun 0x80002, second, [0x80002, 0x11, 0, 0, 0, 0, 0, 0], by decide +kernel, by decide +kernel, by decide +kernel, by decide +kernel, by decide +kernel, by decide +kernel, by decide +kernel, rfl, rfl, by decide +kernel, rfl, by decide +kernel, rfl, by decide +kernel,
        forall_some (by decide +kernel)⟩,
      ⟨readyToRun 0x8000000000080002, second, [0x8000000000080002, 0x11, 0, 0, 0, 0, 0, 0], by decide +kernel, by decide +kernel, by decide +kernel, by decide +kernel, by decide +kernel, by decide +kernel, by decide +kernel, rfl, rfl, by decide +kernel, rfl, by decide +kernel, rfl, by decide +kernel,
        forall_some (by decide +kernel)⟩⟩,
    ⟨{ readyToRun 0x80002 with mem := { recAt 0x80002 with bad := [errUnit (clusterBase 0 + 0x10078)] } }, second, [0x80002, 0x11, 0, 0, 0, 0, 0, 0], 7, by decide +kernel, rfl, by decide +kernel, by decide +kernel, by decide +kernel, by decide +kernel, by decide +kernel, rfl, rfl,
      by decide +kernel, rfl, rfl, by decide +kernel, forall_some (by decide +kernel)⟩, by decide +kernel, by decide +kernel,
    ⟨{ waitsAt (.block true) (.access 5) with flight := [{ waitA 7 with stage := .watching }] }, { waitA 7 with stage := .watching }, by decide +kernel⟩, ⟨suspends id, { second with st := .suspending }, by decide +kernel⟩,
    ⟨⟨suspends (fun x => { x with yielded := true }), { second with st := .suspending, yielded := true }, by decide +kernel⟩, ⟨suspends (fun x => { x with wakeLatch := true }), { second with st := .suspending, wakeLatch := true }, by decide +kernel⟩, ⟨suspends (fun x => { x with pending := [trapA] }), { second with st := .suspending, pending := [trapA] }, by decide +kernel⟩, ⟨suspends (fun x => { x with blockOn := .counts }), { second with st := .suspending, blockOn := .counts }, by decide +kernel⟩⟩,
    ⟨⟨receives (.wake 0 7) id { second with st := .blocked }, message (.wake 0 7), by decide +kernel, rfl, by decide +kernel, by decide +kernel, by decide +kernel, by decide +kernel, nofun, nofun, by decide +kernel⟩,
      ⟨receives (.wake 0 0) id { second with st := .blocked }, message (.wake 0 0), by decide +kernel, rfl, by decide +kernel, by decide +kernel, by decide +kernel, by decide +kernel, fun _ => by decide +kernel, nofun, by decide +kernel⟩,
      ⟨receives (.wake 0 1) id { second with st := .blocked }, message (.wake 0 1), by decide +kernel, rfl, by decide +kernel, by decide +kernel, by decide +kernel, by decide +kernel, nofun, fun _ => ⟨by decide +kernel, { second with st := .blocked }, by decide +kernel⟩, by decide +kernel⟩⟩,
    ⟨⟨receives (.spawn 0 (List.replicate 8 7) true) (fun k => { k with hdr := { hdrOne with poolcap := 1 } }) second, message (.spawn 0 (List.replicate 8 7) true), { kernelOne with hdr := { hdrOne with poolcap := 1 } }, by decide +kernel⟩,
      ⟨receives (.spawn 0 (List.replicate 8 7) true) id second, message (.spawn 0 (List.replicate 8 7) true), kernelOne, by decide +kernel⟩⟩,
    ⟨⟨receives (.qpush 0 15 7) (fun k => { k with lists := [(15, { count := 1 })] }) { second with st := .blocked, blockOn := .list 15 }, message (.qpush 0 15 7), { kernelOne with lists := [(15, { count := 1 })] }, { second with st := .blocked, blockOn := .list 15 }, by decide +kernel⟩,
      ⟨receives (.qpush 0 15 7) (fun k => { k with lists := [(15, { count := 2 })] }) { second with st := .blocked, blockOn := .list 15 }, message (.qpush 0 15 7), { kernelOne with lists := [(15, { count := 2 })] }, { second with st := .blocked, blockOn := .list 15 }, by decide +kernel⟩⟩⟩
/-- Core 0 stands at a VSUB without a slot, with both slots held by suspended strands, in a context with a save area. -/
def evicting : State :=
  let s := (bare.placed 0xA200 0x125DD601).enterLine
  { s with ctxs := s.ctxs.map fun e => (e.1, { e.2 with saveBase := 0x100000, saveSize := 0x1200000 }), cur := { s.cur with slot0 := some 1, slot1 := some 2, wait := .block true }, strands := [(1, { second with st := .blocked, slot := some 0, suspendedAt := 9 }), (2, { second with recIdx := 2, st := .blocked, slot := some 1, suspendedAt := 5 })], nextSid := 3 }
theorem devRead_one {s : State} {asid va n : Nat} {c : Ctx} {g : Seg} (hc : s.ctx? asid = some c) (hr : ¬ 2 ^ 56 < n + va) (hx : s.xlateAll .device asid 0 0 .rd (pagePieces (n / 2 ^ 16 + 2) va n) = .ok [g]) (ha : s.devFault false [g] = none)
    (he : readErr s.mem s.lostDies (s.homeKey g.loc) g.n (s.homeFlat g.loc) g.n = none) : s.devRead asid va n = .ok (s.mem.read (s.homeFlat g.loc) g.n ++ []) := by
  simp only [State.devRead, hc, if_neg hr, hx, ha, State.readSegs, he]

theorem readSaved_area {s : State} {asid v p k : Nat} {c : Ctx} {bs : List Byte} (h : s.devRead asid (c.areaVa 0 v p k) 8192 = .ok bs) (hg : c.areaTags.get? (areaKey v p k) = some (c.tag asid v bs)) :
    s.readSaved asid c v (.area p k) = .ok (bs, false) := by
  simp only [State.readSaved, orNeighbour, State.readArea, h, hg, if_true]

theorem tagged_tag (c : Ctx) (k : Nat) (b : List Byte) : ({ c with areaTags := [(k, c.tag 1 0 b)] } : Ctx).areaTags.get? k = some (({ c with areaTags := [(k, c.tag 1 0 b)] } : Ctx).tag 1 0 b) := by
  simp [Tbl.get?, Ctx.tag]

/-- A saved tile context of zeros in an eviction area that lies in VCN 0's cluster scratchpad. -/
def savedMem : Memory := tablesOf [(0x17, 2, 0)]
def savedBytes : List Byte := savedMem.read (base.homeFlat (.cluster 0 0)) 0x2000 ++ []
def savedCtx : Ctx := { ctxOne with areaTags := [(areaKey 0 0 0, ctxOne.tag 1 0 savedBytes)] }
def restoring : State := { base with cur := { base.cur with str := { strandOne with saved := some (.area 0 0) }, gate := .unit }, mem := savedMem, ctxs := [(1, savedCtx)] }

theorem saved_read : restoring.readSaved 1 savedCtx 0 (.area 0 0) = .ok (savedBytes, false) :=
  readSaved_area (devRead_one (c := savedCtx) (g := { va := 0x170000, loc := .cluster 0 0, n := 8192 }) rfl (by decide +kernel) (ok_is (by decide +kernel)) (by decide +kernel) (by decide +kernel)) (tagged_tag ctxOne _ savedBytes)

theorem meets_StrandsAreDispatchedSuspendedWokenAndSpawned_2 :
    (∃ (s : State) (i : Instr) (v : Nat) (x : Strand) (c : Ctx) (u : Nat), coreExists s.focus = true ∧ s.decoded = some (.instr i) ∧ s.cur.run = some 0 ∧ s.cur.line.map (fun e => e.1) = some s.fetchAddr ∧ s.cur.str.slot = none ∧ s.cur.freeSlot = none ∧ writesTile i = true
      ∧ s.victimSlot = some 1 ∧ s.cur.slotOwner 1 = some v ∧ s.strands.get? v = some x ∧ s.ctx? x.asid = some c ∧ c.freeUnit = some u ∧ s.watches = [] ∧ s.mem.wf = true)
    ∧ (∃ (s : State) (w : SavedAt) (c : Ctx) (bs : List Byte), coreExists s.focus = true ∧ s.cur.str.saved = some w ∧ s.cur.str.slot = some 0 ∧ s.cur.gate = .unit ∧ s.ctx? s.asid = some c ∧ s.readSaved s.asid c s.vcn w = .ok (bs, false))
    ∧ coreExists (waitsAt .stall .none).focus = true ∧ (waitsAt .stall .none).cur.run ≠ none ∧ (waitsAt .stall .none).cur.gate = .none ∧ (waitsAt .stall .none).cur.susp = .none :=
  ⟨⟨evicting, .vsub false .bf16 6 29 14 9, 2, { second with recIdx := 2, st := .blocked, slot := some 1, suspendedAt := 5 }, (evicting.ctx? 1).getD ctxOne, 0, by decide +kernel⟩,
    ⟨restoring, .area 0 0, savedCtx, savedBytes, by decide +kernel, rfl, rfl, rfl, rfl, saved_read⟩, by decide +kernel⟩

/-! Traps. -/

def stopOf (c : Counts) (f : Strand → Strand) : State := { base with cur := { base.cur with str := f { strandOne with counts := c }, stop := some { trap := trapA, resume := 0x80002 } } }
/-- A handler whose frame slot lies in the cluster scratchpad, and the strand that it serves. -/
def chainOne : ChainEntry := { entry := 0x80002, frames := 0x30000, hvcn := 0, nframes := 2, hpool := 0x18000, busy := [0] }
def served : Strand := { second with st := .blocked, trapMark := true, frame := some { chain := 0, slot := 0 }, stop := some { words := [0x80002, 1, 2, 3, 4, 5, 6, 7], trap := some trapA } }
def underHandler (acked : Bool) (f : Strand → Strand) (m : Memory) : State :=
  { base with cur := { base.cur with run := some 3, str := { strandOne with kernel := none, serves := some { chain := 0, slot := 0 }, acked := acked, slot := none, holding := false }, slot0 := none, stop := some { trap := trapA, resume := 0x80002 } }
              ctxs := [(1, { ctxOne with chain := [chainOne, { chainOne with busy := [] }] })], strands := [(1, f served)], nextSid := 4, mem := { tables with cells := tables.cells ++ m.cells } }
def granting (frames : BitVec 56) : State := { base with ctxs := [(1, { ctxOne with chain := [{ chainOne with frames := frames, busy := [0], queue := [(1, [])] }, chainOne] })], strands := [(1, { served with frame := none })], nextSid := 2 }
/-- A tile root of the strand whose sequence number its trap names. -/
def pieces : TileRoot := { root .add [{ leafOne with st := .faulted }] with sid := 1, seq := 8, st := .faulted }
def rolled (f : Strand → Strand) : State := { underHandler true (fun x => f { x with counts := { tiles := 1 }, stop := some { words := [0x80002, 1, 2, 3, 4, 5, 6, 7], trap := some { trapA with roll := true, seq := 8 } } }) {} with tiles := [pieces] }
def badFrame : Memory := memOf [(2 ^ 45 + 0x87, [0x80])]

/-- A stop that waits and one that is delivered, at the chain's first entry, past its last and from a handler on both sides of TACK; a trap that has no address; an asynchronous trap on and off a core; a slot granted, and refused by its page; TACK and TRET before and after the counts; returns to a good and a bad record; abandonment without and with a root. -/
theorem meets_TrapsReachTheChainAndReturn_1 :
    (∃ (s : State) (p : PendingStop), coreExists s.focus = true ∧ s.cur.stop = some p ∧ (s.counts.drained && s.lanesIdle) = false)
    ∧ (∃ (s : State) (p : PendingStop) (c : Ctx) (e : ChainEntry), coreExists s.focus = true ∧ s.cur.stop = some p ∧ s.counts.drained = true ∧ s.lanesIdle = true ∧ s.cur.run = some 0 ∧ s.ctx? s.asid = some c ∧ (∀ q ∈ s.queues, q.2.trace = none) ∧ s.cur.str.serves = none ∧ c.chain[0]? = some e)
    ∧ (∃ (s : State) (p : PendingStop) (c : Ctx) (f : FrameRef) (e : ChainEntry), coreExists s.focus = true ∧ s.cur.stop = some p ∧ s.counts.drained = true ∧ s.lanesIdle = true ∧ s.cur.run = some 3 ∧ s.ctx? s.asid = some c ∧ (∀ q ∈ s.queues, q.2.trace = none)
      ∧ s.cur.str.serves = some f ∧ s.cur.str.acked = true ∧ c.chain[f.chain + 1]? = some e)
    ∧ (∃ (s : State) (p : PendingStop) (c : Ctx) (f : FrameRef), coreExists s.focus = true ∧ s.cur.stop = some p ∧ s.counts.drained = true ∧ s.lanesIdle = true ∧ s.cur.run = some 0 ∧ s.ctx? s.asid = some c ∧ (∀ q ∈ s.queues, q.2.trace = none) ∧ s.cur.str.serves = some f ∧ s.cur.str.acked = true
      ∧ c.chain[f.chain + 1]? = none ∧ s.hostIf.errTail - s.hostIf.errHead < 256)
    ∧ (∃ (s : State) (p : PendingStop) (c : Ctx) (f : FrameRef) (e : ChainEntry), coreExists s.focus = true ∧ s.cur.stop = some p ∧ s.counts.drained = true ∧ s.lanesIdle = true ∧ s.cur.run = some 3 ∧ s.ctx? s.asid = some c ∧ (∀ q ∈ s.queues, q.2.trace = none)
      ∧ s.cur.str.serves = some f ∧ s.cur.str.acked = false ∧ s.servedBy s.asid f = some 1 ∧ c.chain[f.chain + 1]? = some e)
    ∧ (∃ (x : Strand) (i : StopImage) (f : Trap), x.stop = some i ∧ i.trap = some f ∧ i.words.length = 8)
    ∧ (∃ (s : State) (e : Nat × Trap), s.asyncFlight.find? (fun e => e.1 == 0) = some e ∧ s.cur.run = some 0 ∧ s.cur.str.ending = false ∧ s.cur.str.st ≠ .blocked)
    ∧ (∀ st ∈ [StrandState.blocked, .ready], ∃ (s : State) (e : Nat × Trap) (x : Strand), s.asyncFlight.find? (fun e => e.1 == 1) = some e ∧ s.coreOf 1 = none ∧ s.strands.get? 1 = some x ∧ x.ending = false ∧ x.st = st ∧ x.trapMark = false)
    ∧ (∃ (s u v : State) (c : Ctx) (e : ChainEntry) (x : Strand), s.ctx? 1 = some c ∧ c.inPlace = true ∧ c.chain[0]? = some e ∧ e.queue = (1, []) :: [] ∧ e.freeSlot = some 1 ∧ s.coreOf 1 = none ∧ s.strands.get? 1 = some x ∧ 1 ≠ s.nextSid ∧ s.watches = []
      ∧ u = s.modChain 1 0 (fun e => { e with queue := [] }) ∧ u.writeFrame 1 (e.frames.toNat + 2048 * 1) (slotBytes x 0 []) = .ok v)
    ∧ (∃ (s u : State) (c : Ctx) (e e1 : ChainEntry) (x : Strand) (f : Fail), s.ctx? 1 = some c ∧ c.inPlace = true ∧ c.chain[0]? = some e ∧ e.queue = (1, []) :: [] ∧ e.freeSlot = some 1 ∧ s.coreOf 1 = none ∧ s.strands.get? 1 = some x ∧ 1 ≠ s.nextSid ∧ s.watches = []
      ∧ u = s.modChain 1 0 (fun e => { e with queue := [] }) ∧ u.writeFrame 1 (e.frames.toNat + 2048 * 1) (slotBytes x 0 []) = .error f ∧ c.chain[1]? = some e1) := by
  simp only [List.forall_mem_cons, List.not_mem_nil, false_imp_iff, implies_true, and_true]
  refine ⟨⟨stopOf { loads := 1 } id, _, by decide +kernel, rfl, by decide +kernel⟩, ⟨stopOf {} id, _, _, _, by decide +kernel, rfl, by decide +kernel, by decide +kernel, rfl, rfl, by decide +kernel, rfl, rfl⟩,
    ⟨underHandler true id {}, _, _, _, _, by decide +kernel, rfl, by decide +kernel, by decide +kernel, rfl, rfl, by decide +kernel, rfl, rfl, rfl⟩,
    ⟨stopOf {} fun x => { x with kernel := none, serves := some { chain := 0, slot := 0 }, acked := true }, _, _, _, by decide +kernel, rfl, by decide +kernel, by decide +kernel, rfl, rfl, by decide +kernel, rfl, rfl, rfl, by decide +kernel⟩,
    ⟨underHandler false id {}, _, _, _, _, by decide +kernel, rfl, by decide +kernel, by decide +kernel, rfl, rfl, by decide +kernel, rfl, rfl, by decide +kernel, rfl⟩,
    ⟨served, _, _, rfl, rfl, rfl⟩, ⟨{ base with asyncFlight := [(1, trapA), (0, trapA)] }, (0, trapA), by decide +kernel⟩,
    ⟨⟨{ suspends fun x => { x with st := .blocked } with asyncFlight := [(1, trapA)] }, (1, trapA), { second with st := .blocked }, by decide +kernel⟩, ⟨{ suspends fun x => { x with st := .ready } with asyncFlight := [(1, trapA)] }, (1, trapA), { second with st := .ready }, by decide +kernel⟩⟩,
    ⟨granting 0x30000, _, _, _, _, _, rfl, rfl, rfl, rfl, by decide +kernel, by decide +kernel, rfl, by decide +kernel, rfl, rfl, okD_eq (d := base) (by decide +kernel)⟩,
    ⟨granting 0x80000, _, _, _, _, _, _, rfl, rfl, rfl, rfl, by decide +kernel, by decide +kernel, rfl, by decide +kernel, rfl, rfl, errD_eq (d := { cause := 0, sub := 0, addr := 0 }) (by decide +kernel), rfl⟩⟩
theorem meets_TrapsReachTheChainAndReturn_2 :
    ((underHandler true id {}).cur.str.acked = true ∧ (withStr (underHandler false id {}) fun x => { x with counts := { loads := 1 } }).cur.str.acked = false ∧ (withStr (underHandler false id {}) fun x => { x with counts := { loads := 1 } }).counts.drained = false)
    ∧ (∃ (s u v : State) (va : Nat) (b : Byte), s.cur.str.acked = false ∧ s.counts.drained = true ∧ u = s.setStr (fun x => { x with acked := true }) ∧ s.frameAddr = some va ∧ u.devRead s.asid (va + 2) 1 = .ok [b] ∧ u.devWrite s.asid (va + 2) [b ||| 2] = .ok v)
    ∧ (∀ w ∈ [(0 : Word), 0x8000000000000000], ∃ (s : State) (va : Nat) (f : FrameRef) (x : Strand) (bs : List Byte) (g : Trap), s.counts.zero = true ∧ s.cur.str.acked = true ∧ s.cur.run = some 3 ∧ s.cur.str.kernel = none ∧ s.cur.str.serves = some f ∧ s.servedBy s.asid f = some 1
        ∧ s.frameAddr = some va ∧ (3 : Nat) ≠ 1 ∧ s.coreOf 1 = none ∧ s.strands.get? 1 = some x ∧ s.devRead s.asid (va + 0x80) 128 = .ok bs ∧ x.rollbackDue = false ∧ s.watches = [] ∧ ((x.stop.bind fun i => i.trap).getD { cause := 0, sub := 0 }) = g ∧ dwordOf bs 0 = w
        ∧ s.badRecord x.vcn (dwordOf bs 0) = (w != 0) ∧ g.roll = false ∧ x.counts.tiles = 0 ∧ (∀ r ∈ s.tiles, r.sid = 1 → r.st ≠ .faulted) ∧ ∃ k y, x.kernel = some k ∧ s.kernel? k = some y)
    ∧ (∃ (s : State) (va : Nat) (f : FrameRef) (x : Strand) (bs : List Byte) (g : Trap) (r : TileRoot), s.counts.zero = true ∧ s.cur.str.acked = true ∧ s.cur.run = some 3 ∧ s.cur.str.kernel = none ∧ s.cur.str.serves = some f ∧ s.servedBy s.asid f = some 1
        ∧ s.frameAddr = some va ∧ s.coreOf 1 = none ∧ s.strands.get? 1 = some x ∧ s.devRead s.asid (va + 0x80) 128 = .ok bs ∧ x.rollbackDue = false ∧ s.watches = [] ∧ ((x.stop.bind fun i => i.trap).getD { cause := 0, sub := 0 }) = g ∧ g.roll = true
        ∧ s.tiles.find? (State.isRoot 1 g.seq) = some r ∧ s.root? r.seq = some r ∧ s.rootReleased r = true ∧ (∀ q ∈ s.tiles, q.sid = 1 → q.st ≠ .done) ∧ x.ending = false) := by
  simp only [List.forall_mem_cons, List.not_mem_nil, false_imp_iff, implies_true, and_true]
  refine ⟨by decide +kernel, ⟨underHandler false id {}, _, _, 0x30000, 0, by decide +kernel, by decide +kernel, rfl, by decide +kernel, ok_is (by decide +kernel), okD_eq (d := base) (by decide +kernel)⟩,
    ⟨⟨underHandler true id {}, 0x30000, { chain := 0, slot := 0 }, served, List.replicate 128 0, trapA, by decide +kernel, rfl, rfl, rfl, rfl, by decide +kernel, by decide +kernel, by decide +kernel, by decide +kernel, rfl, ok_is (by decide +kernel), rfl, rfl, rfl, by decide +kernel, by decide +kernel,
        rfl, rfl, by decide +kernel, 0, kernelOne, by decide +kernel⟩,
      ⟨underHandler true id badFrame, 0x30000, { chain := 0, slot := 0 }, served, [0, 0, 0, 0, 0, 0, 0, 0x80] ++ List.replicate 120 0, trapA, by decide +kernel, rfl, rfl, rfl, rfl, by decide +kernel, by decide +kernel, by decide +kernel, by decide +kernel, rfl, ok_is (by decide +kernel), rfl, rfl, rfl,
        by decide +kernel, by decide +kernel, rfl, rfl, by decide +kernel, 0, kernelOne, by decide +kernel⟩⟩,
    ⟨rolled id, 0x30000, { chain := 0, slot := 0 }, _, List.replicate 128 0, _, pieces, by decide +kernel, rfl, rfl, rfl, rfl, by decide +kernel, by decide +kernel, by decide +kernel, rfl, ok_is (by decide +kernel), rfl, rfl, rfl, rfl, by decide +kernel, by decide +kernel, by decide +kernel, by decide +kernel, rfl⟩⟩
/-! Kernels. -/

def kernelAt (f : Kernel → Kernel) : State := { base with kernels := [(0, f kernelOne)] }
/-- Eight work items dealt to four virtual clusters. -/
def spread : Header := { hdrOne with widths := [3], nfields := 1, extents := [8], scopes := [3] }
def finished : Kernel := { kernelOne with live := 0 }
def quietKernel : Kernel := { kernelOne with quiet := true, told := [0, 1] }
/-- A watchdog limit of one millisecond's worth of ticks, and the time since the timer started. -/
def watched (t : Nat) (f : Kernel → Kernel) : State := { base with queues := [(0, { enable := true, st := .idle, asid := some 1, wdlim := 1 })], kernels := [(0, f { kernelOne with timer := 5 })], ptime := 5 + t }
def checking (st : WinState) : State := { base with cur := { base.cur with str := { strandOne with window := { num := 1, st := st } }, recent := [some 0x80004, none, some 0x80002], vq := [{ clocks := 4, check := some 0x80000 }] } }
def rollsBack (x : Strand) : State := { bare with cur := { bare.cur with str := x } }

/-- A launch message to the last virtual cluster; a kernel that is not over, over with no arrival, with one, with a claimed one; quiescence and each thing that prevents it; a report to the last virtual cluster; the watchdog at and below each of its three limits; a residue failure of the oldest instruction under way in and out of an open window; a rollback due and not; an entry with a home. -/
theorem meets_KernelsRunCompleteAndAreWatched :
    (∃ (s : State) (y : Kernel) (c : Ctx), s.kernel? 0 = some y ∧ 3 ∈ y.messages ∧ s.ctx? y.asid = some c ∧ c.inPlace = true ∧ s.watches = [] ∧ s.mem.wf = true ∧ (y.hdr.idsOn 3).length = 2)
    ∧ (∃ (s : State) (y : Kernel), s.kernel? 0 = some y ∧ y.past = false) ∧ (∃ (s : State) (y : Kernel), s.kernel? 0 = some y ∧ y.past = true ∧ y.hdr.done = 0 ∧ (s.queue y.q).trace = none)
    ∧ (∀ d ∈ [(0x30010 : BitVec 56), 0x30008], ∃ (s u : State) (y : Kernel) (ok : Bool), s.kernel? 0 = some y ∧ y.past = true ∧ y.hdr.done = d ∧ s.doneArrival y = some (u, ok) ∧ (u.queue y.q).trace = none ∧ ok = (d == 0x30010))
    ∧ (∃ (s : State) (y : Kernel), s.kernel? 0 = some y ∧ y.past = true ∧ s.doneArrival y = none)
    ∧ (∃ (s : State) (y : Kernel), s.kernel? 0 = some y ∧ y.quiet = false ∧ y.messages = [] ∧ y.inflight = 0 ∧ (∀ l ∈ y.lists, l.2.count = 0) ∧ ∀ e ∈ s.allStrands, e.2.kernel = some 0 → e.2.holding = false)
    ∧ (∀ k ∈ [{ kernelOne with messages := [3] }, { kernelOne with inflight := 1 }, { kernelOne with lists := [(0, { count := 1 })] }, kernelOne], (kernelAt fun _ => k).kernel? 0 = some k ∧ k.quiet = false
        ∧ (k.messages ≠ [] ∨ k.inflight ≠ 0 ∨ (∃ l ∈ k.lists, l.2.count ≠ 0) ∨ ∃ e ∈ (kernelAt fun _ => k).allStrands, e.2.kernel = some 0 ∧ e.2.holding = true))
    ∧ (∃ (s : State) (y : Kernel) (x : Strand), s.kernel? 0 = some y ∧ y.quiet = true ∧ 3 ∉ y.told ∧ y.hdr.vcbase ≤ 3 ∧ 3 < y.hdr.vcbase + y.hdr.vccount ∧ s.strands.get? 1 = some x ∧ s.coreOf 1 = none ∧ x.kernel = some 0 ∧ x.vcn = 3 ∧ x.st = .blocked ∧ x.trapMark = false ∧ x.blockOn = .list 0)
    ∧ (∀ t ∈ [999, 1000, 1999, 2000, 2999, 3000], ∃ (s : State) (y : Kernel) (c : Ctx), s = watched t id ∧ s.kernel? 0 = some y ∧ s.ctx? y.asid = some c ∧ c.resident = true ∧ c.stopped = false ∧ c.stopReq = false ∧ (s.queue y.q).wdlim ≠ 0 ∧ s.ptime - y.timer = t ∧ (s.queue y.q).wdlim * 1000 = 1000
        ∧ y.wdTrapped = false ∧ s.cur.run = some 0 ∧ s.cur.str.kernel = some 0 ∧ s.cur.str.st ≠ .blocked ∧ ∀ e ∈ s.cores, e.2.run ≠ some 0)
    ∧ (∀ st ∈ [WinState.opened, .none], coreExists (checking st).focus = true ∧ (checking st).cur.run ≠ none ∧ (checking st).cur.unchecked[2]? = some 0x80000 ∧ (checking st).cur.str.window.st = st)
    ∧ (∀ x ∈ [strandOne, { strandOne with rollbackDue := true, counts := { loads := 1 } }, { strandOne with rollbackDue := true, trapMark := true }], (rollsBack x).cur.run = some 0 ∧ ((rollsBack x).cur.str.rollbackDue = false ∨ (rollsBack x).counts.zero = false ∨ (rollsBack x).cur.str.trapMark = true))
    ∧ (∃ s : State, s.cur.run = some 0 ∧ s.cur.str.rollbackDue = true ∧ s.counts.zero = true ∧ s.cur.str.trapMark = false ∧ s.cur.stop ≠ none)
    ∧ (∃ s : State, s.cur.run = some 0 ∧ s.cur.str.rollbackDue = true ∧ s.settled s.cur.str = false)
    ∧ (∃ (s u : State) (img : List Word), s.cur.run = some 0 ∧ s.cur.str.rollbackDue = true ∧ s.counts.zero = true ∧ s.cur.str.trapMark = false ∧ s.cur.stop = none ∧ s.settled s.cur.str = true ∧ s.rollbackWindow s.asid (chipOf (s.host s.vcn)) s.vcn s.cur.str.window = (u, img))
    ∧ (∃ (s : State) (e : Entry) (g : Seg), s.entrySegs 1 e = [g] ∧ g.n = e.data.length ∧ s.homeFault g.loc = none ∧ writeErr s.mem s.lostDies (s.homeKey g.loc) g.n (s.homeFlat g.loc) (e.data.map some) = none ∧ s.migrations = [] ∧ s.mem.wf = true ∧ s.watches = [] ∧ e.data.length = 64) := by
  refine ⟨⟨kernelAt fun k => { k with messages := [3], hdr := spread }, { kernelOne with messages := [3], hdr := spread }, ctxOne, by decide +kernel⟩, ⟨base, kernelOne, by decide +kernel⟩, ⟨kernelAt fun _ => finished, finished, by decide +kernel⟩, ?_,
    ⟨{ kernelAt fun _ => { finished with hdr := { hdrOne with done := 0x30010 } } with claims := [{ owner := 9, write := true, bank := (banksOf (base.homeFlat (.cluster 0 0x10)) 16).getD 0 0, lo := base.homeFlat (.cluster 0 0x10), hi := base.homeFlat (.cluster 0 0x1F) }] },
      { finished with hdr := { hdrOne with done := 0x30010 } }, by decide +kernel, by decide +kernel, by rfl⟩,
    ⟨withStr base fun x => { x with holding := false }, kernelOne, by decide +kernel⟩, by decide +kernel, ⟨{ kernelAt fun _ => quietKernel with strands := [(1, { second with vcn := 3, st := .blocked, blockOn := .list 0 })] }, quietKernel, { second with vcn := 3, st := .blocked, blockOn := .list 0 }, by decide +kernel⟩, ?_,
    by decide +kernel, by decide +kernel, ⟨stopOf {} fun x => { x with rollbackDue := true }, by decide +kernel⟩, ⟨{ rollsBack { strandOne with slot := none, rollbackDue := true } with clusters := [(0, { rot := .copying })] }, rfl, rfl, by decide +kernel⟩, ⟨rollsBack { strandOne with slot := none, rollbackDue := true }, _, _, rfl, rfl, by decide +kernel, rfl, rfl, by decide +kernel, rfl⟩,
    ⟨logging, { off := 0, kind := 1, void := false, win := 0, loc := 0x30040 / 8, dstamp := 0, data := List.replicate 64 7 }, { va := 0x30040, loc := .cluster 0 0x40, n := 64 }, by decide +kernel⟩⟩
  · simp only [List.forall_mem_cons, List.not_mem_nil, false_imp_iff, implies_true, and_true]
    exact ⟨⟨kernelAt fun _ => { finished with hdr := { hdrOne with done := 0x30010 } }, _, { finished with hdr := { hdrOne with done := 0x30010 } }, true, by decide +kernel, rfl, rfl, rfl, by decide +kernel, by decide +kernel⟩,
      ⟨kernelAt fun _ => { finished with hdr := { hdrOne with done := 0x30008 } }, _, { finished with hdr := { hdrOne with done := 0x30008 } }, false, by decide +kernel, rfl, rfl, rfl, by decide +kernel, by decide +kernel⟩⟩
  · simp only [List.forall_mem_cons, List.not_mem_nil, false_imp_iff, implies_true, and_true]
    refine ⟨⟨_, { kernelOne with timer := 5 }, ctxOne, rfl, by decide +kernel⟩, ⟨_, { kernelOne with timer := 5 }, ctxOne, rfl, by decide +kernel⟩, ⟨_, { kernelOne with timer := 5 }, ctxOne, rfl, by decide +kernel⟩, ⟨_, { kernelOne with timer := 5 }, ctxOne, rfl, by decide +kernel⟩,
      ⟨_, { kernelOne with timer := 5 }, ctxOne, rfl, by decide +kernel⟩, ⟨_, { kernelOne with timer := 5 }, ctxOne, rfl, by decide +kernel⟩⟩
/-! Contexts and caches. -/

/-- The other context: of 4,032 virtual clusters, as many as a context may have from 64 up (R235) and more than the panel has physical ones, or of one. -/
def ctxTwo (n : Nat) : Ctx := { desc := 1, vcfirst := 64, vcnum := n }
/-- Context 1 is resident and context 2 waits; their queues want, at these priorities; the time. -/
def contending (n p1 p2 t : Nat) : State :=
  { base with ctxs := [(1, ctxOne), (2, ctxTwo n)], ptime := t
              queues := [(0, { enable := true, st := .idle, asid := some 1, prio := p1, tail := 1 }), (1, { enable := true, st := .idle, asid := some 2, prio := p2, tail := 1 })] }
/-- A state in which nothing of context 1 is under way; one of its strands watches. -/
def still (f : Ctx → Ctx) : State := { base with cur := {}, ctxs := [(1, f { ctxOne with resident := true })], strands := [(1, { second with st := .blocked })], watches := [{ sid := 1, bank := 0, addr := 0, va := 0, cmp := 0, access := 5 }], nextSid := 2 }
/-- A handler table of one entry in the chiplet scratchpad beside a line of one head, and a context that comes back to clusters 5 and 9. -/
def handlerTable (entry : Nat) : Memory :=
  { tables with cells := tables.cells ++ (memOf [(2 ^ 46 + 0x100, [1] ++ List.replicate 31 0 ++ toLe 8 entry ++ toLe 8 0x50800 ++ toLe 2 0 ++ toLe 2 2 ++ toLe 4 0x18000 ++ toLe 8 0), (2 ^ 46 + 0x200, [1])]).cells }
def away : Ctx := { ctxOne with vcnum := 2, handlers := 0x50100, resident := false, everResident := false }
def comingBack (c : Ctx) (m : Memory) : State := { base with cur := {}, tlb := pages, ctxs := [(1, c)], map := [], mem := m, queues := [(0, { enable := true, st := .idle, asid := some 1, prio := 1, tail := 1 })], kernels := [] }
def gated : State := { base with cur := { base.cur with gate := .unit } }

theorem needs_of_many (s : State) (c : Ctx) (h : 3072 < c.vcnum) : s.needsClusters c = true :=
  decide_eq_true (Nat.lt_of_le_of_lt (Nat.le_trans (List.length_filter_le _ _) (by simp)) h)
theorem enough_for_one (s : State) (c : Ctx) (h : c.vcnum = 1) (h5 : s.freeHost 5 = true) : s.needsClusters c = false :=
  decide_eq_false (by have := List.length_pos_of_mem (List.mem_filter.2 ⟨List.mem_range.2 (by decide : 5 < 48 * 64), h5⟩); omega)

/-- Arbitration with a higher and an equal priority, and with clusters enough; the quantum at and below its end; an eviction begun and acknowledged; a body and a foreign save number. -/
theorem meets_ContextsComeAndGoAndCachesFill_1 :
    (∀ p ∈ [1, 2], ∃ (s : State) (a v : Ctx), s = contending 4032 1 p 0 ∧ s.ctx? 2 = some a ∧ s.ctx? 1 = some v ∧ s.ctxPrio 2 = some p ∧ a.resident = false ∧ a.lost = false ∧ v.resident = true ∧ v.preempt = false ∧ v.stopped = false ∧ v.stopReq = false ∧ s.ctxPrio 1 = some 1) ∧ (∀ (s : State), s.needsClusters (ctxTwo 4032) = true)
    ∧ (∃ (s : State) (a v : Ctx), s = contending 1 1 2 0 ∧ s.ctx? 2 = some a ∧ s.ctx? 1 = some v ∧ s.ctxPrio 2 = some 2 ∧ a.resident = false ∧ a.lost = false ∧ v.resident = true ∧ v.preempt = false ∧ v.stopped = false ∧ v.stopReq = false ∧ s.needsClusters a = false)
    ∧ (∀ t ∈ [3999999, 4000000], ∃ (s : State) (c : Ctx), s = contending 4032 1 1 t ∧ s.ctx? 1 = some c ∧ c.resident = true ∧ c.preempt = false ∧ c.stopped = false ∧ c.stopReq = false ∧ s.ptime = t ∧ c.residentAt = 0 ∧ (2, ctxTwo 4032) ∈ s.ctxs ∧ s.waits (2, ctxTwo 4032) = true ∧ s.ctxPrio 2 = s.ctxPrio 1)
    ∧ (∃ (s : State) (c : Ctx) (x : Strand), s.ctx? 1 = some c ∧ c.resident = true ∧ c.preempt = true ∧ c.stopReq = false ∧ c.stopped = false ∧ c.saving = false ∧ s.quiet 1 = true ∧ s.watches ≠ [] ∧ s.strands.get? 1 = some x ∧ x.asid = 1 ∧ s.coreOf 1 = none ∧ ∀ b ∈ s.flight, b.sid = 1 → b.stage ≠ .watching)
    ∧ (∃ (s : State) (c : Ctx), s.ctx? 1 = some c ∧ c.saving = true ∧ s.quiet 1 = true)
    ∧ (∃ c d : Ctx, c.saveSeq = 2 ^ 64 - 1 ∧ d.saveKey = c.saveKey ∧ d.saveSeq ≠ c.saveSeq) := by
  simp only [List.forall_mem_cons, List.not_mem_nil, false_imp_iff, implies_true, and_true]
  refine ⟨⟨⟨_, ctxTwo 4032, ctxOne, rfl, by decide +kernel⟩, ⟨_, ctxTwo 4032, ctxOne, rfl, by decide +kernel⟩⟩, fun s => needs_of_many s _ (by decide),
    ⟨_, ctxTwo 1, ctxOne, rfl, rfl, rfl, by decide +kernel, rfl, rfl, rfl, rfl, rfl, rfl, enough_for_one _ _ rfl (by decide +kernel)⟩, ⟨⟨_, ctxOne, rfl, by decide +kernel⟩, ⟨_, ctxOne, rfl, by decide +kernel⟩⟩,
    ⟨still fun c => { c with preempt := true }, { ctxOne with preempt := true }, { second with st := .blocked }, by decide +kernel⟩, ⟨still fun c => { c with saving := true }, { ctxOne with saving := true }, by decide +kernel⟩,
    ⟨{ ctxOne with saveSeq := 2 ^ 64 - 1 }, ctxOne, by decide +kernel⟩⟩

/-- What MAKE_RESIDENT asks of a context that comes to clusters 5 and 9. -/
abbrev mayCome (s : State) (c : Ctx) : Prop :=
  s.ctx? 1 = some c ∧ c.resident = false ∧ c.lost = false ∧ s.ctxPrio 1 ≠ none ∧ s.nextToCome 1 c = true ∧ [5, 9].length = c.vcnum ∧ [5, 9].Nodup ∧ (∀ p ∈ List.zip c.vcns [5, 9], s.mayHost p = true)
    ∧ s.strands = []

/-- A return whose handler table reads well, one whose entry is no head, one whose table cannot be read, and one whose image fails. -/
theorem meets_ContextsComeAndGoAndCachesFill_2 :
    (∃ (s : State) (c : Ctx) (chain : List ChainEntry), mayCome s c ∧ c.everResident = false
      ∧ (s.publish ((List.zip c.vcns [5, 9]).map fun p => (p.1, { s.mapNow p.1 with pcn := p.2, valid := true, nonres := false, grace := false }))).readChain 1 c = some chain ∧ chain.length = 1)
    ∧ (∀ m ∈ [handlerTable 0x50204, tables], ∃ (s : State) (c : Ctx), s.mem = m ∧ mayCome s c ∧ c.everResident = false
      ∧ (s.publish ((List.zip c.vcns [5, 9]).map fun p => (p.1, { s.mapNow p.1 with pcn := p.2, valid := true, nonres := false, grace := false }))).readChain 1 c = none)
    ∧ (∃ (s : State) (c : Ctx) (v : Nat) (e : Nat × Bad), mayCome s c ∧ c.everResident = true ∧ s.installAll 1 c (List.zip c.vcns [5, 9]) = .error (v, e)
      ∧ s.hostIf.errTail - s.hostIf.errHead < 256) := by
  simp only [List.forall_mem_cons, List.not_mem_nil, false_imp_iff, implies_true, and_true]
  refine ⟨⟨comingBack away (handlerTable 0x50202), away, _, by decide +kernel, rfl, getD_eq (d := []) (by decide +kernel), by decide +kernel⟩,
    ⟨⟨comingBack away (handlerTable 0x50204), away, rfl, by decide +kernel, by decide +kernel⟩, ⟨comingBack away tables, away, rfl, by decide +kernel, by decide +kernel⟩⟩,
    ⟨comingBack { away with everResident := true } (handlerTable 0x50202), { away with everResident := true }, 0, (1, 1, 0), by decide +kernel, rfl, error_is (by decide +kernel), by decide +kernel⟩⟩

/-- A walk that fails and one that ends at a leaf, for a core and a chiplet; a generation that is over and one that is not, for a strand and for a migration; a CSRW done; a line that is not cached. -/
theorem meets_ContextsComeAndGoAndCachesFill_3 :
    (∃ (s : State) (c : Ctx) (k : Nat), s.ctx? 1 = some c ∧ s.walkFrom c 0x100000 4 c.ptroot = .error k)
    ∧ (∃ (s : State) (c : Ctx) (p : Page), s.ctx? 1 = some c ∧ s.walkFrom c 0x10000 4 c.ptroot = .ok p ∧ (∀ a ∈ [Agent.core 0, .chiplet 0], agentChip a = some 0 ∧ agentCaches a ≠ []) ∧ s.tlb ≠ [])
    ∧ (∃ (s : State) (c : Ctx) (d : Reg) (rest : List AsgenBy), s.ctx? 1 = some c ∧ c.asgens = .strand 0 d :: rest ∧ s.oldGenOver 1 c.gen = true ∧ s.cur.run = some 0 ∧ s.cur.gate = .unit)
    ∧ (∃ (s : State) (c : Ctx) (b : AsgenBy) (rest : List AsgenBy), s.ctx? 1 = some c ∧ c.asgens = b :: rest ∧ s.oldGenOver 1 c.gen = false)
    ∧ (∃ (s : State) (c : Ctx) (m : Migration) (rest : List AsgenBy), s.ctx? 1 = some c ∧ c.asgens = .migration 4 :: rest ∧ s.oldGenOver 1 c.gen = true ∧ s.migrations.find? (fun m => m.mid == 4) = some m)
    ∧ (∃ (s : State) (c : Ctx) (rest : List Nat), s.ctx? 1 = some c ∧ c.csrws = 0 :: rest ∧ s.cur.run = some 0 ∧ s.cur.gate = .unit)
    ∧ (∃ (s : State) (l : BitVec 512), s.cur.run ≠ none ∧ (∀ e ∈ s.icache, ¬ (e.1 = s.pcn ∧ e.2.1 = s.fetchAddr ∧ e.2.2.1 = s.asid)) ∧ s.readLine s.fetchAddr = .ok l) := by
  refine ⟨⟨base, ctxOne, 1, by decide +kernel, error_is (by decide +kernel)⟩, ⟨base, ctxOne, _, rfl, okD_eq (d := ⟨0, 0, 0⟩) (by decide +kernel), by decide +kernel, by decide +kernel⟩,
    ⟨{ gated with ctxs := [(1, { ctxOne with asgens := [.strand 0 3, .migration 4], gen := 5 })] }, _, _, _, rfl, rfl, by decide +kernel, rfl, rfl⟩,
    ⟨{ inFlight base [access .store []] with ctxs := [(1, { ctxOne with asgens := [.strand 0 3], gen := 6 })] }, _, _, _, rfl, rfl, by decide +kernel⟩,
    ⟨{ base with ctxs := [(1, { ctxOne with asgens := [.migration 4], gen := 5 })], migrations := [{ mid := 4, asid := 1, va := 0x80000, size := 2 ^ 16, old := .hbm 0x10000 0, new := .hbm 0x20000 0, leaf := 0, inst := .host }] }, _, _, _, rfl, rfl, by decide +kernel, rfl⟩,
    ⟨{ gated with ctxs := [(1, { ctxOne with csrws := [0] })] }, _, _, rfl, rfl, rfl, rfl⟩,
    ⟨bare.placed 0 0, _, by decide +kernel, by decide +kernel, okD_eq (d := 0) (by decide +kernel)⟩⟩
/-! Rotation. -/

/-- A time, a chiplet 0 and clusters that stand out. -/
def turning (t : Nat) (c : Chiplet) (l : List (Nat × Cluster)) : State := { base with cur := {}, ptime := t, chips := [(0, c)], clusters := l }
def oldPub : Pub := { seq := 3, before := [(0, { pcn := 0, valid := true })], time := 0 }
def publishes (r : PubReq) (l : List (Nat × Cluster)) : State := { base with pubReqs := [r], clusters := l }
def stepOne : Chiplet := { due := 0, phase := 1, stepAt := 100, dest := 60 }
def drains : List (Nat × Cluster) := [(0, { rot := .draining }), (60, { rot := .shadow })]
def copied (alive : Bool) : List (Nat × Cluster) := [(0, { rot := .copying }), (60, { rot := .shadow, router := alive })]
/-- The first test of cluster 61 ends at 25 ms (log 152). -/
def testing (t : Nat) (sixty : RotState) (f : Cluster → Cluster) : State := turning t {} [(60, { rot := sixty }), (61, f { rot := .test, testEnd := 25000000 })]

/-- Publications of each kind and their arrival; a step at its instant and of a panel that did not start; a drain that is over, not over, at its deadline and past it. -/
theorem meets_RotationStepsAndMapPublications_1 :
    (∃ s : State, s.cpRuns = true ∧ s.pubReqs.find? s.publishable = some (.moor 1 true)) ∧ (∃ s : State, s.cpRuns = true ∧ s.pubReqs.find? s.publishable = some (.retire 61 (some 5)))
    ∧ (∃ (s : State) (p : Pub), s.pubs.find? (s.unseen 9) = some p ∧ s.pubs = [p])
    ∧ (∀ t ∈ [1, 49999999], (turning t {} []).ptime % 25000000 ≠ 0 * 500000) ∧ (∃ s : State, s.trust.bootFail ≠ none)
    ∧ (∃ (s : State) (d k : Nat), 47 < 48 ∧ s.chipAbsent 47 = false ∧ s.trust.bootFail = none ∧ (s.chip 47).phase = 0 ∧ s.ptime % 25000000 = 47 * 500000 ∧ s.evacuation 47 = none ∧ (s.chip 47).retiredWhole = false ∧ s.stepFrom 47 = some d ∧ s.readyShadow 47 = some k
      ∧ (∀ i < 64, (s.cluster (47 * 64 + i)).condemned = false) ∧ d = 47 * 64 + (s.chip 47).due ∧ (s.cluster d).router = true ∧ ((s.cluster d).rot = .due ∨ ((s.cluster d).rot = .inService ∧ (s.cluster d).moored = false ∧ (s.cluster d).halted = false)))
    ∧ (∀ x ∈ [(false, 200099), (true, 200100), (true, 200101)], ∃ (s : State), s.stepping 0 = some 0 ∧ (s.chip 0).phase = 1 ∧ (s.cluster 0).router = true ∧ s.drainedAt 0 = x.1 ∧ s.ptime = x.2 ∧ (s.chip 0).stepAt + 200000 = 200100) := by
  simp only [List.forall_mem_cons, List.not_mem_nil, false_imp_iff, implies_true, and_true]
  exact ⟨⟨publishes (.moor 1 true) [], by decide +kernel⟩, ⟨publishes (.retire 61 (some 5)) [], by decide +kernel⟩, ⟨{ base with pubs := [oldPub] }, oldPub, by decide +kernel⟩, by decide +kernel,
    ⟨{ base with trust := { base.trust with bootFail := some 3 } }, by decide +kernel⟩, ⟨turning 48500000 {} [(47 * 64 + 60, { rot := .shadow })], 47 * 64, 47 * 64 + 60, by decide +kernel⟩,
    ⟨{ turning 200099 stepOne drains with cur := (withStr base fun x => { x with counts := { loads := 1 } }).cur }, by decide +kernel⟩,
    ⟨turning 200100 stepOne drains, by decide +kernel⟩, ⟨turning 200101 stepOne drains, by decide +kernel⟩⟩

/-- The final copy with the cluster that takes over gone, at its least time (R282: 1 µs and 25,576 segments' worth of bytes) and before it, of a hosted and of an empty cluster; the window at and below its end. -/
theorem meets_RotationStepsAndMapPublications_2 :
    (∃ s : State, s.stepping 0 = some 0 ∧ (s.chip 0).phase = 2 ∧ (s.chip 0).dest = 60 ∧ (0 : Nat) ≠ 60 ∧ (s.chip 0).retiredWhole = false ∧ s.destOk 0 60 = false)
    ∧ (∀ m ∈ [([] : List Nat), [0]], ∀ t ∈ [25675, 25676], ∃ s : State, s.stepping 0 = some 0 ∧ (s.chip 0).phase = 2 ∧ (s.chip 0).dest = 60 ∧ (0 : Nat) ≠ 60 ∧ (s.chip 0).retiredWhole = false ∧ s.destOk 0 60 = true ∧ (s.cluster 0).router = true ∧ s.hosted 0 = m ∧ s.ptime = t ∧ (s.chip 0).stepAt + s.copyNs 0 0 60 = 25676 ∧ s.allStrands = [])
    ∧ (∀ t ∈ [50099, 50100], ∃ s : State, (s.chip 0).phase = 3 ∧ s.ptime = t ∧ (s.chip 0).stepAt + 50000 = 50100) := by
  simp only [List.forall_mem_cons, List.not_mem_nil, false_imp_iff, implies_true, and_true]
  exact ⟨⟨turning 0 { stepOne with phase := 2 } (copied false), by decide +kernel⟩,
    ⟨⟨⟨{ turning 25675 { stepOne with phase := 2 } (copied true) with map := [] }, by decide +kernel⟩, ⟨{ turning 25676 { stepOne with phase := 2 } (copied true) with map := [] }, by decide +kernel⟩⟩,
      ⟨⟨turning 25675 { stepOne with phase := 2 } (copied true), by decide +kernel⟩, ⟨turning 25676 { stepOne with phase := 2 } (copied true), by decide +kernel⟩⟩⟩,
    ⟨turning 50099 { phase := 3, stepAt := 100 } [], by decide +kernel⟩, ⟨turning 50100 { phase := 3, stepAt := 100 } [], by decide +kernel⟩⟩

/-- Self-tests at and below their end, of a condemned cluster, with and without a shadow, and of one that has not been out longest; a patch of the last segment; routers and retired clusters, with three out, four out and a shadow, and none. -/
theorem meets_RotationStepsAndMapPublications_3 :
    (∀ t ∈ [24999999, 25000000], 61 < 48 * 64 ∧ ((testing t .shadow id).cluster 61).rot = .test ∧ (testing t .shadow id).trust.bootFail = none ∧ (testing t .shadow id).pubReqs = [] ∧ ((testing t .shadow id).cluster 61).testEnd = 25000000 ∧ (testing t .shadow id).ptime = t)
    ∧ ((testing 25000000 .shadow fun c => { c with condemned := true }).cluster 61).condemned = true ∧ ((testing 25000000 .shadow id).cluster 61).condemned = false ∧ (testing 25000000 .shadow id).inState (chipOf 61) .shadow = [60]
    ∧ ((testing 25000000 .inService id).inState (chipOf 61) .shadow = [] ∧ (testing 25000000 .inService id).longestOut (chipOf 61) = some 61 ∧ ((testing 25000000 .inService id).cluster 61).condemned = false)
    ∧ (testing 25000000 .inService fun c => { c with testEnd := 60000000 }).longestOut (chipOf 61) = some 62
    ∧ (∃ (s : State) (k d : Nat) (l : List Nat), s.inState 0 .shadow = k :: l ∧ d = 0 * 64 + (s.chip 0).due ∧ (s.cluster d).rot = .due ∧ (s.chip 0).phase ≠ 1 ∧ (s.chip 0).phase ≠ 2 ∧ 351 ∈ s.segments d ∧ 351 ∉ (s.chip 0).clean)
    ∧ (∃ s : State, (s.cluster 3071).router = false ∧ (s.cluster 3071).rot ≠ .retired) := by
  refine ⟨by decide +kernel, by decide +kernel, by decide +kernel, by decide +kernel, by decide +kernel, by decide +kernel,
    ⟨turning 0 {} [(60, { rot := .shadow })], 60, _, [], by decide +kernel, rfl, by decide +kernel⟩, ⟨turning 0 {} [(3071, { rot := .test, router := false })], by decide +kernel⟩⟩

theorem meets_RotationStepsAndMapPublications_4 :
    ∀ l ∈ [[], [(3067, ({ rot := .shadow } : Cluster))], [(3067, { rot := .test })]], ∃ s : State, 3071 < 48 * 64 ∧ s.cpRuns = true ∧ (s.cluster 3071).rot = .retired ∧ s.present 3071 = true ∧ s.chipAbsent (chipOf 3071) = false ∧ (s.chip (chipOf 3071)).retiredWhole = false ∧ (s.cluster 3071).router = true
      ∧ s.outCount (chipOf 3071) = 3 + l.length ∧ s.inState (chipOf 3071) .shadow = (if l = [(3067, { rot := .shadow })] then [59] else []) ∧ (s.chip (chipOf 3071)).phase = 0 := by
  simp only [List.forall_mem_cons, List.not_mem_nil, false_imp_iff, implies_true, and_true]
  exact ⟨⟨turning 0 {} [(3071, { rot := .retired })], by decide +kernel⟩, ⟨turning 0 {} [(3067, { rot := .shadow }), (3071, { rot := .retired })], by decide +kernel⟩, ⟨turning 0 {} [(3067, { rot := .test }), (3071, { rot := .retired })], by decide +kernel⟩⟩
/-! Health, power and the host port; queue registers and the aperture. -/

/-- The last die that carries a counter; the first and the last performance event code and a counter that counts it and one that is off; die temperatures at and above the trip point for each kind of die; the boot self-test of a chiplet and of another die, and of a panel that was too hot; widths of the host port; a sweep at and below its interval; a hosting and an empty cluster at their limits. -/
theorem meets_HealthPowerAndHostPortEvents :
    (0x202 ∈ counterDies ∧ 0x202 ∉ base.lostDies) ∧ (1 ≤ 0x0C ∧ (0x10C : BitVec 9).getLsbD 8 = true ∧ ((0x10C : BitVec 9).extractLsb' 0 8).toNat = 0x0C ∧ (0x00C : BitVec 9).getLsbD 8 = false)
    ∧ (∀ d ∈ [47, 0x117, 0x200, 0x201, 0x202], 440 < 441 ∧ d ∉ base.lostDies)
    ∧ (∃ (s : State) (c : Ctx), s.ctx? 1 = some c ∧ 64 ∈ ({ c with vcfirst := 64 } : Ctx).vcns ∧ 0 ∈ c.vcns ∧ (s.mapNow 0).valid = true ∧ (s.mapNow 0).nonres = false ∧ chipOf (s.mapNow 0).pcn = 0 ∧ s.hostIf.errTail - s.hostIf.errHead < 256)
    ∧ ((∃ d ∈ [5, 0x100], 48 ≤ d) ∧ ∀ d ∈ [5, 47], d < 48) ∧ (∃ s : State, s.hostIf.ageStore.get? 3071 = some 0x1020003) ∧ base.cpRuns = true ∧ ({ base with lostDies := [0x200] } : State).cpRuns = false
    ∧ (base.hostIf.up = false ∧ ({ base with hostIf := { up := true } } : State).hostIf.up = true)
    ∧ (∃ (s : State) (e : Nat × Cluster), e ∈ s.clusters ∧ s.watched e.1 = true ∧ 4 ≤ e.2.resid ∧ s.hosted e.1 ≠ [])
    ∧ (∃ (s : State) (e : Nat × Cluster), e ∈ s.clusters ∧ s.watched e.1 = true ∧ e.2.risk = 255 ∧ s.hosted e.1 = [] ∧ e.2.rot ≠ .draining ∧ e.2.rot ≠ .copying ∧ s.hostIf.up = true ∧ s.hostIf.riskIrq < e.2.risk ∧ s.hostIf.risk ≤ s.hostIf.riskIrq)
    ∧ (∀ t ∈ [1600000004, 1600000005], ∃ s : State, s.cpRuns = true ∧ s.ptime = t ∧ s.hostIf.sweepAt + 1600000000 = 1600000005)
    ∧ (∀ b ∈ [true, false], ∃ s : State, s.trust.hot = true ∧ s.trust.cooled = b)
    ∧ (∃ s : State, s.aligned 5 = true ∧ s.aligned 6 = false ∧ s.hostIf.beaconAt.get? 6 ≠ none) := by
  simp only [List.forall_mem_cons, List.not_mem_nil, false_imp_iff, implies_true, and_true]
  refine ⟨by decide +kernel, by decide +kernel, by decide +kernel, ⟨base, ctxOne, by decide +kernel⟩, by decide +kernel, ⟨{ base with hostIf := { ageStore := [(3071, 0x1020003)] } }, by decide +kernel⟩, by decide +kernel, by decide +kernel, by decide +kernel,
    ⟨{ base with clusters := [(0, { resid := 4 })] }, (0, { resid := 4 }), by decide +kernel⟩,
    ⟨{ base with hostIf := { up := true, riskIrq := 10 }, clusters := [(9, { corr := 65535, margin := 255 })] }, (9, { corr := 65535, margin := 255 }), by decide +kernel⟩,
    ⟨⟨{ base with ptime := 1600000004, hostIf := { sweepAt := 5 } }, by decide +kernel⟩, ⟨{ base with ptime := 1600000005, hostIf := { sweepAt := 5 } }, by decide +kernel⟩⟩,
    ⟨⟨{ base with trust := { base.trust with hot := true, cooled := true } }, rfl, rfl⟩, ⟨{ base with trust := { base.trust with hot := true } }, rfl, rfl⟩⟩,
    ⟨{ base with ptime := 1000007, hostIf := { beaconAt := [(5, 8), (6, 7)] } }, by decide +kernel⟩⟩

def atQueue (f : Queue → Queue) : State := { base with queues := [(1023, f {})] }
/-- A context descriptor of one virtual cluster at HBM address 0, and its bytes. -/
def opening : List Byte := toLe 8 0x80000 ++ toLe 4 4095 ++ toLe 4 0 ++ toLe 8 0x1000 ++ toLe 8 0 ++ toLe 8 0 ++ toLe 8 0x800000 ++ toLe 8 0x30000 ++ toLe 8 0 ++ toLe 2 4095 ++ toLe 2 1 ++ toLe 4 0 ++ toLe 8 0 ++ List.replicate 48 0
def manyQueues (n : Nat) : State := { base with queues := (List.range n).map fun k => (k, { enable := true, st := .idle, asid := some 1 }) }
def openable (m : Memory) : State := { atQueue id with mem := m }
def aperture (f : HostIf → HostIf) : State := { filled base with hostIf := f { apEnable := true } }

/-- QTAIL of a disabled queue, of an enabled one within and past its ring; enabling with a known descriptor whose context holds 63 queues and 64, with one that opens and with one that does not; disabling the last queue and one of two; reset on and off; pre-emption; each register; the aperture at its limit, without and with its key; writes at a claim and clear of it. -/
theorem meets_QueueRegistersAndTheAperture :
    (∀ v ∈ [(16 : Word), 17], ∃ x : Queue, x = (atQueue fun x => { x with enable := true, st := .idle }).queue 1023 ∧ x.skip = 0 ∧ x.enable = true ∧ x.st ≠ .stopped ∧ x.st ≠ .killed ∧ ({ x with tail := v.truncate 32 } : Queue).badTail = (v == 17))
    ∧ ((atQueue id).cpRuns = true ∧ ((atQueue id).queue 1023).enable = false ∧ ((atQueue id).queue 1023).loops = [])
    ∧ (∃ (s : State) (x : Queue), x = s.queue 1023 ∧ x.enable = false ∧ bitsOf (0x1 : Word) 0 0 = 1 ∧ bitsOf (0x1 : Word) 32 32 = 0 ∧ bitsOf (0x1 : Word) 33 33 = 0 ∧ (x.tail - x.head).toNat ≤ 2 ^ x.rsize ∧ s.ctxs.find? (fun e => e.2.desc == x.desc) = some (1, ctxOne))
    ∧ (∀ n ∈ [63, 64], ((manyQueues n).queue 1023).enable = false ∧ (((manyQueues n).setQueue 1023 { (manyQueues n).queue 1023 with prio := 0, weight := ((manyQueues n).queue 1023).weight, wdlim := 0 }).queuesOf 1).filter (fun k => k != 1023 && ((manyQueues n).queue k).enable) = List.range n)
    ∧ (∀ b ∈ [true, false], ∃ (s u : State) (x : Queue) (w : Option (Nat × State)), x = s.queue 1023 ∧ x.enable = false ∧ (x.tail - x.head).toNat ≤ 2 ^ x.rsize ∧ s.ctxs.find? (fun e => e.2.desc == x.desc) = none
        ∧ u = s.setQueue 1023 { x with prio := 0, weight := x.weight, wdlim := 0 } ∧ w = u.openContext x.desc ∧ w.isSome = b)
    ∧ (∃ (a : Nat) (c : Ctx), parseDesc 0 opening = some (a, c) ∧ a = 4095)
    ∧ (∀ b ∈ [true, false], ∃ (s : State) (x : Queue), x = s.queue 1023 ∧ x.enable = true ∧ x.asid = some 1 ∧ s.queuesOf 1 ≠ [] ∧ (if b then ∃ p ∈ s.queuesOf 1, p ≠ 1023 ∧ (s.queue p).enable = true else ∀ p ∈ s.queuesOf 1, p ≠ 1023 → (s.queue p).enable = false))
    ∧ (bitsOf (0x100000000 : Word) 32 32 = 1 ∧ bitsOf (0x200000001 : Word) 0 0 = 1 ∧ bitsOf (0x200000001 : Word) 33 33 = 1 ∧ bitsOf (0x200000001 : Word) 32 32 = 0)
    ∧ (∃ (s : State) (c : Ctx), (s.queue 1023).enable = true ∧ (s.queue 1023).asid = some 1 ∧ s.ctx? 1 = some c ∧ c.resident = true ∧ c.stopped = false ∧ c.stopReq = false)
    ∧ (∃ (s : State) (v : Word), s.cpRuns = true ∧ s.hostIf.errHead ≤ v.toNat ∧ v.toNat ≤ s.hostIf.errTail ∧ v = 5) ∧ (∃ (s : State) (v : Word), v.toNat < s.hostIf.errHead)
    ∧ (base.hostIf.apEnable = false ∧ 2 ^ 36 < (2 ^ 36 - 8) + 16 ∧ (2 ^ 36 - 8) + 8 ≤ 2 ^ 36)
    ∧ (∃ s : State, s.hostIf.apEnable = true ∧ s.keys.get? s.hostIf.apKey = none ∧ s.hostIf.errTail - s.hostIf.errHead < 256)
    ∧ (∃ (s : State) (k a : Nat), s.hostIf.apEnable = true ∧ s.keys.get? s.hostIf.apKey = some k ∧ s.migrations = [] ∧ a = s.hostIf.apStack * 2 ^ 36 + 0x10000 ∧ readErr s.mem s.lostDies (some k) 64 a 64 = none
        ∧ s.claimed true [{ va := 0, loc := .hbm a s.hostIf.apKey, n := 8 }] = false ∧ a % 64 + 8 ≤ 64 ∧ writeErr s.mem s.lostDies (some k) 8 a ((List.replicate 8 (1 : Byte)).map some) = none)
    ∧ (∃ (s : State) (k a : Nat), s.hostIf.apEnable = true ∧ s.keys.get? s.hostIf.apKey = some k ∧ s.migrations = [] ∧ a = s.hostIf.apStack * 2 ^ 36 + 0x10000 ∧ s.claimed true [{ va := 0, loc := .hbm a s.hostIf.apKey, n := 8 }] = true)
    ∧ (∃ s : State, s.hostIf.held ≠ [] ∧ s.drainHeld.hostIf.held ≠ []) ∧ base.hostIf.held = [] := by
  simp only [List.forall_mem_cons, List.not_mem_nil, false_imp_iff, implies_true, and_true]
  refine ⟨⟨⟨_, rfl, by decide +kernel⟩, ⟨_, rfl, by decide +kernel⟩⟩, by decide +kernel, ⟨atQueue id, _, rfl, by decide +kernel⟩, by decide +kernel,
    ⟨⟨{ openable { memOf [(0, opening)] with blockKey := [(0, 7), (1, 7)] } with ctxs := [] }, _, _, _, rfl, by decide +kernel, by decide +kernel, by decide +kernel, rfl, rfl, by decide +kernel⟩, ⟨{ openable {} with ctxs := [] }, _, _, _, rfl, by decide +kernel, by decide +kernel, by decide +kernel, rfl, rfl, by decide +kernel⟩⟩,
    ⟨4095, ((parseDesc 0 opening).getD (0, ctxOne)).2, by decide +kernel⟩,
    ⟨⟨{ atQueue id with queues := [(0, { enable := true, asid := some 1 }), (1023, { enable := true, asid := some 1 })] }, _, rfl, by decide +kernel⟩, ⟨{ atQueue id with queues := [(1023, { enable := true, asid := some 1 })] }, _, rfl, by decide +kernel⟩⟩, by decide +kernel,
    ⟨{ atQueue id with queues := [(1023, { enable := true, asid := some 1 })] }, ctxOne, by decide +kernel⟩, ⟨{ base with hostIf := { errHead := 5, errTail := 5 } }, 5, by decide +kernel⟩, ⟨{ base with hostIf := { errHead := 5, errTail := 5 } }, 4, by decide +kernel⟩, by decide +kernel,
    ⟨aperture fun h => { h with apKey := 255 }, by decide +kernel⟩, ⟨aperture id, 7, 0x10000, by decide +kernel⟩,
    ⟨{ aperture id with claims := [{ owner := 9, write := true, bank := (banksOf 0x10000 8).getD 0 0, lo := 0x10007, hi := 0x10010 }] }, 7, 0x10000, by decide +kernel⟩,
    ⟨{ (aperture fun h => { h with held := [(0x10000, List.replicate 8 1)] }) with claims := [{ owner := 9, write := true, bank := (banksOf 0x10000 8).getD 0 0, lo := 0x10007, hi := 0x10010 }] }, by decide +kernel⟩, by decide +kernel⟩
/-! Packets. -/

/-- A packet of this OP and these flags, its ADDR, the words at 0x10 and 0x18, and the half word at 0x20. -/
def packet (op fl : Byte) (addr a b : Nat) (c : Nat := 0) : List Byte := [op, fl, 0, 0, 0, 0, 0, 0] ++ toLe 8 addr ++ toLe 8 a ++ toLe 8 b ++ toLe 2 c ++ List.replicate 30 0
/-- A launch header at its limits: one field of 6 bits, the last virtual cluster of the context, the pool at the end of the scratchpad. -/
def launchBytes (entry vcbase : Nat) : List Byte := toLe 8 entry ++ toLe 8 9 ++ [6, 0, 0, 0, 0, 0, 1, 0] ++ toLe 8 0 ++ (toLe 4 64 ++ toLe 4 1 ++ toLe 4 1 ++ toLe 4 1 ++ toLe 4 1 ++ toLe 4 1) ++ toLe 2 vcbase ++ toLe 2 1 ++ toLe 4 0xFF000 ++ toLe 2 64 ++ toLe 2 0 ++ toLe 4 0 ++ toLe 8 0 ++ List.replicate 48 0
/-- Queue 0 of context 1 with a ring of 64 packets at 0x34000, this packet in its first place, a launch header at 0x35000, extents at 0x35100, the word 5 at 0x35200, a line of one head at 0x35300. -/
def queueAt (p hdr : List Byte) (f : Queue → Queue) : State :=
  { base with queues := [(0, f { enable := true, st := .idle, asid := some 1, base := 0x34000, rsize := 6, tail := 1 })], kernels := []
              mem := { tables with cells := tables.cells ++ (memOf [(2 ^ 45 + 0x4000, p), (2 ^ 45 + 0x5000, hdr), (2 ^ 45 + 0x5100, toLe 4 32 ++ toLe 4 1 ++ toLe 4 1 ++ toLe 4 1 ++ toLe 4 1 ++ toLe 4 1), (2 ^ 45 + 0x5200, [5]), (2 ^ 45 + 0x5300, [1])]).cells } }
def busy (s : State) : State := { s with kernels := [(0, kernelOne)] }
def cpIs (r : CpRead) (p : List Byte) : Bool := match r with | .bytes b => decide (b = p) | _ => false
theorem cp_is {r : CpRead} {p : List Byte} (h : cpIs r p = true) : r = .bytes p := by
  cases r with
  | bytes b => simpa [cpIs] using h
  | fault => simp [cpIs] at h
  | retry => simp [cpIs] at h
def cpFaults (r : CpRead) : Bool := match r with | .fault => true | _ => false
theorem cp_faults {r : CpRead} (h : cpFaults r = true) : r = .fault := by
  cases r with
  | fault => rfl
  | bytes b => simp [cpFaults] at h
  | retry => simp [cpFaults] at h
def cpAgain (r : CpRead) : Bool := match r with | .retry => true | _ => false
theorem cp_again {r : CpRead} (h : cpAgain r = true) : r = .retry := by
  cases r with
  | retry => rfl
  | bytes b => simp [cpAgain] at h
  | fault => simp [cpAgain] at h
theorem at_packet {s : State} {q : Nat} {p : List Byte} (h : (s.queue q).atPacket = true ∧ s.turnOf q = true ∧ (s.queue q).failNext = none ∧ (s.queue q).armed = false ∧ cpIs (s.packetOf q) p = true ∧ badPacket p (s.queue q).rsize = false) : AtPacket s q p :=
  ⟨h.1, h.2.1, h.2.2.1, h.2.2.2.1, cp_is h.2.2.2.2.1, h.2.2.2.2.2⟩

/-- Packets that wait: a launch for its dependence, a COND, a WAIT for its word, a SIGNAL; packets that do not: a NOP, a launch and a LAUNCHI with good and bad headers, a LOOP that opens with COUNT 1 and 2 and a fifth, one that is open with none and one pass left, a WAIT and a COND that hold, a COND that does not before the tail, a SIGNAL that adds and interrupts. -/
theorem meets_PacketsOfAQueue_1 :
    (∀ p ∈ [packet 1 0 0x35000 0 0, packet 2 0 0x35000 0x35100 0, packet 4 0 0x35200 0xFF 5, packet 5 0 0x35200 0xFF 4, packet 6 0 0x35200 1 0], ∃ s : State, AtPacket s 0 p ∧ s.pkWaits 0 p = true)
    ∧ (∀ p ∈ [packet 0 0 0 0 0, packet 1 2 0x35000 0 0, packet 2 2 0x35000 0x35100 0, packet 3 0 (1 + 2 ^ 32) 0 0, packet 3 0 (2 + 63 * 2 ^ 32) 0 0, packet 4 0 0x35200 0xFF 5, packet 5 3 0x35200 0xFF 5, packet 6 7 0x35200 1 2],
        ∃ (s : State) (x : Queue), AtPacket s 0 p ∧ s.pkWaits 0 p = false ∧ x = s.queue 0 ∧ (∀ e ∈ x.loops, e.1 ≠ x.next) ∧ x.loops.length < 4)
    ∧ (∃ (s : State) (p : List Byte) (x : Queue) (c : Ctx) (h : Header), AtPacket s 0 p ∧ s.pkWaits 0 p = false ∧ pkOp p = 1 ∧ x = s.queue 0 ∧ x.asid = some 1 ∧ s.ctx? 1 = some c ∧ s.cpRead 1 (pkAddr p) 128 = .bytes (launchBytes 0x35302 3) ∧ x.trace = none ∧ c.resident = true ∧ s.checkHeader 1 c (launchBytes 0x35302 3) none = .ok h)
    ∧ (∃ (s : State) (p : List Byte) (x : Queue) (c : Ctx), AtPacket s 0 p ∧ s.pkWaits 0 p = false ∧ pkOp p = 1 ∧ x = s.queue 0 ∧ x.asid = some 1 ∧ s.ctx? 1 = some c ∧ s.cpRead 1 (pkAddr p) 128 = .bytes (launchBytes 0x35302 4) ∧ x.trace = none ∧ c.resident = true ∧ s.checkHeader 1 c (launchBytes 0x35302 4) none = .error 0x05)
    ∧ (∃ (s : State) (p eb : List Byte) (x : Queue) (c : Ctx) (h : Header), AtPacket s 0 p ∧ s.pkWaits 0 p = false ∧ pkOp p = 2 ∧ x = s.queue 0 ∧ x.asid = some 1 ∧ s.ctx? 1 = some c ∧ s.cpRead 1 (pkAddr p) 128 = .bytes (launchBytes 0x35302 3) ∧ s.cpRead 1 (field p 0x10 8) 24 = .bytes eb
        ∧ x.trace = none ∧ s.checkHeader 1 c (launchBytes 0x35302 3) (some ((List.range 6).map fun i => field eb (4 * i) 4)) = .ok h ∧ h.extents = [32, 1, 1, 1, 1, 1]) := by
  simp only [List.forall_mem_cons, List.not_mem_nil, false_imp_iff, implies_true, and_true]
  refine ⟨⟨⟨busy (queueAt (packet 1 0 0x35000 0 0) [] id), at_packet (by decide +kernel), by decide +kernel⟩, ⟨busy (queueAt (packet 2 0 0x35000 0x35100 0) [] id), at_packet (by decide +kernel), by decide +kernel⟩,
      ⟨busy (queueAt (packet 4 0 0x35200 0xFF 5) [] id), at_packet (by decide +kernel), by decide +kernel⟩, ⟨queueAt (packet 5 0 0x35200 0xFF 4) [] id, at_packet (by decide +kernel), by decide +kernel⟩, ⟨busy (queueAt (packet 6 0 0x35200 1 0) [] id), at_packet (by decide +kernel), by decide +kernel⟩⟩,
    ⟨⟨queueAt (packet 0 0 0 0 0) [] id, _, at_packet (by decide +kernel), by decide +kernel, rfl, by decide +kernel⟩, ⟨queueAt (packet 1 2 0x35000 0 0) [] id, _, at_packet (by decide +kernel), by decide +kernel, rfl, by decide +kernel⟩,
      ⟨queueAt (packet 2 2 0x35000 0x35100 0) [] id, _, at_packet (by decide +kernel), by decide +kernel, rfl, by decide +kernel⟩, ⟨queueAt (packet 3 0 (1 + 2 ^ 32) 0 0) [] id, _, at_packet (by decide +kernel), by decide +kernel, rfl, by decide +kernel⟩,
      ⟨queueAt (packet 3 0 (2 + 63 * 2 ^ 32) 0 0) [] id, _, at_packet (by decide +kernel), by decide +kernel, rfl, by decide +kernel⟩, ⟨queueAt (packet 4 0 0x35200 0xFF 5) [] id, _, at_packet (by decide +kernel), by decide +kernel, rfl, by decide +kernel⟩,
      ⟨queueAt (packet 5 3 0x35200 0xFF 5) [] id, _, at_packet (by decide +kernel), by decide +kernel, rfl, by decide +kernel⟩, ⟨queueAt (packet 6 7 0x35200 1 2) [] id, _, at_packet (by decide +kernel), by decide +kernel, rfl, by decide +kernel⟩⟩,
    ⟨queueAt (packet 1 2 0x35000 0 0) (launchBytes 0x35302 3) id, _, _, ctxOne, _, at_packet (p := packet 1 2 0x35000 0 0) (by decide +kernel), by decide +kernel, by decide +kernel, rfl, by decide +kernel, by decide +kernel, cp_is (by decide +kernel), by decide +kernel, rfl, okD_eq (d := hdrOne) (by decide +kernel)⟩,
    ⟨queueAt (packet 1 2 0x35000 0 0) (launchBytes 0x35302 4) id, _, _, ctxOne, at_packet (p := packet 1 2 0x35000 0 0) (by decide +kernel), by decide +kernel, by decide +kernel, rfl, by decide +kernel, by decide +kernel, cp_is (by decide +kernel), by decide +kernel, rfl, error_is (by decide +kernel)⟩,
    ⟨queueAt (packet 2 2 0x35000 0x35100 0) (launchBytes 0x35302 3) id, _, toLe 4 32 ++ toLe 4 1 ++ toLe 4 1 ++ toLe 4 1 ++ toLe 4 1 ++ toLe 4 1, _, ctxOne, _, at_packet (p := packet 2 2 0x35000 0x35100 0) (by decide +kernel), by decide +kernel, by decide +kernel, rfl, by decide +kernel, by decide +kernel,
      cp_is (by decide +kernel), cp_is (by decide +kernel), by decide +kernel, okD_eq (d := hdrOne) (by decide +kernel), by decide +kernel⟩⟩

def signal : List Byte := packet 6 7 0x35200 1 2
def signalled : State := queueAt signal [] id
def signalPieces : List Seg := okD (signalled.signalSegs 1 (pkAddr signal) (pkFlags signal % 2 == 1)) []
/-- A SIGNAL that writes host memory and interrupts. -/
def hostSignal : List Byte := packet 6 6 0x90200 1 2
def signalledHost : State := queueAt hostSignal [] id
def hostPieces : List Seg := okD (signalledHost.signalSegs 1 (pkAddr hostSignal) (pkFlags hostSignal % 2 == 1)) []

theorem meets_PacketsOfAQueue_2 :
    (∃ (s : State) (p : List Byte) (x : Queue), AtPacket s 0 p ∧ s.pkWaits 0 p = false ∧ pkOp p = 3 ∧ x = s.queue 0 ∧ (∀ e ∈ x.loops, e.1 ≠ x.next) ∧ 4 ≤ x.loops.length)
    ∧ (∀ n ∈ [0, 1], ∃ (s : State) (p : List Byte) (x : Queue), AtPacket s 0 p ∧ s.pkWaits 0 p = false ∧ pkOp p = 3 ∧ x = s.queue 0 ∧ x.loops = (x.next, 63, n) :: [(9, 2, 3)])
    ∧ (∃ (s : State) (p b : List Byte) (x : Queue), AtPacket s 0 p ∧ s.pkWaits 0 p = false ∧ pkOp p = 5 ∧ x = s.queue 0 ∧ x.asid = some 1 ∧ s.cpRead 1 (pkAddr p) 8 = .bytes b)
    ∧ (∀ v ∈ [5, 4], ∃ (s : State) (p b : List Byte) (x : Queue), AtPacket s 0 p ∧ s.pkWaits 0 p = false ∧ pkOp p = 4 ∧ x = s.queue 0 ∧ x.asid = some 1 ∧ s.cpRead 1 (pkAddr p) 8 = .bytes b ∧ pkTest p (leNat b) = (v == 5) ∧ x.next + 1 = x.tail)
    ∧ (∃ (s : State) (p : List Byte) (x : Queue) (segs : List Seg) (o : List Byte) (u : State), AtPacket s 0 p ∧ s.pkWaits 0 p = false ∧ x = s.queue 0 ∧ pkOp p = 6 ∧ x.asid = some 1 ∧ s.signalSegs 1 (pkAddr p) (pkFlags p % 2 == 1) = .ok segs ∧ s.segsAway segs = false ∧ s.devFault true segs = none ∧ s.claimed true segs = false ∧ s.depositsLater segs = false ∧ (if pkFlags p % 2 = 1 then s.readSegs segs else .ok []) = .ok o ∧ s.writeSegs segs ((toLe 8 (leNat o + field p 0x10 8)).map some) = .ok u ∧ leNat o = 5)
    ∧ (∃ (s : State) (p : List Byte) (x : Queue) (segs : List Seg) (u : State) (g : Seg) (h : Nat), AtPacket s 0 p ∧ s.pkWaits 0 p = false ∧ x = s.queue 0 ∧ pkOp p = 6 ∧ x.asid = some 1 ∧ s.signalSegs 1 (pkAddr p) (pkFlags p % 2 == 1) = .ok segs ∧ s.segsAway segs = false
        ∧ s.devFault true segs = none ∧ s.claimed true segs = false ∧ s.depositsLater segs = false ∧ pkFlags p = 6 ∧ s.writeSegs segs ((toLe 8 (leNat [] + field p 0x10 8)).map some) = .ok u ∧ g ∈ segs ∧ g.loc = .host h)
    ∧ (∃ (s : State) (c : Ctx) (h : Header), s.checkHeader 1 c (launchBytes 0x35302 3) none = .ok h)
    ∧ (∃ s : State, (s.queue 0).atPacket = true ∧ s.turnOf 0 = true ∧ (s.queue 0).failNext = none ∧ (s.queue 0).armed = true)
    ∧ (∃ s : State, (s.queue 0).atPacket = true ∧ s.turnOf 0 = true ∧ (s.queue 0).failNext = none ∧ (s.queue 0).armed = false ∧ s.packetOf 0 = .fault)
    ∧ (∃ s : State, (s.queue 0).atPacket = true ∧ s.turnOf 0 = true ∧ (s.queue 0).failNext = none ∧ (s.queue 0).armed = false ∧ s.packetOf 0 = .retry)
    ∧ (∀ q ∈ [packet 7 0 0 0 0, packet 3 0 (2 + 64 * 2 ^ 32) 0 0, packet 6 7 0x35200 1 1], ∃ (s : State) (p : List Byte), (s.queue 0).atPacket = true ∧ s.turnOf 0 = true ∧ (s.queue 0).failNext = none ∧ (s.queue 0).armed = false ∧ s.packetOf 0 = .bytes p ∧ p = q ∧ badPacket p (s.queue 0).rsize = true)
    ∧ (∀ f ∈ [(fun x => { x with st := .blocked } : Queue → Queue), fun x => { x with waits := true }], ∃ (s u : State) (p b : List Byte) (x : Queue), s = queueAt (packet 5 3 0x35200 0xFF 5) [] f ∧ x = s.queue 0 ∧ (x.st = .blocked ∨ x.waits = true) ∧ x.enable = true ∧ u = s.setQueue 0 { x with st := .idle, waits := false } ∧ AtPacket u 0 p ∧ u.pkWaits 0 p = false ∧ pkOp p = 5 ∧ x.asid = some 1 ∧ s.cpRead 1 (pkAddr p) 8 = .bytes b)
    ∧ (∀ t ∈ [999999, 1000000], ∃ s : State, s.processable 0 = true ∧ (s.queue 0).readySince = some 0 ∧ s.ptime = t) ∧ (∃ s : State, s.processable 0 = false)
    ∧ (∀ p ∈ [packet 0 0 0 0 0, packet 5 0 0x35200 0xFF 4], ∃ (s : State) (x : Queue), s.queues.get? 0 = some x ∧ s.processable 0 = (p == packet 0 0 0 0 0))
    ∧ (∀ t ∈ [9999, 10000], ∃ (s u : State) (p : List Byte) (x : Queue), x = s.queue 0 ∧ x.retry = true ∧ x.st = .idle ∧ x.enable = true ∧ u = s.setQueue 0 { x with retry := false } ∧ x.since = 0 ∧ s.ptime = t ∧ AtPacket u 0 p ∧ u.pkWaits 0 p = false ∧ pkOp p = 0)
    ∧ (∃ s : State, (s.queue 0).starved = true ∧ (s.queue 1).starved = false) ∧ (∃ s : State, (s.queue 0).starved = false ∧ (s.queue 1).starved = false ∧ (s.queue 1).prio < (s.queue 0).prio)
    ∧ (∃ s : State, (s.queue 3).starved = false ∧ (s.queue 1).starved = false ∧ (s.queue 1).prio = (s.queue 3).prio ∧ s.lastQueue.get? (s.queue 3).prio = some 2) := by
  simp only [List.forall_mem_cons, List.not_mem_nil, false_imp_iff, implies_true, and_true]
  refine ⟨⟨queueAt (packet 3 0 (2 + 63 * 2 ^ 32) 0 0) [] fun x => { x with loops := [(1, 1, 1), (2, 1, 1), (3, 1, 1), (4, 1, 1)] }, _, _, at_packet (p := packet 3 0 (2 + 63 * 2 ^ 32) 0 0) (by decide +kernel), by decide +kernel, by decide +kernel, rfl, by decide +kernel, by decide +kernel⟩,
    ⟨⟨queueAt (packet 3 0 (2 + 63 * 2 ^ 32) 0 0) [] fun x => { x with loops := [(0, 63, 0), (9, 2, 3)] }, _, _, at_packet (p := packet 3 0 (2 + 63 * 2 ^ 32) 0 0) (by decide +kernel), by decide +kernel, by decide +kernel, rfl, by decide +kernel⟩,
      ⟨queueAt (packet 3 0 (2 + 63 * 2 ^ 32) 0 0) [] fun x => { x with loops := [(0, 63, 1), (9, 2, 3)] }, _, _, at_packet (p := packet 3 0 (2 + 63 * 2 ^ 32) 0 0) (by decide +kernel), by decide +kernel, by decide +kernel, rfl, by decide +kernel⟩⟩,
    ⟨queueAt (packet 5 3 0x35200 0xFF 5) [] id, _, [5, 0, 0, 0, 0, 0, 0, 0], _, at_packet (p := packet 5 3 0x35200 0xFF 5) (by decide +kernel), by decide +kernel, by decide +kernel, rfl, by decide +kernel, cp_is (by decide +kernel)⟩,
    ⟨⟨queueAt (packet 4 0 0x35200 0xFF 5 1024) [] id, _, [5, 0, 0, 0, 0, 0, 0, 0], _, at_packet (p := packet 4 0 0x35200 0xFF 5 1024) (by decide +kernel), by decide +kernel, by decide +kernel, rfl, by decide +kernel, cp_is (by decide +kernel), by decide +kernel, by decide +kernel⟩,
      ⟨queueAt (packet 4 0 0x35200 0xFF 4 1024) [] id, _, [5, 0, 0, 0, 0, 0, 0, 0], _, at_packet (p := packet 4 0 0x35200 0xFF 4 1024) (by decide +kernel), by decide +kernel, by decide +kernel, rfl, by decide +kernel, cp_is (by decide +kernel), by decide +kernel, by decide +kernel⟩⟩,
    ⟨signalled, signal, _, signalPieces, [5, 0, 0, 0, 0, 0, 0, 0], okD (signalled.writeSegs signalPieces ((toLe 8 6).map some)) base, at_packet (by decide +kernel), by decide +kernel, rfl, by decide +kernel, by decide +kernel, okD_eq (by decide +kernel), by decide +kernel, by decide +kernel, by decide +kernel, by decide +kernel,
      ok_is (by decide +kernel), okD_eq (by decide +kernel), by decide +kernel⟩,
    ⟨signalledHost, hostSignal, _, hostPieces, okD (signalledHost.writeSegs hostPieces ((toLe 8 1).map some)) base, hostPieces.getD 0 counter, 0x200, at_packet (by decide +kernel), by decide +kernel, rfl, by decide +kernel, by decide +kernel, okD_eq (by decide +kernel), by decide +kernel, by decide +kernel, by decide +kernel,
      by decide +kernel, by decide +kernel, okD_eq (by decide +kernel), by decide +kernel⟩,
    ⟨queueAt (packet 1 2 0x35000 0 0) [] id, ctxOne, _, okD_eq (d := hdrOne) (by decide +kernel)⟩,
    ⟨queueAt (packet 0 0 0 0 0) [] fun x => { x with breaks := [0] }, by decide +kernel⟩,
    ⟨queueAt [] [] fun x => { x with base := 0xB0000 }, by decide +kernel, by decide +kernel, by decide +kernel, by decide +kernel, cp_faults (by decide +kernel)⟩,
    ⟨{ queueAt [] [] id with map := [(0, { pcn := 0, valid := true, nonres := true })] }, by decide +kernel, by decide +kernel, by decide +kernel, by decide +kernel, cp_again (by decide +kernel)⟩,
    ⟨⟨queueAt (packet 7 0 0 0 0) [] id, _, by decide +kernel, by decide +kernel, by decide +kernel, by decide +kernel, cp_is (by decide +kernel), rfl, by decide +kernel⟩,
      ⟨queueAt (packet 3 0 (2 + 64 * 2 ^ 32) 0 0) [] id, _, by decide +kernel, by decide +kernel, by decide +kernel, by decide +kernel, cp_is (by decide +kernel), rfl, by decide +kernel⟩,
      ⟨queueAt (packet 6 7 0x35200 1 1) [] id, _, by decide +kernel, by decide +kernel, by decide +kernel, by decide +kernel, cp_is (by decide +kernel), rfl, by decide +kernel⟩⟩,
    ⟨⟨_, _, _, [5, 0, 0, 0, 0, 0, 0, 0], _, rfl, rfl, by decide +kernel, by decide +kernel, rfl, at_packet (p := packet 5 3 0x35200 0xFF 5) (by decide +kernel), by decide +kernel, by decide +kernel, by decide +kernel, cp_is (by decide +kernel)⟩, ⟨_, _, _, [5, 0, 0, 0, 0, 0, 0, 0], _, rfl, rfl, by decide +kernel, by decide +kernel, rfl, at_packet (p := packet 5 3 0x35200 0xFF 5) (by decide +kernel), by decide +kernel, by decide +kernel, by decide +kernel, cp_is (by decide +kernel)⟩⟩,
    ⟨⟨{ queueAt (packet 0 0 0 0 0) [] (fun x => { x with readySince := some 0 }) with ptime := 999999 }, by decide +kernel⟩, ⟨{ queueAt (packet 0 0 0 0 0) [] (fun x => { x with readySince := some 0 }) with ptime := 1000000 }, by decide +kernel⟩⟩,
    ⟨queueAt (packet 5 0 0x35200 0xFF 4) [] fun x => { x with st := .blocked }, by decide +kernel⟩,
    ⟨⟨queueAt (packet 0 0 0 0 0) [] id, _, rfl, by decide +kernel⟩, ⟨queueAt (packet 5 0 0x35200 0xFF 4) [] fun x => { x with st := .blocked }, _, rfl, by decide +kernel⟩⟩,
    ⟨⟨{ queueAt (packet 0 0 0 0 0) [] (fun x => { x with retry := true }) with ptime := 9999 }, _, _, _, rfl, by decide +kernel, by decide +kernel, by decide +kernel, rfl, by decide +kernel, rfl, at_packet (p := packet 0 0 0 0 0) (by decide +kernel), by decide +kernel, by decide +kernel⟩,
      ⟨{ queueAt (packet 0 0 0 0 0) [] (fun x => { x with retry := true }) with ptime := 10000 }, _, _, _, rfl, by decide +kernel, by decide +kernel, by decide +kernel, rfl, by decide +kernel, rfl, at_packet (p := packet 0 0 0 0 0) (by decide +kernel), by decide +kernel, by decide +kernel⟩⟩,
    ⟨{ base with queues := [(0, { starved := true })] }, by decide +kernel⟩, ⟨{ base with queues := [(0, { prio := 1 })] }, by decide +kernel⟩,
    ⟨{ base with lastQueue := [(0, 2), (7, 1)] }, by decide +kernel⟩⟩
/-! The mailbox. -/

def asks (i : Inst) (op : Nat) (args : List Word) (s : State) : State := s.setMbox i { st := 1, reqOp := op, req := args }
/-- A cluster page at VA 0x100000 of virtual cluster 1, found by a walk, and a leaf for another place of the same scratchpad. -/
def walkable : State := bare.placed 0 0
def walkCtx : Ctx := (walkable.ctx? 1).getD ctxOne
def newLeaf : Word := BitVec.ofNat 64 (0x3F + 0x2 * 2 ^ 8 + (1 + 5 * 4096) * 2 ^ 16)
def moving : Migration := (walkable.migrationOf .host 1 0x10FFFF newLeaf).getD { mid := 0, asid := 0, va := 0, size := 0, old := .hbm 0 0, new := .hbm 0 0, leaf := 0, inst := .side }
def underWay (f : Migration → Migration) : State := { walkable with migrations := [f moving] }
/-- Virtual cluster 0 is present, 1 evicted, 2 moored. -/
def mapped : State := { base with map := [(0, { pcn := 0, valid := true }), (1, { pcn := 1, valid := true, nonres := true }), (2, { pcn := 64, valid := true, moored := true })] }
def moveArgs : List Word := [1, 0x10FFFF, newLeaf, 0]

/-- MIGRATE of no context and of a page, free and claimed; a block with and without an error; the flip after the last block; MOOR and UNMOOR past the last virtual cluster, of an invalid, an evicted and a present one, of the ninth of a chiplet; PEERSET and PEERCLR at and past their limits; RETRAIN past the last port, of one that is off and one that is on. -/
theorem meets_MailboxRequestsAreServed_1 :
    (∃ (s : State) (i : Inst) (a : List Nat), s.request i 0x01 = some a ∧ s.migrationOf i (a.getD 0 0) (a.getD 1 0) (BitVec.ofNat 64 (a.getD 2 0)) = none)
    ∧ (∀ b ∈ [true, false], ∃ (s : State) (a : List Nat) (m : Migration), s.request .host 0x01 = some a ∧ s.migrationOf .host (a.getD 0 0) (a.getD 1 0) (BitVec.ofNat 64 (a.getD 2 0)) = some m ∧ overlaps (s.flatOf m.old) m.size (s.flatOf m.new) m.size = false ∧ s.placed? m.old = true ∧ s.placed? m.new = true
        ∧ s.migrations.any (s.migMeets m) = false ∧ s.pageClaimed m.old m.size = b)
    ∧ (∃ (s : State) (m : Migration) (p q : Nat), s.migrations.find? (fun x => x.mid == m.mid) = some m ∧ m.forward = false ∧ m.copied = 1023 ∧ 64 * m.copied < m.size ∧ p = s.flatOf m.old + 64 * m.copied ∧ q = s.flatOf m.new + 64 * m.copied ∧ readErr s.mem s.lostDies (s.keyOf m.old) 64 p 64 = none
        ∧ writeErr s.mem s.lostDies (s.keyOf m.new) 64 q ((s.mem.read p 64).map some) = none)
    ∧ (∃ (s : State) (e : Nat) (m : Migration) (c : Ctx), s.migrations.find? (fun x => x.mid == m.mid) = some m ∧ m.forward = false ∧ m.size ≤ 64 * m.copied ∧ s.ctx? m.asid = some c ∧ c.asgens = [] ∧ s.leafAt m.va 4 c.ptroot = some e)
    ∧ (∀ op ∈ [0x02, 0x03], ∀ v ∈ [(4096, false, false, false), (9, false, false, false), (1, true, true, false), (0, true, false, false), (2, true, false, true)], ∃ s : State, s.request .side op = some (v.1 :: [0, 0, 0]) ∧ (s.mapNow v.1).valid = v.2.1 ∧ (s.mapNow v.1).nonres = v.2.2.1
        ∧ (s.mapNow v.1).moored = v.2.2.2 ∧ s.driverMoorings (chipOf (s.mapNow v.1).pcn) < 8)
    ∧ (∃ s : State, s.request .host 0x02 = some [1, 0, 0, 0] ∧ (s.mapNow 1).valid = true ∧ (s.mapNow 1).nonres = false ∧ (s.mapNow 1).moored = false ∧ 8 ≤ s.driverMoorings (chipOf (s.mapNow 1).pcn))
    ∧ (∀ a ∈ [[255, 5, 0xFFFF, 4095], [256, 5, 0xFFFF, 1], [255, 5, 0x10000, 1], [0, 5, 1, 0], [0, 5, 1, 4096]], ∃ s : State, s.request .host 0x04 = some a)
    ∧ (∃ (s : State) (a : Nat) (l : List Nat), s.request .host 0x05 = some (a :: l) ∧ a = 255)
    ∧ (∀ p ∈ [16, 15, 0], ∃ (s : State) (l : List Nat), s.request .host 0x06 = some (p :: l) ∧ (p < 16 → (s.port p).enable = (p == 0) ∧ s.linkDie p = true)) := by
  simp only [List.forall_mem_cons, List.not_mem_nil, false_imp_iff, implies_true, and_true]
  refine ⟨⟨asks .side 0x01 [2, 0, 0, 0] walkable, .side, _, by rfl, by decide +kernel⟩,
    ⟨⟨{ asks .host 0x01 moveArgs walkable with claims := [{ owner := 9, write := true, bank := 0, lo := 0, hi := 2 ^ 46 }] }, _, moving, by rfl, by decide +kernel⟩, ⟨asks .host 0x01 moveArgs walkable, _, moving, by rfl, by decide +kernel⟩⟩,
    ⟨underWay fun m => { m with copied := 1023 }, { moving with copied := 1023 }, _, _, by decide +kernel, by decide +kernel, by decide +kernel, by decide +kernel, rfl, rfl, by decide +kernel, by decide +kernel⟩,
    ⟨underWay fun m => { m with copied := 1024 }, 20 * 2 ^ 36 + 0x4080, { moving with copied := 1024 }, walkCtx, by decide +kernel⟩, ?_, ?_, ?_, ⟨asks .host 0x05 [255, 0, 0, 0] base, 255, _, by rfl, rfl⟩,
    ⟨⟨asks .host 0x06 [16, 0, 0, 0] base, _, by rfl, by decide +kernel⟩, ⟨asks .host 0x06 [15, 0, 0, 0] base, _, by rfl, by decide +kernel⟩, ⟨asks .host 0x06 [0, 0, 0, 0] (linked base), _, by rfl, by decide +kernel⟩⟩⟩
  · refine ⟨⟨⟨asks .side 0x02 [4096, 0, 0, 0] mapped, by decide +kernel⟩, ⟨asks .side 0x02 [9, 0, 0, 0] mapped, by decide +kernel⟩, ⟨asks .side 0x02 [1, 0, 0, 0] mapped, by decide +kernel⟩, ⟨asks .side 0x02 [0, 0, 0, 0] mapped, by decide +kernel⟩, ⟨asks .side 0x02 [2, 0, 0, 0] mapped, by decide +kernel⟩⟩,
      ⟨⟨asks .side 0x03 [4096, 0, 0, 0] mapped, by decide +kernel⟩, ⟨asks .side 0x03 [9, 0, 0, 0] mapped, by decide +kernel⟩, ⟨asks .side 0x03 [1, 0, 0, 0] mapped, by decide +kernel⟩, ⟨asks .side 0x03 [0, 0, 0, 0] mapped, by decide +kernel⟩, ⟨asks .side 0x03 [2, 0, 0, 0] mapped, by decide +kernel⟩⟩⟩
  · exact ⟨{ asks .host 0x02 [1, 0, 0, 0] base with clusters := (List.range 8).map fun k => (k + 10, { moored := true }) }, by decide +kernel⟩
  · exact ⟨⟨asks .host 0x04 [255, 5, 0xFFFF, 4095] base, by rfl⟩, ⟨asks .host 0x04 [256, 5, 0xFFFF, 1] base, by rfl⟩, ⟨asks .host 0x04 [255, 5, 0x10000, 1] base, by rfl⟩, ⟨asks .host 0x04 [0, 5, 1, 0] base, by rfl⟩, ⟨asks .host 0x04 [0, 5, 1, 4096] base, by rfl⟩⟩

def ringEntry : Memory := base.mem.store (some 7) 0x10000 ((toLe 8 (2 ^ 58) ++ List.replicate 56 0).map some)
def ringCtx : Ctx := { ctxOne with stopped := true, log := { mode := 1, base := 0x80000, used := 4096, tail := 4096, fills := [(0, 32)], places := [(0, { va := 0x30000, loc := .cluster 0 0, n := 32 })] } }
/-- Context 1 is stopped, and its ring holds one entry of old data. -/
def ringed : State := { base with ctxs := [(1, ringCtx)], mem := ringEntry }
def brokenQueue (l : List Nat) : State := atQueue fun x => { x with st := .stopped, code := 0x07, breaks := l, asid := some 1 }
def traced : TraceSession := { asid := 1, ring := 0x80000, logsz := 12, wrap := false, imbal := false, status := 0x8FFC0, buffers := [(47, [[1], [2]])] }

/-- CTXSTOP of no context, of one away and of one in place; its completion while something runs and after; CTXGO; RSTEP of no steps, of a context that runs and of one that is stopped with and without an entry; PKTBRK at its limits, clear and set, and the fifth; PKTGO of a held queue and of another; SSTOP; TRACEOPEN, TRACECLOSE and a flush with and without a session. -/
theorem meets_MailboxRequestsAreServed_2 :
    (∃ (s : State) (l : List Nat), s.request .host 0x10 = some (2 :: l) ∧ s.ctx? 2 = none) ∧ (∀ b ∈ [true, false], ∃ (s : State) (l : List Nat) (c : Ctx), s.request .host 0x10 = some (1 :: l) ∧ s.ctx? 1 = some c ∧ c.resident = b)
    ∧ (∀ b ∈ [true, false], ∃ (s : State) (c : Ctx), s.ctx? 1 = some c ∧ c.resident = true ∧ c.stopReq = true ∧ c.stopped = false ∧ s.isStill 1 = b ∧ .side ∈ s.stopRequests 1)
    ∧ (∃ (s : State) (l : List Nat) (c : Ctx) (y : Kernel), s.request .side 0x11 = some (1 :: l) ∧ s.ctx? 1 = some c ∧ s.kernel? 0 = some y ∧ y.asid = 1 ∧ (∀ v ∈ c.vcns, ∀ b ∈ (s.vc v).bars, b.2.withheld = none) ∧ c.stopped = true)
    ∧ (∀ n ∈ [0, 2 ^ 32, 1, 2 ^ 32 - 1], ∃ (s : State) (l : List Nat) (c : Ctx), s.request .host 0x12 = some (1 :: n :: l) ∧ s.ctx? 1 = some c ∧ c.stopped = false)
    ∧ (∃ (s : State) (l : List Nat) (c : Ctx), s.request .host 0x12 = some (1 :: 1 :: l) ∧ s.ctx? 1 = some c ∧ c.stopped = true ∧ s.newestEntry 1 c.stoppedAt = none ∧ (s.log 1).lost = false)
    ∧ (∃ (s : State) (l : List Nat) (c : Ctx) (e : Entry), s.request .host 0x12 = some (1 :: 1 :: l) ∧ s.ctx? 1 = some c ∧ c.stopped = true ∧ s.newestEntry 1 c.stoppedAt = some e ∧ e.kind = 1)
    ∧ (∀ a ∈ [[1024, 0, 0, 0], [0, 2 ^ 32, 0, 0], [0, 0, 2, 0], [1023, 4, 0, 0], [1023, 2 ^ 32 - 1, 1, 0]], ∃ s : State, s.request .host 0x13 = some a ∧ (s.queue 1023).breaks = [4])
    ∧ (∃ s : State, s.request .host 0x13 = some [1023, 5, 1, 0] ∧ 5 ∉ (s.queue 1023).breaks ∧ 4 ≤ (s.queue 1023).breaks.length)
    ∧ (∃ (s : State) (l : List Nat), s.request .host 0x14 = some (1023 :: l) ∧ (s.queue 1023).st = .stopped ∧ (s.queue 1023).code = 0x07 ∧ (s.queue 1023).skip = 0) ∧ (∃ (s : State) (l : List Nat), s.request .host 0x14 = some (0 :: l) ∧ (s.queue 0).code ≠ 0x07)
    ∧ (∃ (s : State) (l : List Nat) (c : Ctx), s.request .host 0x15 = some (1 :: 32767 :: 4294967295 :: l) ∧ s.ctx? 1 = some c)
    ∧ (∀ b ∈ [true, false], ∃ (s : State) (c : Ctx), s.request .host 0x16 = some [1023, 0x80000, 0x6C, 0x8FFC0] ∧ (s.queue 1023).asid = some 1 ∧ s.ctx? 1 = some c ∧ 0x80000 % 2 ^ (0x6C % 32) = 0 ∧ s.ringOk 1 c 0x80000 (2 ^ (0x6C % 32)) = true ∧ (s.queue 1023).trace.isSome = b)
    ∧ (∀ b ∈ [true, false], ∃ (s : State) (l : List Nat), s.request .host 0x17 = some (1023 :: l) ∧ (s.queue 1023).trace.isSome = b ∧ (s.queue 1023).asid ≠ none)
    ∧ (∃ (s : State) (x : TraceSession), (s.queue 1023).trace = some x ∧ (s.queue 1023).asid ≠ none ∧ (x.buffers.getD 47 []).length = 2) := by
  simp only [List.forall_mem_cons, List.not_mem_nil, false_imp_iff, implies_true, and_true]
  refine ⟨⟨asks .host 0x10 [2, 0, 0, 0] base, _, by rfl, by decide +kernel⟩, ⟨⟨asks .host 0x10 [1, 0, 0, 0] base, _, ctxOne, by rfl, by decide +kernel⟩, ⟨{ asks .host 0x10 [1, 0, 0, 0] base with ctxs := [(1, { ctxOne with resident := false })] }, _, { ctxOne with resident := false }, by rfl, by decide +kernel⟩⟩,
    ⟨⟨(still fun c => { c with stopReq := true }).setMbox .side { st := 1, taken := true, reqOp := 0x10, req := [1, 0, 0, 0] }, { ctxOne with stopReq := true }, by decide +kernel⟩,
      ⟨({ base with ctxs := [(1, { ctxOne with stopReq := true })] } : State).setMbox .side { st := 1, taken := true, reqOp := 0x10, req := [1, 0, 0, 0] }, { ctxOne with stopReq := true }, by decide +kernel⟩⟩,
    ⟨asks .side 0x11 [1, 0, 0, 0] ringed, _, ringCtx, kernelOne, by rfl, by decide +kernel⟩,
    ⟨⟨asks .host 0x12 [1, 0, 0, 0] base, _, ctxOne, by rfl, by decide +kernel⟩, ⟨asks .host 0x12 [1, 0x100000000, 0, 0] base, _, ctxOne, by rfl, by decide +kernel⟩, ⟨asks .host 0x12 [1, 1, 0, 0] base, _, ctxOne, by rfl, by decide +kernel⟩, ⟨asks .host 0x12 [1, 0xFFFFFFFF, 0, 0] base, _, ctxOne, by rfl, by decide +kernel⟩⟩,
    ⟨asks .host 0x12 [1, 1, 0, 0] { base with ctxs := [(1, { ctxOne with stopped := true })] }, _, { ctxOne with stopped := true }, by rfl, by decide +kernel⟩,
    ⟨asks .host 0x12 [1, 1, 0, 0] ringed, _, ringCtx, _, by rfl, by decide +kernel, by decide +kernel, getD_eq (d := { off := 0, kind := 0, void := false, win := 0, loc := 0, dstamp := 0, data := [] }) (by decide +kernel), by decide +kernel⟩,
    ⟨⟨asks .host 0x13 [1024, 0, 0, 0] (brokenQueue [4]), by decide +kernel⟩, ⟨asks .host 0x13 [0, 0x100000000, 0, 0] (brokenQueue [4]), by decide +kernel⟩, ⟨asks .host 0x13 [0, 0, 2, 0] (brokenQueue [4]), by decide +kernel⟩, ⟨asks .host 0x13 [1023, 4, 0, 0] (brokenQueue [4]), by decide +kernel⟩, ⟨asks .host 0x13 [1023, 0xFFFFFFFF, 1, 0] (brokenQueue [4]), by decide +kernel⟩⟩,
    ⟨asks .host 0x13 [1023, 5, 1, 0] (brokenQueue [1, 2, 3, 4]), by decide +kernel⟩, ⟨asks .host 0x14 [1023, 0, 0, 0] (brokenQueue []), _, by rfl, by decide +kernel⟩, ⟨asks .host 0x14 [0, 0, 0, 0] base, _, by rfl, by decide +kernel⟩,
    ⟨asks .host 0x15 [1, 32767, 4294967295, 0] base, _, ctxOne, by rfl, by decide +kernel⟩,
    ⟨⟨asks .host 0x16 [1023, 0x80000, 0x6C, 0x8FFC0] (atQueue fun x => { x with asid := some 1, trace := some traced }), ctxOne, by decide +kernel⟩, ⟨asks .host 0x16 [1023, 0x80000, 0x6C, 0x8FFC0] (atQueue fun x => { x with asid := some 1 }), ctxOne, by decide +kernel⟩⟩,
    ⟨⟨asks .host 0x17 [1023, 0, 0, 0] (atQueue fun x => { x with asid := some 1, trace := some traced }), _, by rfl, by decide +kernel⟩, ⟨asks .host 0x17 [1023, 0, 0, 0] (atQueue fun x => { x with asid := some 1 }), _, by rfl, by decide +kernel⟩⟩,
    ⟨atQueue fun x => { x with asid := some 1, trace := some traced }, traced, by decide +kernel⟩⟩

/-- The token in HBM: version 1, and zeros. -/
def tokenMem : Memory := { memOf [(64, [1])] with blockKey := (List.range 84).map fun k => (k, 7) }
def token : List Byte := tokenMem.read 64 tokenBytes
/-- The lifecycle is production, the fuse allows panel debug, the owner's digest is that of the token's key, and a nonce is out. -/
def locked (f : State → State) : State := f { base with queues := [], mem := tokenMem, fuses := { ownerDigest := shake256 ((token.drop 8).take 1952) }, trust := { nonce := some (0, [7]) } }

/-- A nonce before and after 60 s; keys at their limits in production and in a blank part; DBGCHAL. A token that verifies (its signature is uninterpreted, so that is a premise here) and one without a nonce; PHYSRD misaligned, past the memory, without and with panel debug, of a block under a key; FWSTATE in and past its range; operations that do not exist. -/
theorem meets_MailboxRequestsAreServed_3 :
    (∀ x ∈ [(255, 1), (255, 0), (256, 1)], ∃ (s : State) (l : List Nat), s.request .host 0x18 = some (x.1 :: l) ∧ s.fuses.lifecycle = x.2) ∧ (∃ (s : State) (l : List Nat), s.request .host 0x19 = some (255 :: l)) ∧ (∃ (s : State) (a : List Nat), s.request .side 0x1A = some a)
    ∧ (∀ t ∈ [59999999999, 60000000000], ∃ s : State, s.trust.nonce = some (0, [7]) ∧ s.ptime = t)
    ∧ (Config.mldsaVerify ((token.drop 8).take 1952) (shake256 ([7] ++ toLe 8 base.panelId ++ wordLe 0 ++ token.take 8)) (token.drop 1960) = true →
        ∃ (s : State) (l : List Nat), s.request .host 0x1B = some (64 :: 0 :: l) ∧ 64 + tokenBytes ≤ hbmEnd ∧ s.tokenAt 64 (0 == 1) = some token ∧ s.fuses.lifecycle = 1 ∧ s.fuses.debugEnable = true ∧ s.tokenOk token = true ∧ ∀ q ∈ s.queues, q.2.enable = false)
    ∧ (∃ (s : State) (l : List Nat), s.request .host 0x1B = some (64 :: 1 :: l) ∧ ∀ w, s.tokenAt 64 (1 == 1) = some w → s.tokenOk w = false)
    ∧ (∀ a ∈ [(4, false), (hbmEnd, false), (hbmEnd - 8, false), (hbmEnd - 8, true)], ∃ (s : State) (l : List Nat), s.request .host 0x1C = some (a.1 :: l) ∧ s.panelDebug = a.2 ∧ stackLost s.lostDies a.1 = (a.1 == hbmEnd && false))
    ∧ (∃ (s : State) (k : Nat), s.mem.blockKey.get? (0x10000 / 64) = some k)
    ∧ (∀ a ∈ [(4, false), (3, false), (3, true)], ∃ (s : State) (l : List Nat), s.request .host 0x1D = some (a.1 :: l) ∧ s.panelDebug = a.2)
    ∧ (∀ op ∈ [0, 7, 0xF, 0x1E, 0xFF], ∃ (s : State) (a : List Nat), (s.mbox .host).reqOp = op ∧ s.request .host (s.mbox .host).reqOp = some a)
    ∧ (∃ (m : Mailbox) (v : Word), m.st = 2 ∧ v.getLsbD 8 = true) ∧ ∃ (m : Mailbox) (v : Word), m.st = 1 ∧ v.getLsbD 8 = true := by
  simp only [List.forall_mem_cons, List.not_mem_nil, false_imp_iff, implies_true, and_true]
  refine ⟨⟨⟨asks .host 0x18 [255, 0, 0, 0] base, _, by rfl, rfl⟩, ⟨asks .host 0x18 [255, 0, 0, 0] { base with fuses := { base.fuses with lifecycle := 0 } }, _, by rfl, rfl⟩, ⟨asks .host 0x18 [256, 0, 0, 0] base, _, by rfl, rfl⟩⟩, ⟨asks .host 0x19 [255, 0, 0, 0] base, _, by rfl⟩, ⟨asks .side 0x1A [0, 0, 0, 0] base, _, by rfl⟩,
    ⟨⟨{ base with ptime := 59999999999, trust := { nonce := some (0, [7]) } }, by decide +kernel⟩, ⟨{ base with ptime := 60000000000, trust := { nonce := some (0, [7]) } }, by decide +kernel⟩⟩,
    fun h => ⟨locked (asks .host 0x1B [64, 0, 0, 0]), _, by rfl, by decide +kernel, by rw [State.tokenAt, if_neg (by decide), if_pos (by decide +kernel)]; rfl, by rfl, by rfl, ?_, fun q (hq : q ∈ ([] : List (Nat × Queue))) => nomatch hq⟩,
    ⟨asks .host 0x1B [64, 1, 0, 0] base, _, by rfl, fun w _ => by rfl⟩,
    ⟨⟨asks .host 0x1C [4, 0, 0, 0] base, _, by rfl, by decide +kernel⟩, ⟨asks .host 0x1C [BitVec.ofNat 64 hbmEnd, 0, 0, 0] base, _, by rfl, by decide +kernel⟩, ⟨asks .host 0x1C [BitVec.ofNat 64 (hbmEnd - 8), 0, 0, 0] base, _, by rfl, by decide +kernel⟩,
      ⟨asks .host 0x1C [BitVec.ofNat 64 (hbmEnd - 8), 0, 0, 0] { base with trust := { debugOpen := true } }, _, by rfl, by decide +kernel⟩⟩, ⟨filled base, 7, by decide +kernel⟩,
    ⟨⟨asks .host 0x1D [4, 0, 0, 0] base, _, by rfl, by decide +kernel⟩, ⟨asks .host 0x1D [3, 0, 0, 0] base, _, by rfl, by decide +kernel⟩, ⟨asks .host 0x1D [3, 0, 0, 0] { base with trust := { debugOpen := true } }, _, by rfl, by decide +kernel⟩⟩,
    ⟨⟨asks .host 0 [0, 0, 0, 0] base, _, rfl, by rfl⟩, ⟨asks .host 7 [0, 0, 0, 0] base, _, rfl, by rfl⟩, ⟨asks .host 0xF [0, 0, 0, 0] base, _, rfl, by rfl⟩, ⟨asks .host 0x1E [0, 0, 0, 0] base, _, rfl, by rfl⟩, ⟨asks .host 0xFF [0, 0, 0, 0] base, _, rfl, by rfl⟩⟩,
    ⟨{ st := 2 }, 0x100, by decide +kernel⟩, ⟨{ st := 1 }, 0x100, by decide +kernel⟩⟩
  have e : field token 0 8 = 1 := by decide +kernel
  simp only [State.tokenOk, locked, asks, State.setMbox]
  simp [e]
  exact ⟨by decide, h⟩
/-! The side-band and the Shadex ports. -/

/-- A flit of one packet: SEQ, ACK, the flags byte and 240 bytes. -/
def flitOf (seq ack flags : Nat) : List Byte := flitBytes seq ack (toLe 1 flags ++ [0, 0, 0] ++ List.replicate 240 9)
def headOf (seq ack flags : Nat) : List Byte := toLe 2 seq ++ toLe 2 ack ++ (toLe 1 flags ++ [0, 0, 0] ++ List.replicate 240 9)

theorem head_length (seq ack flags : Nat) : (headOf seq ack flags).length = 248 := by simp only [headOf, List.length_append, List.length_replicate, toLe, List.length_cons, List.length_nil]
theorem flit_splits (seq ack flags : Nat) : flitOf seq ack flags = headOf seq ack flags ++ toLe 8 (Config.crc64 (headOf seq ack flags)).toNat := rfl
theorem flit_length (seq ack flags : Nat) : (flitOf seq ack flags).length = 256 := by rw [flit_splits, List.length_append, head_length]; rfl
/-- The check word of a flit that a sender made is its last eight bytes. -/
theorem flit_checks (seq ack flags : Nat) : Config.crc64 ((flitOf seq ack flags).take 248) = BitVec.ofNat 64 (field (flitOf seq ack flags) 248 8) := by
  rw [flit_splits, field, List.take_left' (head_length _ _ _), List.drop_left' (head_length _ _ _), List.take_of_length_le (by simp [toLe]), leNat_toLe 8 _ (by have := (Config.crc64 (headOf seq ack flags)).isLt; omega)]
  simp

def atPort (f : Port → Port) : State := { linked base with ports := [(15, f { enable := true, st := 2, width := 16 })] }
def kept : List (Nat × List Byte × Nat) := [(6, [1], 0), (7, [2], 0)]

theorem meets_SideBandAndShadexPorts_1 :
    (∃ s : State, s.lostDies = [0x202] ∧ 1 ≤ 75 ∧ sensorDies.getD (75 - 1) 0 ∈ s.lostDies)
    ∧ (∃ s : State, s.trust.hot = true) ∧ (∃ s : State, s.trust.hot = false ∧ s.fuses.lifecycle = 2) ∧ (∃ s : State, s.trust.hot = false ∧ s.fuses.lifecycle ≠ 2 ∧ s.trust.bootFail = none) ∧ (∃ s : State, s.trust.hot = false ∧ s.fuses.lifecycle ≠ 2 ∧ s.trust.bootFail = some 4)
    ∧ (∃ off, sideWrites off = true) ∧ (∃ off, sideWrites off = false) ∧ (∀ n ∈ [4, 8], 0x10008 % n = 0) ∧ (∀ n ∈ [44, 299], ∃ s : State, n < s.hostIf.errTail ∧ s.hostIf.errTail ≤ n + 256)
    ∧ (∃ s : State, s.linkDie 15 = false ∧ s.trust.bootFail ≠ none) ∧ (∃ s : State, s.linkDie 15 = false ∧ 0x201 ∈ s.lostDies)
    ∧ (∀ w ∈ [16, 0], ∃ (s : State) (x : Port), x = s.port 15 ∧ x.enable = true ∧ x.st = 1 ∧ s.linkDie 15 = true ∧ s.hostIf.held = [] ∧ w ≤ widest x.dead ∧ x.replay = []) ∧ (∃ (s : State) (x : Port), x = s.port 15 ∧ x.enable = true ∧ x.st = 1 ∧ 4 ≤ widest x.dead ∧ widest x.dead < 8 ∧ x.replay = kept)
    ∧ (∀ b ∈ [true, false], ∃ (s : State) (x : Port), x = s.port 15 ∧ 2 ≤ x.st ∧ (∀ f ∈ x.replay, f.1 ≠ field [] 2 2) ∧ ([] : List Byte).length ≠ 256 ∧ x.naked = b)
    ∧ (∃ (s : State) (x : Port) (flit : List Byte), x = s.port 15 ∧ 2 ≤ x.st ∧ (∀ f ∈ x.replay, f.1 ≠ field flit 2 2) ∧ flit.length = 256 ∧ field flit 4 1 % 4 = 0 ∧ field flit 0 2 ≠ x.rxSeq)
    ∧ (∃ (s : State) (x : Port) (flit : List Byte), x = s.port 15 ∧ 2 ≤ x.st ∧ (∀ f ∈ x.replay, f.1 ≠ field flit 2 2) ∧ flit.length = 256 ∧ Config.crc64 (flit.take 248) = BitVec.ofNat 64 (field flit 248 8) ∧ field flit 4 1 % 4 = 0 ∧ field flit 0 2 = x.rxSeq ∧ x.rxSeq = 65535
        ∧ field flit 4 1 / 4 % 2 = 1 ∧ field flit 4 1 / 8 % 2 = 1)
    ∧ (∃ (s : State) (x : Port) (flit : List Byte), x = s.port 15 ∧ 2 ≤ x.st ∧ (∀ f ∈ x.replay, f.1 ≠ field flit 2 2) ∧ flit.length = 256 ∧ Config.crc64 (flit.take 248) = BitVec.ofNat 64 (field flit 248 8) ∧ field flit 4 1 % 4 = 0 ∧ field flit 0 2 = x.rxSeq
        ∧ field flit 4 1 / 4 % 2 = 0 ∧ field flit 4 1 / 8 % 2 = 0)
    ∧ (∃ (s : State) (x : Port), x = s.port 15 ∧ 2 ≤ x.st ∧ (∀ f ∈ x.replay, f.1 ≠ field [] 2 2) ∧ (∀ f ∈ x.replay, f.1 ≠ 5) ∧ x.replay ≠ []) ∧ (∀ t ∈ [1999, 2000], ∃ (s : State) (x : Port), x = s.port 15 ∧ 2 ≤ x.st ∧ (∀ f ∈ x.replay, f.1 ≠ field [] 2 2) ∧ x.ackAt = 0 ∧ s.ptime = t ∧ x.replay ≠ []) := by
  simp only [List.forall_mem_cons, List.not_mem_nil, false_imp_iff, implies_true, and_true]
  refine ⟨⟨{ base with lostDies := [0x202] }, by decide +kernel⟩, ⟨{ base with trust := { hot := true } }, rfl⟩, ⟨{ base with fuses := { lifecycle := 2 } }, by decide +kernel⟩, ⟨base, by decide +kernel⟩, ⟨{ base with trust := { bootFail := some 4 } }, by decide +kernel⟩,
    ⟨0x10008, by decide +kernel⟩, ⟨0xFFFFF8, by decide +kernel⟩, by decide +kernel, ⟨⟨{ base with hostIf := { errTail := 300 } }, by decide +kernel⟩, ⟨{ base with hostIf := { errTail := 300 } }, by decide +kernel⟩⟩,
    ⟨{ base with trust := { bootFail := some 4 } }, by decide +kernel⟩, ⟨{ base with lostDies := [0x201] }, by decide +kernel⟩,
    ⟨⟨atPort fun x => { x with st := 1 }, _, rfl, by decide +kernel⟩, ⟨atPort fun x => { x with st := 1 }, _, rfl, by decide +kernel⟩⟩, ⟨atPort fun x => { x with st := 1, dead := 0x0101, replay := kept }, _, rfl, by decide +kernel⟩,
    ⟨⟨atPort fun x => { x with naked := true }, _, rfl, by decide +kernel⟩, ⟨atPort id, _, rfl, by decide +kernel⟩⟩, ⟨atPort fun x => { x with replay := kept }, _, flitOf 1 5 0, rfl, by decide +kernel, by decide +kernel, flit_length _ _ _, by decide +kernel, by decide +kernel⟩,
    ⟨atPort fun x => { x with replay := kept, rxSeq := 65535 }, _, flitOf 65535 5 12, rfl, by decide +kernel, by decide +kernel, flit_length _ _ _, flit_checks _ _ _, by decide +kernel⟩,
    ⟨atPort fun x => { x with replay := kept, rxSeq := 3 }, _, flitOf 3 5 0, rfl, by decide +kernel, by decide +kernel, flit_length _ _ _, flit_checks _ _ _, by decide +kernel⟩,
    ⟨atPort fun x => { x with replay := kept }, _, rfl, by decide +kernel⟩, ⟨⟨{ (atPort fun x => { x with replay := kept }) with ptime := 1999 }, _, rfl, by decide +kernel⟩, ⟨{ (atPort fun x => { x with replay := kept }) with ptime := 2000 }, _, rfl, by decide +kernel⟩⟩⟩

def outPacket : List Byte := packetBytes 2 0 64 0x40 0 9 []
def comes (pkt : List Byte) (e : EngOp) : State := { filled (linked base) with engines := [e], nextId := 10, ports := [(15, { enable := true, st := 2, width := 16, delivered := [pkt] })], peers := [(0, { remote := 5, ports := 0x8000, asid := 1 })] }
def fetchOne : EngOp := { engOne with out := [outPacket], moves := [{ sva := 0xA0040, src := some (.peer 0 0x40), dst := { va := 0x10000, loc := .core 0 0 0 true, n := 64 } }] }
def taken (s : State) (ty : Nat) : List Byte × State := (s.takePacket 15 ty).getD ([], base)
/-- A WRITE of the last eight bytes of an HBM block, a READREQ there, the data that answers one, a response. -/
def farWriteIn : State := comes (packetBytes 1 0 8 0x80038 0 3 [1, 2, 3, 4, 5, 6, 7, 8]) fetchOne
def farReadIn : State := comes (packetBytes 2 0 8 0x80000 0 3 []) fetchOne
def dataComes : State := comes (packetBytes 3 0 64 0x40 0 9 (List.replicate 64 5)) fetchOne
def replyComes (st : Nat) : State := comes (packetBytes 4 st 2 0x40 0 9 [3, 7]) fetchOne
/-- The same WRITE with an arrival at this window offset, into the map as it is and into one from which virtual cluster 1 is away. -/
def arriving (arr : Nat) (away : Bool) : State := { comes (packetBytes 1 0 8 0x80038 arr 3 [1, 2, 3, 4, 5, 6, 7, 8]) fetchOne with map := base.map.set 1 { pcn := 1, valid := true, nonres := away } }
def wrote (s : State) : State × Nat × Fail := (taken s 1).2.farWrite 15 (taken s 1).1
theorem wrote_eq (s : State) : (taken s 1).2.farWrite 15 (taken s 1).1 = ((wrote s).1, (wrote s).2.1, (wrote s).2.2) := by rw [show (taken s 1).2.farWrite 15 (taken s 1).1 = wrote s from rfl]
def moves (s : State) (r : Except Fail (Option (List Seg))) : Bool := match r with | .ok (some x) => s.segsMoving x | _ => false
theorem moving_of {s : State} {r : Except Fail (Option (List Seg))} (h : moves s r = false) : ∀ segs, r = .ok (some segs) → s.segsMoving segs = false := by
  intro segs e; simpa [moves, e] using h
def arrives (r : Except Fail (Option (List Seg))) : List Seg := match r with | .ok (some x) => x | _ => []
/-- What a SHADEX_WRITE asks of a WRITE that has come in, and where its arrival goes. -/
def writeComes (s u : State) (pkt : List Byte) (r : Option (List Seg)) : Prop :=
  s.takePacket 15 1 = some (pkt, u) ∧ (∀ segs, u.windowSegs (farAsid (u.peerAt 15)) (packetOff pkt) (packetLen pkt) .wr = .ok (some segs) → u.segsMoving segs = false) ∧ u.farArrivalAt 15 pkt = .ok r

theorem meets_SideBandAndShadexPorts_2 :
    (∃ (x : Port) (l m : List (Nat × List Byte × Nat)), x.replay = l ++ (7, [2], 0) :: m ∧ (∀ f ∈ l, f.1 ≠ 7) ∧ x.pend = [] ∧ x.st = 3 ∧ l.length = 1)
    ∧ (∀ d ∈ [(0x0002 : BitVec 16), 0x1110], ∃ s : State, (s.port 15).st ≠ 0 ∧ (s.port 15).dead = d ∧ (widest (d ||| BitVec.ofNat 16 (2 ^ 0)) = 0 ↔ d = 0x1110))
    ∧ (∀ l ∈ [[], kept], ∃ s : State, (s.port 15).st = 1 ∧ (s.port 15).width ≠ 0 ∧ (s.port 15).replay = l)
    ∧ (∃ (s u v : State) (k : Nat) (pkt : List Byte) (f : Fail), writeComes s u pkt none ∧ u.farWrite 15 pkt = (v, k, f) ∧ k = 0)
    ∧ (∃ (s u : State) (pkt : List Byte), writeComes s u pkt (some []))
    ∧ (∃ (s u v : State) (k : Nat) (pkt : List Byte) (f : Fail) (g : Seg) (gs : List Seg), writeComes s u pkt (some (g :: gs)) ∧ u.farWrite 15 pkt = (v, k, f) ∧ k = 0)
    ∧ (∃ (s u : State) (pkt bs : List Byte) (segs : List Seg), s.takePacket 15 2 = some (pkt, u) ∧ u.windowSegs (farAsid (u.peerAt 15)) (packetOff pkt) (packetLen pkt) .rd = .ok (some segs) ∧ u.segsMoving segs = false ∧ u.readSegs segs = .ok bs ∧ bs = List.replicate 8 0xA5)
    ∧ (∃ (s u : State) (pkt q : List Byte) (e : EngOp), s.takePacket 15 3 = some (pkt, u) ∧ u.engine? (packetTag pkt) = some e ∧ q ∈ e.out ∧ packetOff q = packetOff pkt)
    ∧ (∀ st ∈ [0, 1, 2], ∃ (s u : State) (pkt q : List Byte) (e : EngOp), s.takePacket 15 4 = some (pkt, u) ∧ u.engine? (packetTag pkt) = some e ∧ e.out.find? (fun q => packetOff q == packetOff pkt) = some q ∧ e.hold = [] ∧ packetStatus pkt = st ∧ (∃ pr n, e.peer = some pr ∧ u.peerPort pr = some n))
    ∧ (∀ t ∈ [9999, 10000], ∃ (s : State) (e : EngOp) (q : List Byte) (l : List (List Byte)), s.engine? 9 = some e ∧ e.again = q :: l ∧ e.out = [] ∧ e.retryAt = 0 ∧ s.ptime = t ∧ e.peer = some 0 ∧ s.peerPort 0 ≠ none) := by
  simp only [List.forall_mem_cons, List.not_mem_nil, false_imp_iff, implies_true, and_true]
  refine ⟨⟨{ st := 3, replay := kept }, [(6, [1], 0)], [], by decide +kernel⟩, ⟨⟨atPort fun x => { x with dead := 0x0002 }, by decide +kernel⟩, ⟨atPort fun x => { x with dead := 0x1110 }, by decide +kernel⟩⟩,
    ⟨⟨atPort fun x => { x with st := 1 }, by decide +kernel⟩, ⟨atPort fun x => { x with st := 1, replay := kept }, by decide +kernel⟩⟩,
    ⟨farWriteIn, (taken farWriteIn 1).2, _, _, (taken farWriteIn 1).1, _, ⟨getD_eq (d := ([], base)) (by decide +kernel), moving_of (by decide +kernel), ok_is (by decide +kernel)⟩, wrote_eq _, by decide +kernel⟩,
    ⟨arriving 0x40000 true, (taken (arriving 0x40000 true) 1).2, (taken (arriving 0x40000 true) 1).1, getD_eq (d := ([], base)) (by decide +kernel), moving_of (by decide +kernel), ok_is (by decide +kernel)⟩,
    ⟨arriving 0x40000 false, (taken (arriving 0x40000 false) 1).2, _, _, (taken (arriving 0x40000 false) 1).1, _, { va := 0x40000, loc := .cluster 1 0, n := 16 }, [], ⟨getD_eq (d := ([], base)) (by decide +kernel), moving_of (by decide +kernel), ok_is (by decide +kernel)⟩, wrote_eq _, by decide +kernel⟩,
    ⟨farReadIn, (taken farReadIn 2).2, (taken farReadIn 2).1, List.replicate 8 0xA5, [{ va := 0x80000, loc := .hbm 0x10000 0, n := 8 }], getD_eq (d := ([], base)) (by decide +kernel), ok_is (by decide +kernel), by decide +kernel, ok_is (by decide +kernel), rfl⟩,
    ⟨dataComes, (taken dataComes 3).2, (taken dataComes 3).1, outPacket, fetchOne, getD_eq (d := ([], base)) (by decide +kernel), by decide +kernel⟩,
    ⟨⟨replyComes 0, (taken (replyComes 0) 4).2, (taken (replyComes 0) 4).1, outPacket, fetchOne, getD_eq (d := ([], base)) (by decide +kernel), by decide +kernel, by decide +kernel, rfl, by decide +kernel, 0, 15, by decide +kernel⟩, ⟨replyComes 1, (taken (replyComes 1) 4).2, (taken (replyComes 1) 4).1, outPacket, fetchOne, getD_eq (d := ([], base)) (by decide +kernel), by decide +kernel, by decide +kernel, rfl, by decide +kernel, 0, 15, by decide +kernel⟩,
      ⟨replyComes 2, (taken (replyComes 2) 4).2, (taken (replyComes 2) 4).1, outPacket, fetchOne, getD_eq (d := ([], base)) (by decide +kernel), by decide +kernel, by decide +kernel, rfl, by decide +kernel, 0, 15, by decide +kernel⟩⟩,
    ⟨⟨{ comes [] { fetchOne with out := [], again := [outPacket] } with ptime := 9999 }, { fetchOne with out := [], again := [outPacket] }, outPacket, [], by decide +kernel⟩, ⟨{ comes [] { fetchOne with out := [], again := [outPacket] } with ptime := 10000 }, { fetchOne with out := [], again := [outPacket] }, outPacket, [], by decide +kernel⟩⟩⟩
/-! The premises that are left. -/

/-- A register that is not zero and another (ResultWritesOneRegister); the last queue and port (ResetLeavesTheRegistersAsTheRulesSay); a state after a BRK and one after a TRAP in which the strand runs on with its trap due (BreakTrap, SoftTrap); an offset between the mapped registers (MappedRegisters); a branch target and a LOOP's decremented register (BranchesAndJumps). -/
theorem meets_rest :
    (∃ d r : Reg, d ≠ 0 ∧ r ≠ d) ∧ (1023 < 1024 ∧ 15 < 16)
    ∧ (∃ t p, exec (.brk 15) base = .next t ∧ t.cur.run = some 0 ∧ t.cur.stop = some p) ∧ (∃ t, exec (.trap 15) base = .next t ∧ t.cur.run = some 0)
    ∧ (∃ off : Nat, off ≠ 0x0000 ∧ off ≠ 0x0008 ∧ off ≠ 0x0010 ∧ off ≠ 0x0100) ∧ (∃ (t c : State), t = base.jump 0x80102 true ∧ c = base.setReg 15 (base.reg 15 - 1)) :=
  ⟨⟨15, 0, by decide⟩, by decide, ⟨_, _, rfl, rfl, rfl⟩, ⟨_, rfl, rfl⟩, ⟨0x18, by decide⟩, ⟨_, _, rfl, rfl⟩⟩
/-! Premises of the clauses that the widened statements add. -/

/-- A core whose clock has stopped, with nothing in its list; a spawn and a push that have been performed. -/
theorem meets_StrandsAreDispatchedSuspendedWokenAndSpawned_3 :
    (∃ s : State, s.cur.idles = true ∧ s.coreList (s.focus / 8) (s.focus % 8) = [])
    ∧ (∃ (s : State) (x : Strand), s.cur.idles = true ∧ s.coreList (s.focus / 8) (s.focus % 8) ≠ [] ∧ s.pickFor s.focus = some 1 ∧ s.strands.get? 1 = some x ∧ x.saved = none ∧ x.stop = none)
    ∧ (∀ op ∈ [AccOp.spawn 0 (List.replicate 8 7) true, .qpush 0 15 7], ∃ (s : State) (a : Access), s.access? 5 = some a ∧ a.stage = .performed [] 0 ∧ a.core = s.focus ∧ s.cur.run = some a.sid ∧ a.group = none ∧ a.op = op
        ∧ s.cur.str.kernel = some 0 ∧ s.kernel? 0 = some kernelOne) := by
  simp only [List.forall_mem_cons, List.not_mem_nil, false_imp_iff, implies_true, and_true]
  exact ⟨⟨{ base with cur := { idles := true } }, by decide +kernel⟩, ⟨{ readyToRun 0x80002 with cur := { idles := true } }, second, by decide +kernel⟩,
    ⟨inFlight base [{ message (.spawn 0 (List.replicate 8 7) true) with stage := .performed [] 0 }], { message (.spawn 0 (List.replicate 8 7) true) with stage := .performed [] 0 }, by decide +kernel⟩,
    ⟨inFlight base [{ message (.qpush 0 15 7) with stage := .performed [] 0 }], { message (.qpush 0 15 7) with stage := .performed [] 0 }, by decide +kernel⟩⟩

/-- What TRET finds: its own conditions, the frame that it serves, the strand of the frame and its record. -/
abbrev returns (s : State) (x : Strand) (c : Ctx) (e : ChainEntry) (bs : List Byte) : Prop :=
  s.counts.zero = true ∧ s.cur.str.acked = true ∧ s.cur.run = some 3 ∧ s.cur.str.kernel = none ∧ s.cur.str.serves = some { chain := 0, slot := 0 } ∧ s.servedBy s.asid { chain := 0, slot := 0 } = some 1 ∧ s.frameAddr = some 0x30000 ∧ (3 : Nat) ≠ 1 ∧ s.coreOf 1 = none
    ∧ s.strands.get? 1 = some x ∧ (∀ w ∈ s.watches, w.sid ≠ 1) ∧ s.ctx? s.asid = some c ∧ c.chain[0]? = some e ∧ s.devRead s.asid (0x30000 + 0x80) 128 = .ok bs

theorem returns_of {s : State} {x : Strand} {c : Ctx} {e : ChainEntry} {bs : List Byte}
    (h : s.counts.zero = true ∧ s.cur.str.acked = true ∧ s.cur.run = some 3 ∧ s.cur.str.kernel = none ∧ s.cur.str.serves = some { chain := 0, slot := 0 } ∧ s.servedBy s.asid { chain := 0, slot := 0 } = some 1 ∧ s.frameAddr = some 0x30000 ∧ s.coreOf 1 = none
      ∧ s.strands.get? 1 = some x ∧ s.watches = [] ∧ s.ctx? s.asid = some c ∧ c.chain[0]? = some e ∧ okIs (s.devRead s.asid (0x30000 + 0x80) 128) bs = true) : returns s x c e bs :=
  ⟨h.1, h.2.1, h.2.2.1, h.2.2.2.1, h.2.2.2.2.1, h.2.2.2.2.2.1, h.2.2.2.2.2.2.1, by decide, h.2.2.2.2.2.2.2.1, h.2.2.2.2.2.2.2.2.1, by rw [h.2.2.2.2.2.2.2.2.2.1]; nofun, h.2.2.2.2.2.2.2.2.2.2.1, h.2.2.2.2.2.2.2.2.2.2.2.1, ok_is h.2.2.2.2.2.2.2.2.2.2.2.2⟩

def doneBytes : List Byte := List.replicate 128 0
def returnCtx : Ctx := ((underHandler true id {}).ctx? 1).getD ctxOne
/-- The served strand with a tile instruction that has rolled up, and with a rollback due. -/
def rollsUp (f : Strand → Strand) (t : List TileRoot) : State := { underHandler true (fun x => f { x with counts := { tiles := 1 }, stop := some { words := [0x80002, 1, 2, 3, 4, 5, 6, 7], trap := some { trapA with roll := true, seq := 8 } } }) {} with tiles := t }
def runningPiece : TileRoot := { pieces with st := .running, leaves := [{ leafOne with st := .running }] }

/-- A TRET that waits for its counts, one that acknowledges first; a frame slot that is granted now; returns and abandonment with nothing due, with a tile instruction still running, with a root that rolled up; a rollback due behind one that runs, and due with none. -/
theorem meets_TrapsReachTheChainAndReturn_3 :
    (∃ s : State, s.counts.drained = true ∧ s.cur.str.acked = true ∧ s.counts.zero = false) ∧ (∃ s : State, s.counts.drained = true ∧ s.cur.str.acked = false ∧ s.ackFrame.counts = s.counts)
    ∧ (granting 0x30000).frameLater 1 (0x30000 + 2048 * 1) = false
    ∧ (∃ (s : State) (x : Strand) (c : Ctx) (e : ChainEntry) (bs : List Byte), returns s x c e bs ∧ x.rollbackDue = false ∧ s.badRecord x.vcn (dwordOf bs 0) = true)
    ∧ (∃ (s : State) (x : Strand) (c : Ctx) (e : ChainEntry) (bs : List Byte), returns s x c e bs ∧ x.rollbackDue = false ∧ s.badRecord x.vcn (dwordOf bs 0) = false ∧ ((x.stop.bind fun i => i.trap).getD { cause := 0, sub := 0 }).roll = false ∧ x.counts.tiles = 0 ∧ (∀ r ∈ s.tiles, r.sid = 1 → r.st ≠ .faulted)
      ∧ x.kernel = some 0 ∧ s.kernel? 0 = some kernelOne)
    ∧ (∃ (s : State) (x : Strand) (c : Ctx) (e : ChainEntry) (bs : List Byte), returns s x c e bs ∧ x.rollbackDue = false ∧ ((x.stop.bind fun i => i.trap).getD { cause := 0, sub := 0 }).roll = false ∧ x.counts.tiles ≠ 0 ∧ (∀ r ∈ s.tiles, r.sid = 1 → r.st ≠ .faulted))
    ∧ (∃ (s : State) (x : Strand) (c : Ctx) (e : ChainEntry) (bs : List Byte) (r : TileRoot), returns s x c e bs ∧ x.rollbackDue = false ∧ ((x.stop.bind fun i => i.trap).getD { cause := 0, sub := 0 }).roll = true ∧ s.tiles.find? (State.isRoot 1 8) = some r ∧ ((x.stop.bind fun i => i.trap).getD { cause := 0, sub := 0 }).seq = 8 ∧ s.root? r.seq = some r
      ∧ s.rootReleased r = true ∧ (∀ q ∈ s.tiles, q.sid = 1 → q.st ≠ .done) ∧ x.ending = false)
    ∧ (∃ (s : State) (x : Strand) (c : Ctx) (e : ChainEntry) (bs : List Byte), returns s x c e bs ∧ x.rollbackDue = true ∧ ∃ r ∈ s.tiles, r.sid = 1 ∧ r.st ≠ .faulted)
    ∧ (∃ (s : State) (x : Strand) (c : Ctx) (e : ChainEntry) (bs : List Byte), returns s x c e bs ∧ x.rollbackDue = true ∧ (∀ r ∈ s.tiles, r.sid ≠ 1) ∧ s.watches = [] ∧ ((x.stop.bind fun i => i.trap).getD { cause := 0, sub := 0 }).roll = false ∧ x.counts.tiles = 0) := by
  refine ⟨⟨withStr (underHandler true id {}) fun x => { x with counts := { tiles := 1 } }, by decide +kernel⟩, ⟨underHandler false id {}, by decide +kernel⟩, by decide +kernel,
    ⟨underHandler true id badFrame, served, returnCtx, chainOne, [0, 0, 0, 0, 0, 0, 0, 0x80] ++ List.replicate 120 0, returns_of (by decide +kernel), by decide +kernel⟩,
    ⟨underHandler true id {}, served, returnCtx, chainOne, doneBytes, returns_of (by decide +kernel), by decide +kernel⟩,
    ⟨underHandler true (fun x => { x with counts := { tiles := 1 } }) {}, { served with counts := { tiles := 1 } }, returnCtx, chainOne, doneBytes, returns_of (by decide +kernel), by decide +kernel⟩,
    ⟨rollsUp id [pieces], _, returnCtx, chainOne, doneBytes, pieces, returns_of (x := { served with counts := { tiles := 1 }, stop := some { words := [0x80002, 1, 2, 3, 4, 5, 6, 7], trap := some { trapA with roll := true, seq := 8 } } }) (by decide +kernel), by decide +kernel⟩,
    ⟨{ underHandler true (fun x => { x with rollbackDue := true }) {} with tiles := [runningPiece] }, { served with rollbackDue := true }, returnCtx, chainOne, doneBytes, returns_of (by decide +kernel), by decide +kernel⟩,
    ⟨underHandler true (fun x => { x with rollbackDue := true }) {}, { served with rollbackDue := true }, returnCtx, chainOne, doneBytes, returns_of (by decide +kernel), by decide +kernel⟩⟩

/-- A piece on a lane group whose strand has an open window and one whose strand has none. -/
theorem meets_KernelsRunCompleteAndAreWatched_2 :
    ∀ st ∈ [WinState.opened, .none], ∃ (s : State) (r : TileRoot) (l : Leaf) (x : Strand), coreExists s.focus = true ∧ (s.lanePieces s.pcn)[0]? = some (20, 0) ∧ s.leaf? 20 0 = some (r, l) ∧ s.strand? r.sid = some x ∧ x.window.st = st := by
  simp only [List.forall_mem_cons, List.not_mem_nil, false_imp_iff, implies_true, and_true]
  exact ⟨⟨withStr (tasksAnd (root .add [running]) (fun c => { c with groups := [(3, .leaf 20 0)] })) fun x => { x with window := { num := 1, st := .opened } }, root .add [running], running, { strandOne with window := { num := 1, st := .opened } }, by decide +kernel⟩,
    ⟨tasksAnd (root .add [running]) (fun c => { c with groups := [(3, .leaf 20 0)] }), root .add [running], running, strandOne, by decide +kernel⟩⟩

/-- The due cluster that steps on where it became due and where its instant passed; the choice of the next one; a dead router on the stepping cluster and on another; a condemned moored cluster in the copy. -/
theorem meets_RotationStepsAndMapPublications_5 :
    (∃ (s : State) (d : Nat), (∀ k < 64, (s.cluster (0 * 64 + k)).condemned = false) ∧ d = 0 * 64 + (s.chip 0).due ∧ (s.cluster d).router = true ∧ (s.cluster d).rot = .due ∧ (s.cluster d).moored = true)
    ∧ (∃ s : State, (s.cluster (0 * 64 + (s.chip 0).due)).rot ≠ .due ∧ s.nextDue 0 (s.chip 0).due = some 1)
    ∧ (∃ s : State, s.stepping 0 = some 0 ∧ (s.chip 0).phase = 1 ∧ (s.cluster 0).router = false)
    ∧ (∃ s : State, s.stepping 0 = some 0 ∧ (s.chip 0).phase = 2 ∧ (s.chip 0).dest = 60 ∧ (0 : Nat) ≠ 60 ∧ (s.chip 0).retiredWhole = false ∧ (s.cluster 0).router = false ∧ s.destOk 0 60 = true)
    ∧ (∃ s : State, s.stepping 0 = some 0 ∧ (s.chip 0).phase = 2 ∧ (s.chip 0).dest = 60 ∧ s.destOk 0 60 = true ∧ (s.cluster 0).router = true ∧ (s.chip 0).stepAt + s.copyNs 0 0 60 ≤ s.ptime ∧ s.allStrands = [] ∧ (s.cluster 0).condemned = true ∧ (s.cluster 0).moored = true)
    ∧ (∀ b ∈ [true, false], ∃ s : State, 0 < 48 * 64 ∧ (s.stepping (chipOf 0) == some 0) = b) := by
  simp only [List.forall_mem_cons, List.not_mem_nil, false_imp_iff, implies_true, and_true]
  exact ⟨⟨turning 0 {} [(0, { rot := .due, moored := true })], _, by decide +kernel, rfl, by decide +kernel⟩, ⟨turning 0 {} [(0, { rot := .inService })], by decide +kernel⟩,
    ⟨turning 0 stepOne [(0, { rot := .draining, router := false }), (60, { rot := .shadow })], by decide +kernel⟩,
    ⟨turning 0 { stepOne with phase := 2 } [(0, { rot := .copying, router := false }), (60, { rot := .shadow })], by decide +kernel⟩,
    ⟨{ turning 25676 { stepOne with phase := 2 } [(0, { rot := .copying, condemned := true, moored := true }), (60, { rot := .shadow })] with map := [] }, by decide +kernel⟩,
    ⟨turning 0 stepOne drains, by decide +kernel⟩, ⟨turning 0 {} [], by decide +kernel⟩⟩

/-- The ageing save at its hour and one nanosecond before it. -/
theorem meets_HealthPowerAndHostPortEvents_2 :
    ∀ t ∈ [3600000000006, 3600000000007], ∃ s : State, s.cpRuns = true ∧ s.ptime = t ∧ s.hostIf.agedAt + 3600000000000 = 3600000000007 := by
  simp only [List.forall_mem_cons, List.not_mem_nil, false_imp_iff, implies_true, and_true]
  exact ⟨⟨{ base with ptime := 3600000000006, hostIf := { agedAt := 7 } }, by decide +kernel⟩, ⟨{ base with ptime := 3600000000007, hostIf := { agedAt := 7 } }, by decide +kernel⟩⟩

/-- A queue that a breakpoint holds, and one stopped otherwise, when QTAIL leaves the ring. -/
theorem meets_QueueRegistersAndTheAperture_2 :
    ∀ k ∈ [(0x07 : Nat), 0x03], ∃ x : Queue, x = (atQueue fun x => { x with enable := true, st := .stopped, code := k }).queue 1023 ∧ x.skip = 0 ∧ x.enable = true ∧ x.st = .stopped ∧ x.code = k ∧ ({ x with tail := (17 : Word).truncate 32 } : Queue).badTail = true := by
  simp only [List.forall_mem_cons, List.not_mem_nil, false_imp_iff, implies_true, and_true]
  exact ⟨⟨_, rfl, by decide +kernel⟩, ⟨_, rfl, by decide +kernel⟩⟩

/-- A launch whose ENTRY line cannot be read in place and lies in a cluster that is away; a SIGNAL into a cluster that copies. -/
def awayEntry : State := { queueAt (packet 1 2 0x35000 0 0) (launchBytes 0x40002 0) id with map := [(0, { pcn := 0, valid := true }), (1, { pcn := 1, valid := true, nonres := true })] }
theorem meets_PacketsOfAQueue_3 :
    (∃ (s : State) (p : List Byte) (x : Queue), AtPacket s 0 p ∧ s.pkWaits 0 p = false ∧ pkOp p = 1 ∧ x = s.queue 0 ∧ x.asid = some 1 ∧ s.ctx? 1 = some ctxOne ∧ s.cpRead 1 (pkAddr p) 128 = .bytes (launchBytes 0x40002 0) ∧ x.trace = none ∧ ctxOne.resident = true
      ∧ s.checkHeader 1 ctxOne (launchBytes 0x40002 0) none = .error 0x08 ∧ s.away 1 (field (launchBytes 0x40002 0) 0 8 / 64 * 64) 64 .ex = true)
    ∧ (∃ (s : State) (segs : List Seg), AtPacket s 0 signal ∧ s.pkWaits 0 signal = false ∧ s.signalSegs 1 (pkAddr signal) (pkFlags signal % 2 == 1) = .ok segs ∧ s.segsAway segs = false ∧ s.devFault true segs = none ∧ s.depositsLater segs = true)
    ∧ (∃ (s : State) (segs : List Seg), AtPacket s 0 signal ∧ s.pkWaits 0 signal = false ∧ s.signalSegs 1 (pkAddr signal) (pkFlags signal % 2 == 1) = .ok segs ∧ s.segsAway segs = false ∧ s.devFault true segs = none ∧ s.claimed true segs = true) := by
  refine ⟨⟨awayEntry, packet 1 2 0x35000 0 0, _, at_packet (by decide +kernel), by decide +kernel, by decide +kernel, rfl, by decide +kernel, by decide +kernel, cp_is (by decide +kernel), by decide +kernel, rfl, error_is (by decide +kernel), by decide +kernel⟩,
    ⟨{ signalled with clusters := [(0, { rot := .copying })] }, signalPieces, at_packet (by decide +kernel), by decide +kernel, ok_is (by decide +kernel), by decide +kernel⟩,
    ⟨{ signalled with claims := [{ owner := 9, write := true, bank := (banksOf (2 ^ 45 + 0x5200) 8).getD 0 0, lo := 2 ^ 45 + 0x5207, hi := 2 ^ 45 + 0x5300 }] }, signalPieces, at_packet (by decide +kernel), by decide +kernel, ok_is (by decide +kernel), by decide +kernel⟩⟩

/-- A boot that stopped; an answer that empties OUT while the arrival's packets are held. -/
def holdOne : EngOp := { fetchOne with hold := [packetBytes 1 0 8 0x80 0 9 [], packetBytes 1 0 8 0x100 0x40000 9 []] }
theorem meets_SideBandAndShadexPorts_3 :
    (∃ s : State, s.trust.hot = false ∧ s.trust.bootFail = some 4) ∧ (∃ (s : State) (e : Peer), s.peerAt 15 = some (0, e) ∧ s.peerPort 0 = some 15)
    ∧ (∃ (s u : State) (pkt q : List Byte) (e : EngOp), s.takePacket 15 4 = some (pkt, u) ∧ u.engine? (packetTag pkt) = some e ∧ e.out = [q] ∧ packetOff q = packetOff pkt ∧ packetStatus pkt = 0 ∧ e.again = [] ∧ e.peer = some 0 ∧ u.peerPort 0 ≠ none
        ∧ (e.hold.filter fun y => packetArr y == 0) ≠ [] ∧ (e.hold.filter fun y => packetArr y != 0) ≠ []) :=
  ⟨⟨{ base with trust := { bootFail := some 4 } }, by decide +kernel⟩, ⟨comes [] fetchOne, { remote := 5, ports := 0x8000, asid := 1 }, by decide +kernel⟩,
    ⟨comes (packetBytes 4 0 2 0x40 0 9 [3, 7]) holdOne, (taken (comes (packetBytes 4 0 2 0x40 0 9 [3, 7]) holdOne) 4).2, (taken (comes (packetBytes 4 0 2 0x40 0 9 [3, 7]) holdOne) 4).1, outPacket, holdOne, getD_eq (d := ([], base)) (by decide +kernel), by decide +kernel⟩⟩
/-- Every kind of value: a NaN, an infinity of each sign, a zero and a number. -/
theorem meets_ScalarFloatingPoint_2 :
    (∀ x ∈ [((0x7FC00000 : Word), FVal.nan), (0x7F800000, .inf false), (0xFF800000, .inf true), (0x80000000, .num true 0 (-149)), (0x3F800000, .num false 0x800000 (-23))], fpVal .f32 ((withRegs base [(4, x.1)]).reg 4) = x.2)
    ∧ (0xFFFFFFFF3F800000 : Word).toNat % 2 ^ (precLayout .f32).width = (0x3F800000 : Word).toNat % 2 ^ (precLayout .f32).width
    ∧ (SgnMode.xor, true) ∈ [(SgnMode.copy, true), (.invert, !true), (.xor, false != true)] := by decide +kernel

/-- A suspension with row operations queued and with none; a core about to stop its clock. -/
theorem meets_SuspensionHeads_2 :
    (seven.counts.zero = true ∧ seven.cur.vq ≠ []) ∧ (base.counts.zero = true ∧ base.cur.vq = [])
    ∧ ∃ s : State, coreExists s.focus = true ∧ s.cur.run = some 0 ∧ s.cur.susp = .idle ∧ s.cur.stop = none ∧ s.cur.str.pending = [] ∧ s.counts.zero = true ∧ s.lanesIdle = true :=
  ⟨by decide +kernel, by decide +kernel, { base with cur := { base.cur with susp := .idle } }, by decide +kernel⟩

/-- A ticket of another run, one behind an older posted store, one with every marked access past, and one that a far copy holds. -/
theorem meets_FencesWaitForOlderAccesses_2 :
    ((withRegs base [(4, 0x100000000)]).reg 4).extractLsb' 32 16 ≠ base.cur.runStamp
    ∧ (∃ (s : State) (x : Access) (m : BitVec 32), m = (s.reg 4).extractLsb' 0 32 ∧ (s.reg 4).extractLsb' 32 16 = s.cur.runStamp ∧ x ∈ s.flight ∧ x.sid = 0 ∧ (m - x.mark).toNat < 2 ^ 31 ∧ x.stage.past = false)
    ∧ (∃ (s : State) (m : BitVec 32), m = (s.reg 4).extractLsb' 0 32 ∧ (s.reg 4).extractLsb' 32 16 = s.cur.runStamp ∧ (∀ x ∈ s.flight, x.sid = 0 → (m - x.mark).toNat < 2 ^ 31 → x.stage.past = true) ∧ m ∉ s.cur.l5Marks)
    ∧ (∃ (s : State) (m : BitVec 32), m = (s.reg 4).extractLsb' 0 32 ∧ (s.reg 4).extractLsb' 32 16 = s.cur.runStamp ∧ m ∈ s.cur.l5Marks ∧ ∃ e ∈ s.engines, e.sid = 0 ∧ (m - e.mark).toNat < 2 ^ 31 ∧ e.far = true ∧ e.farDone = false) := by
  exact ⟨by decide +kernel, ⟨inFlight base [access .store []], access .store [], 0, by decide +kernel⟩, ⟨inFlight base [{ access .store [] with stage := .performed [] 0 }], 0, by decide +kernel⟩,
    ⟨{ base with cur := { base.cur with l5Marks := [0] }, engines := [{ id := 1, sid := 0, core := 0, pc := 0, asid := 1, vcn := 0, kind := .put, far := true }] }, 0, by decide +kernel⟩⟩

/-- A context that logs and has room for the seal of a window. -/
theorem meets_UndoWindows_2 :
    ∃ s1 s2 off, logging.cur.run = some 0 ∧ (logging.log logging.asid).mode ≠ 0 ∧ logging.counts.zero = true ∧ logging.reserve logging.asid [(logging.chipHere, 32)] = some s1
      ∧ s1.append logging.asid logging.chipHere .seal 0 logging.cur.str.window.num logging.cur.str.window.stamp (toLe 8 logging.ptime) = .ok (s2, off) :=
  ⟨_, _, _, by decide +kernel, by decide +kernel, by decide +kernel, rfl, okD_eq (d := (base, 0)) (by decide +kernel)⟩

/-- The last counter; a ring that a logged write still needs and one that none does; heads at the tail, between head and tail, past the tail and off a chunk. -/
def ringHeads : Ctx := { ctxOne with log := { mode := 1, logsz := 16, base := 0x80000, head := 0x1000, tail := 0x4000, used := 0x3000 } }
def ringState (c : Ctx) (l : List (Reg × Word)) : State := withRegs { base with ctxs := [(1, c)] } l
def owing (l : List (Reg × Word)) : State := { ringState ringHeads l with flight := [{ access .store [] with rsv := [(0, 80)] }] }
theorem meets_SystemRegisters_2 :
    csrOf (bitsOf ((withRegs handling [(4, 0x0207)]).reg 4) 15 0) = some (.pmcfg 7)
    ∧ (∀ x ∈ [((0x0100 : Word), Csr.undoctl, (0x1401 : Word)), (0x0101, .logbase, 0x90000)], csrOf (bitsOf ((owing [(4, x.1), (5, x.2.2)]).reg 4) 15 0) = some x.2.1 ∧ ((owing [(4, x.1), (5, x.2.2)]).log 1).ringChanges x.2.1 ((owing [(4, x.1), (5, x.2.2)]).reg 5) = true
      ∧ (owing [(4, x.1), (5, x.2.2)]).asid = 1 ∧ (owing [(4, x.1), (5, x.2.2)]).entriesDue 1 = true)
    ∧ (csrOf (bitsOf ((ringState ringHeads [(4, 0x0101), (5, 0x90000)]).reg 4) 15 0) = some .logbase ∧ (ringState ringHeads [(4, 0x0101)]).ctx? 1 = some ringHeads ∧ (ringState ringHeads [(4, 0x0101)]).entriesDue 1 = false ∧ ((ringState ringHeads [(5, 0x90000)]).reg 5).extractLsb' 0 56 ≠ ringHeads.log.base)
    ∧ ((owing [(5, 0x80000)]).entriesDue 1 = true ∧ ((owing [(5, 0x80000)]).reg 5).extractLsb' 0 56 = ringHeads.log.base ∧ (owing []).ctx? 1 = some ringHeads)
    ∧ csrOf (bitsOf ((ringState ringHeads [(4, 0x0102)]).reg 4) 15 0) = some .loghead
    ∧ (0x4000 % 4096 = 0 ∧ 0x4000 < ringHeads.log.size ∧ 0x4000 = ringHeads.log.tail ∧ ringHeads.log.used % 4096 = 0)
    ∧ (0x3000 % 4096 = 0 ∧ 0x3000 < ringHeads.log.size ∧ 0x3000 ≠ ringHeads.log.tail ∧ (0x3000 + ringHeads.log.size - ringHeads.log.head) % ringHeads.log.size ≤ ringHeads.log.used ∧ ringHeads.log.head < ringHeads.log.size ∧ ringHeads.log.size % 4096 = 0 ∧ ringHeads.log.head % 4096 = 0
      ∧ ringHeads.log.used ≤ ringHeads.log.size)
    ∧ (0x3001 % 4096 ≠ 0 ∧ ringHeads.log.size ≤ 0x10000 ∧ 0x5000 ≠ ringHeads.log.tail ∧ ringHeads.log.used < (0x5000 + ringHeads.log.size - ringHeads.log.head) % ringHeads.log.size)
    ∧ (¬ (16 ≤ bitsOf (0x0F00 : Word) 13 8 ∧ bitsOf (0x0F00 : Word) 13 8 ≤ 40)) ∧ (¬ (16 ≤ bitsOf (0x2900 : Word) 13 8 ∧ bitsOf (0x2900 : Word) 13 8 ≤ 40)) ∧ bitsOf (0x1000 : Word) 13 8 = ringHeads.log.logsz := ⟨by decide +kernel, by decide +kernel, by decide +kernel, by decide +kernel, by decide +kernel, by decide +kernel, by decide +kernel, by decide +kernel, by decide +kernel, by decide +kernel, by decide +kernel⟩

/-- A context that does not exist; walks that end in each subcode: an entry that is not valid, one that cannot be read, a leaf and a table that are ill formed; entries at each level; leaves of each target type that the rule refuses. -/
theorem meets_AddressErrorsOfTranslation_2 :
    base.ctx? 2 = none
    ∧ (∀ x ∈ [((0x0BFFFFFFFFFFFF : Nat), (1 : Nat)), (0xFFFFFFFFFFFFFF, 4)], ∃ (s : State) (c : Ctx), s.ctx? 1 = some c ∧ s.tlb = [] ∧ s.walks = [] ∧ s.walkFrom c x.1 4 c.ptroot = .error x.2)
    ∧ (∀ l ∈ [(4, 48, 256), (3, 39, 512), (2, 30, 512), (1, 21, 512), (0, 16, 32)], ∃ (s : State) (w : Word), l ∈ [(4, 48, 256), (3, 39, 512), (2, 30, 512), (1, 21, 512), ((0 : Nat), (16 : Nat), (32 : Nat))] ∧ s.tableWord (0x80000 + 8 * (0x10000 / 2 ^ l.2.1 % l.2.2)) = some w ∧ w.getLsbD 0 = true ∧ (w.getLsbD 1 = true ↔ l.1 = 0))
    ∧ base.tableWord (hbmEnd + 8 * (0 / 2 ^ 48 % 256)) = none
    ∧ ((∃ w : Word, w.getLsbD 0 = true ∧ w.getLsbD 1 = true ∧ leafOk ctxOne w (2 ^ 16) = false) ∧ ∃ w : Word, w.getLsbD 0 = true ∧ w.getLsbD 1 = false ∧ bitsOf w 7 2 ≠ 0)
    ∧ (∀ p ∈ [((6 : Nat), (0 : Nat), (2 ^ 16 : Nat)), (0, 1, 2 ^ 16), (1, 2 ^ 15, 2 ^ 16), (2, 2 ^ 16, 2 ^ 16), (3, 48, 2 ^ 16), (4, 2 ^ 12, 2 ^ 16), (1, 4095, 2 ^ 16), (3, 64, 2 ^ 21), (8, 1, 2 ^ 21), (9, 31, 2 ^ 21), (10, 256, 2 ^ 21), (8, 0x1800000, 2 ^ 16), (2, 0, 2 ^ 21), (9, 0, 2 ^ 30)],
        ∃ w : Word, bitsOf w 11 8 = p.1 ∧ bitsOf w 55 16 = p.2.1 ∧ leafOk ctxOne w p.2.2 = false) := by
  refine ⟨by decide +kernel, ?_, ?_, by decide +kernel, ⟨⟨3 + 0xF00, by decide +kernel⟩, ⟨5, by decide +kernel⟩⟩, ?_⟩
  · intro x h
    simp only [List.mem_cons, List.not_mem_nil, or_false] at h
    rcases h with rfl | rfl
    · exact ⟨{ base with tlb := [] }, ctxOne, by decide +kernel, rfl, rfl, error_is (by decide +kernel)⟩
    · exact ⟨{ base with tlb := [], ctxs := [(1, { ctxOne with ptroot := 0x17FFFFFFF00 })] }, _, rfl, rfl, rfl, error_is (by decide +kernel)⟩
  · intro l h
    simp only [List.mem_cons, List.not_mem_nil, or_false] at h
    rcases h with rfl | rfl | rfl | rfl | rfl
    all_goals first | exact ⟨base, 0x80001, by decide +kernel⟩ | exact ⟨base, (page .device 1 0 0).leaf, by decide +kernel⟩
  · intro p h
    exact ⟨BitVec.ofNat 64 (0x3F + p.1 * 2 ^ 8 + p.2.1 * 2 ^ 16), by revert p; decide +kernel⟩

/-- An own slot and the window with 62 loads outstanding and with 63. -/
theorem meets_LoadsIssue_2 :
    (∀ n ∈ [8, 16], ∀ k ∈ [62, 63], ∃ s ad v p off, Reached s 0 .load .rd (s.reg 4) (0 : BitVec 16).toInt n ad (.core v p off true) ∧ (Loc.core v p off true).inSlots n = true ∧ s.counts.loads = k
        ∧ s.slotBusy [{ va := BitVec.ofNat 56 ad, loc := .core v p off true, n := n }] = false)
    ∧ (∀ k ∈ [62, 63], ∃ s ad off, Reached s 0 .load .rd (s.reg 4) (8 : BitVec 16).toInt 8 ad (.window off) ∧ s.counts.loads = k) := by
  simp only [List.forall_mem_cons, List.not_mem_nil, false_imp_iff, implies_true, and_true]
  exact ⟨⟨⟨⟨withRegs (withStr base fun x => { x with counts := { loads := 62 } }) [(4, 0x1C000)], 0x1C000, 0, 0, 0xC000, reached_of (by decide +kernel), by decide +kernel⟩, ⟨withRegs (withStr base fun x => { x with counts := { loads := 63 } }) [(4, 0x1C000)], 0x1C000, 0, 0, 0xC000, reached_of (by decide +kernel), by decide +kernel⟩⟩,
      ⟨withRegs (withStr base fun x => { x with counts := { loads := 62 } }) [(4, 0x1C000)], 0x1C000, 0, 0, 0xC000, reached_of (by decide +kernel), by decide +kernel⟩, ⟨withRegs (withStr base fun x => { x with counts := { loads := 63 } }) [(4, 0x1C000)], 0x1C000, 0, 0, 0xC000, reached_of (by decide +kernel), by decide +kernel⟩⟩,
    ⟨withRegs (withStr base fun x => { x with counts := { loads := 62 } }) [(4, 0x70000)], 0x70008, 8, reached_of (by decide +kernel), by decide +kernel⟩, ⟨withRegs (withStr base fun x => { x with counts := { loads := 63 } }) [(4, 0x70000)], 0x70008, 8, reached_of (by decide +kernel), by decide +kernel⟩⟩

/-- A core that is live and one that is fused off. -/
theorem meets_MappedRegisters_2 : base.live base.pcn 7 = true ∧ ∃ s : State, s.live s.pcn 7 = false := ⟨by decide +kernel, { base with fuses := { base.fuses with live := [(0, 0x7F)] } }, by decide +kernel⟩

/-- Both slots held by the running strand's own core with no victim; a victim whose context has no save unit and one whose context has. -/
theorem meets_FirstRowMakesTheRegistersLive_2 :
    (∃ s : State, s.cur.vq.length < 8 ∧ s.cur.str.slot = none ∧ s.cur.freeSlot = none ∧ rcwOf (s.reg 4) ≠ none ∧ s.victimSlot = none)
    ∧ (∀ b ∈ [true, false], ∃ (s : State) (y : Strand), s.cur.vq.length < 8 ∧ s.cur.str.slot = none ∧ s.cur.freeSlot = none ∧ rcwOf (s.reg 4) ≠ none ∧ s.victimSlot = some 1 ∧ s.cur.slotOwner 1 = some 2 ∧ s.strand? 2 = some y ∧ ((s.ctx? y.asid).bind Ctx.freeUnit).isSome = b)
    ∧ (∃ s : State, 8 ≤ s.cur.vq.length ∧ rcwOf (s.reg 4) ≠ none) := by
  simp only [List.forall_mem_cons, List.not_mem_nil, false_imp_iff, implies_true, and_true]
  exact ⟨⟨{ bare with cur := { bare.cur with slot0 := some 5, slot1 := some 6 } }, by decide +kernel⟩,
    ⟨⟨evicting, { second with recIdx := 2, st := .blocked, slot := some 1, suspendedAt := 5 }, by decide +kernel⟩, ⟨{ evicting with ctxs := [(1, ctxOne)] }, { second with recIdx := 2, st := .blocked, slot := some 1, suspendedAt := 5 }, by decide +kernel⟩⟩,
    ⟨withQueue 8 base, by decide +kernel⟩⟩
/-! Row memory in and across the own slot. -/

def stridedAt (a d : Word) : State := withRegs base [(4, a), (5, d)]
def gatherIn (s : State) : Except Fail (List (Nat × List Seg)) := s.checkRanges .load .rd gatherTarget (Fmt.n32.bits / 8) (Fmt.n32.bits / 8) (s.elemAddrs .n32 4 0 2 0)
def scatterOut (s : State) : Except Fail (List (Nat × List Seg)) := s.checkRanges .store .wr gatherTarget (Fmt.n32.bits / 8) (Fmt.n32.bits / 8) (s.elemAddrs .n32 4 0 2 0)
def default_fail : Fail := { cause := 0, sub := 0, addr := 0 }
def gathered (s : State) : List Seg := (okD (gatherIn s) []).flatMap fun p => p.2
def scattered (s : State) : List Seg := (okD (scatterOut s) []).flatMap fun p => p.2.map fun g => let h := { g with data := (toLe (Fmt.n32.bits / 8) (rowElem (s.row 3) Fmt.n32.bits p.1)).map some }; { h with parts := s.scatPart h }
def strided (s : State) : List Seg := inOrder 32 (okD (stridedRanges s) [])
/-- Element 1 of the index row is 1, so that it lies four bytes past the others. -/
def indexed (s : State) : State := { s with cur := { s.cur with bypass := [(2, 0x100000000)] } }
def inOwn (gs : List Seg) : List Seg := (gs.flatMap Seg.atSlots).filter fun g => g.loc.inSlots g.n
def others (gs : List Seg) : List Seg := (gs.flatMap Seg.atSlots).filter fun g => !g.loc.inSlots g.n

/-- A word of VLDS past the last address, reached in ascending and in descending order; a range that fails first, one that fails later and none; loads that wait for the row queue and for LOADS, of other places, of the own slot, of both; a full queue of row operations before a VSCAT; a store partly there, with the counts full, with the log full and with room; elements of a scatter in the own slot, elsewhere and in both. -/
theorem meets_RowMemory_2 :
    (∀ x ∈ [((0xFFFFFFFFFFFFF8 : Word), (8 : Word)), (0xF8, -0x10)], ∃ (s : State) (e : Fail), (s.reg 5) = x.2 ∧ (s.reg 5).toInt % 8 = 0 ∧ stridedRanges s = .error e)
    ∧ (∃ e, base.checkRange .load .rd (fun _ => true) (-8) 8 8 256 = .error e) ∧ (∃ segs, base.checkRange .load .rd (fun _ => true) 0x30000 8 8 256 = .ok segs) ∧ (∃ ps, base.checkRanges .load .rd (fun _ => true) 8 8 [(1, 0x30008)] 256 = .ok ps) ∧ (∃ e, base.checkRanges .load .rd (fun _ => true) 8 8 [(1, -8)] 256 = .error e)
    ∧ (RowReady seven ∧ seven.classBusy 0 = false ∧ seven.cur.vq ≠ [])
    ∧ (RowReady base ∧ ∃ s : State, 63 ≤ s.counts.loads ∧ s.classBusy 0 = false)
    ∧ (∀ a ∈ [(0x30000 : Word), 0x1BF80, 0x1C000], ∃ (s : State) (ps : List (Nat × List Seg)), s = stridedAt a 8 ∧ RowReady s ∧ s.classBusy 0 = false ∧ stridedRanges s = .ok ps ∧ s.cur.vq = [] ∧ s.slotBusy (strided s) = false ∧ s.counts.loads < 63
        ∧ (inOwn (strided s) = [] ↔ a = 0x30000) ∧ (others (strided s) = [] ↔ a = 0x1C000) ∧ strided s ≠ [] ∧ isOk (s.readSegs (inOwn (strided s))) = true ∧ s.lostWords false 4 (fun _ => true) = [])
    ∧ (∀ a ∈ [(0x30000 : Word), 0x1C000], ∃ (s : State) (ps : List (Nat × List Seg)), s = withRegs base [(4, a)] ∧ RowReady s ∧ gatherIn s = .ok ps ∧ s.slotBusy (gathered s) = false ∧ gathered s ≠ [] ∧ (inOwn (gathered s) = [] ↔ a = 0x30000) ∧ (others (gathered s) = [] ↔ a = 0x1C000) ∧ isOk (s.readSegs (gathered s)) = true)
    ∧ (∃ (s : State) (ps : List (Nat × List Seg)), s = indexed (withRegs base [(4, 0x1BFFC)]) ∧ RowReady s ∧ gatherIn s = .ok ps ∧ s.slotBusy (gathered s) = false ∧ inOwn (gathered s) ≠ [] ∧ others (gathered s) ≠ [] ∧ isOk (s.readSegs (inOwn (gathered s))) = true) := by
  simp only [List.forall_mem_cons, List.not_mem_nil, false_imp_iff, implies_true, and_true]
  exact ⟨⟨⟨stridedAt 0xFFFFFFFFFFFFF8 8, errD (stridedRanges (stridedAt 0xFFFFFFFFFFFFF8 8)) default_fail, by decide +kernel, by decide +kernel, errD_eq (by decide +kernel)⟩,
      ⟨stridedAt 0xF8 (-0x10), errD (stridedRanges (stridedAt 0xF8 (-0x10))) default_fail, by decide +kernel, by decide +kernel, errD_eq (by decide +kernel)⟩⟩, error_of (by decide +kernel), ok_of (by decide +kernel), ok_of (by decide +kernel), error_of (by decide +kernel), ⟨seven_ready, by decide +kernel⟩,
    ⟨base_ready, withStr base fun x => { x with counts := { loads := 63 } }, by decide +kernel⟩, ⟨⟨_, okD (stridedRanges (stridedAt 0x30000 8)) [], rfl, ⟨by decide +kernel, by decide +kernel, 0, by decide +kernel⟩, by decide +kernel, okD_eq (by decide +kernel), by decide +kernel⟩,
      ⟨_, okD (stridedRanges (stridedAt 0x1BF80 8)) [], rfl, ⟨by decide +kernel, by decide +kernel, 0, by decide +kernel⟩, by decide +kernel, okD_eq (by decide +kernel), by decide +kernel⟩, ⟨_, okD (stridedRanges (stridedAt 0x1C000 8)) [], rfl, ⟨by decide +kernel, by decide +kernel, 0, by decide +kernel⟩, by decide +kernel, okD_eq (by decide +kernel), by decide +kernel⟩⟩,
    ⟨⟨_, okD (gatherIn (withRegs base [(4, 0x30000)])) [], rfl, ⟨by decide +kernel, by decide +kernel, 0, by decide +kernel⟩, okD_eq (by decide +kernel), by decide +kernel⟩, ⟨_, okD (gatherIn (withRegs base [(4, 0x1C000)])) [], rfl, ⟨by decide +kernel, by decide +kernel, 0, by decide +kernel⟩, okD_eq (by decide +kernel), by decide +kernel⟩⟩,
    ⟨_, okD (gatherIn (indexed (withRegs base [(4, 0x1BFFC)]))) [], rfl, ⟨by decide +kernel, by decide +kernel, 0, by decide +kernel⟩, okD_eq (by decide +kernel), by decide +kernel⟩⟩

/-- VST and VSCAT behind queued rows; a row partly in the own slot, with the counts full, with the log full and with room; the pieces of the slot one by one; a scatter wholly in the own slot, wholly elsewhere and in both, with the counts full and the log full. -/
theorem meets_RowMemory_3 :
    (seven.classBusy 0 = false ∧ seven.cur.vq ≠ [] ∧ (∃ segs, rowOut (withRegs seven [(4, 0x3FF00)]) = .ok segs) ∧ ∃ ps, scatterOut (withRegs seven [(4, 0x30000)]) = .ok ps)
    ∧ (∀ s ∈ [withRegs (withStr base fun x => { x with counts := { stores := 63 } }) [(4, 0x30000)], withRegs fullLog [(4, 0x30000)], withRegs base [(4, 0x30000)], withRegs base [(4, 0x1BF08)]], ∃ segs gs out : List Seg, s.classBusy 0 = false ∧ s.cur.vq = [] ∧ s.slotBusy gs = false ∧ rowOut s = .ok segs
        ∧ gs = withData segs (bytesOut s) ∧ out = s.withParts (if segs.any (fun g => g.loc.inSlots g.n) then (gs.flatMap Seg.atSlots).filter (fun g => !g.loc.inSlots g.n) else gs) ∧ ((segs.flatMap Seg.atSlots).all fun g => g.loc.inSlots g.n) = false
        ∧ (s.full false (s.classes out) = decide (s.counts.stores = 63)) ∧ ((s.reserve s.asid (s.segsReq out)).isSome = decide ((s.log 1).mode = 0)) ∧ (segs.any fun g => g.loc.inSlots g.n) = decide (s.reg 4 = 0x1BF08))
    ∧ (∃ (s : State) (g : Seg) (p : Nat), s.mem.wf = true ∧ p = s.homeFlat g.loc ∧ s.homeKey g.loc = none ∧ s.mirrorOf p = none ∧ g.data.length = g.n ∧ g.n = 8 ∧ writeErr s.mem s.lostDies none g.n p g.data = none)
    ∧ (∀ s ∈ [withRegs (withStr base fun x => { x with counts := { stores := 63 } }) [(4, 0x30000)], withRegs fullLog [(4, 0x30000)], withRegs base [(4, 0x30000)], indexed (withRegs base [(4, 0x1BFFC)]), withRegs base [(4, 0x1C000)]], ∃ (ps : List (Nat × List Seg)) (gs out : List Seg), s.classBusy 0 = false ∧ s.cur.vq = []
        ∧ s.slotBusy gs = false ∧ scatterOut s = .ok ps ∧ gs = scattered s ∧ out = gs.filter (fun g => !g.loc.inSlots g.n) ∧ (((gs.flatMap Seg.atSlots).all fun g => g.loc.inSlots g.n) = decide (s.reg 4 = 0x1C000))
        ∧ (s.full false (s.classes out) = decide (s.counts.stores = 63)) ∧ ((s.reserve s.asid (s.segsReq out)).isSome = decide ((s.log 1).mode = 0)) ∧ (out ≠ [] ↔ s.reg 4 ≠ 0x1C000)) := by
  refine ⟨⟨by decide +kernel, by decide +kernel, ok_of (by decide +kernel), ok_of (by decide +kernel)⟩, ?_, ⟨base, { va := 0x1C000, loc := .core 0 0 0xC000 true, n := 8, data := List.replicate 8 (some 1) }, _, by decide +kernel, rfl, by decide +kernel⟩, ?_⟩
  · intro s h
    refine ⟨okD (rowOut s) [], withData (okD (rowOut s) []) (bytesOut s), _, ?_, ?_, ?_, okD_eq ?_, rfl, rfl, ?_⟩ <;> revert s <;> decide +kernel
  · intro s h
    refine ⟨okD (scatterOut s) [], scattered s, _, ?_, ?_, ?_, okD_eq ?_, rfl, rfl, ?_⟩ <;> revert s <;> decide +kernel
/-! Engines, accesses and tile tasks. -/

/-- COPIES at 63, and a bank of claims that is full, for a GET, a PUT, a copy and an ARMW; sixteen GETs and PUTs of the core; a destination in the own slot, which is precise; the page of a destination. -/
def fullBank (s : State) : State := { s with claims := (List.range 96).flatMap fun b => List.replicate 32 { owner := 8, write := false, bank := b, lo := 0, hi := 0 } }
def copiesFull (s : State) : State := withStr s fun x => { x with counts := { copies := 63 } }
def slotGet : State := withRegs tiling [(3, 0x1C000), (4, 0x8FFC0), (5, 64)]
def slotPlan : Plan := (copyPieces (2 * ((slotGet.reg 5).toNat / 2 ^ 16) + 4) (slotGet.reg 4).toNat (slotGet.reg 3).toNat (slotGet.reg 5).toNat).foldl (slotGet.plan .outside .scratch true [] none) {}
theorem meets_EngineInstructionsIssue_2 :
    (withRegs (withStr base fun x => { x with counts := { stores := 1 } }) [(10, 31)]).counts.stores ≠ 0 ∧ ((withRegs base [(10, 31)]).reg 10).toNat < 32
    ∧ (getHere.engines = [] ∧ ∃ s : State, s.classBusy 0 = false ∧ s.counts.stores = 0 ∧ s.reg 5 ≠ 0 ∧ 16 ≤ (s.engines.filter fun e => e.core == s.focus && (match e.kind with | .get | .put => true | _ => false)).length)
    ∧ (∀ s ∈ [getHere, putHere, copyHere], ∀ p ∈ [getPlan], (copiesFull s).classBusy 0 = false ∧ (copiesFull s).counts.stores = 0 ∧ 63 ≤ (copiesFull s).counts.copies ∧ ∀ e ∈ p.fails, e.2.precise = false)
    ∧ ((fullBank getHere).claimsWait ((fullBank getHere).claimsFor (fullBank getHere).nextId false getPlan.claims) getPlan.claims = true ∧ (fullBank getHere).counts.stores = 0 ∧ (fullBank getHere).classBusy 0 = false)
    ∧ (slotGet.classBusy 0 = false ∧ slotGet.counts.stores = 0 ∧ ∃ e, slotPlan.fails.find? (fun e => e.2.precise) = some e)
    ∧ (∃ pg, getHere.pageOf 0x1BFC0 = some pg)
    ∧ (∃ (s : State) (n ph key : Nat), (s.reg 4).toNat < 2 ^ 56 ∧ s.classBusy 0 = false ∧ s.counts.stores = 0 ∧ n = aBytes (armwWidth .fadd64) ∧ (s.reg 4).toNat % n = 0 ∧ s.xlate (.chiplet s.chipHere) s.asid s.vcn s.pos .at (s.reg 4).toNat = .ok (.hbm ph key) ∧ s.homeKey (.hbm ph key) ≠ none
        ∧ s.claimsWait (s.claimsFor s.nextId false [(false, .hbm ph key, n), (true, .hbm ph key, n)]) [(false, .hbm ph key, n), (true, .hbm ph key, n)] = true) := by
  exact ⟨by decide +kernel, by decide +kernel, ⟨by decide +kernel, { getHere with engines := List.replicate 16 { engOne with kind := .put } }, by decide +kernel⟩, by decide +kernel, by decide +kernel,
    ⟨by decide +kernel, by decide +kernel, some_of (by decide +kernel)⟩, some_of (by decide +kernel),
    ⟨fullBank (withRegs base [(4, 0x8FFF8)]), 8, 0x1FFF8, 0, by decide +kernel, by decide +kernel, by decide +kernel, by decide +kernel, by decide +kernel, ok_is (by decide +kernel), by decide +kernel⟩⟩

/-- An operation whose arrival has not been sent. -/
def unsent (c : Word) (n : Nat) (f : EngOp → EngOp) : State := { (atEngine fun e => f { e with moved := true, arrived := false, arr := some (c, { counter with n := n }) }) with claims := [] }
/-- A copy that nothing parks; an arrival behind an older generation of the core's messages, behind forwarded ones, held by the shadow, stale, at a claim, and there; completion of a running strand's operation. -/
theorem meets_EngineOperationsMoveArriveAndComplete_2 :
    (∃ e, (atEngine id).engine? 9 = some e ∧ e.parked = none) ∧ (∃ (s : State) (e : EngOp), s.engine? 9 = some e ∧ e.settled = true ∧ s.hostIf.sigReads.lookup 9 = none)
    ∧ (∃ (s : State) (e : EngOp), s.engine? 9 = some e ∧ e.performedAll = true ∧ e.arrived = false ∧ e.arr = some (0x30000, counter) ∧ e.arrGens = [] ∧ s.genWaits e.core e.id (s.arrStamps e) = true)
    ∧ (∃ (s : State) (e : EngOp), s.engine? 9 = some e ∧ e.performedAll = true ∧ e.arrived = false ∧ e.arr = some (0x30000, counter) ∧ s.wayOf (s.arrStamps e) e.arrFwd = .waits)
    ∧ (∀ w ∈ [Way.held, .stale], ∃ (s : State) (e : EngOp), s.engine? 9 = some e ∧ e.performedAll = true ∧ e.arrived = false ∧ e.arr = some (0x30000, counter) ∧ (e.arrGens ≠ [] ∨ s.genWaits e.core e.id (s.arrStamps e) = false) ∧ s.wayOf (s.arrStamps e) e.arrFwd = w)
    ∧ (∃ (s : State) (e : EngOp), s.engine? 9 = some e ∧ e.performedAll = true ∧ e.arrived = false ∧ e.arr = some (0x30000, counter) ∧ e.arrGens = [] ∧ s.genWaits e.core e.id (s.arrStamps e) = false ∧ s.wayOf (s.arrStamps e) e.arrFwd = .there ∧ s.arrivalHeld e.arrSeq counter = true)
    ∧ (∀ cn ∈ [((0x30000 : Word), 16), (0x0100000000030000, 8)], ∃ (s : State) (e : EngOp) (g : Seg), s.engine? 9 = some e ∧ e.performedAll = true ∧ e.arrived = false ∧ e.arr = some (cn.1, g) ∧ e.arrGens = [] ∧ s.genWaits e.core e.id (s.arrStamps e) = false ∧ s.wayOf (s.arrStamps e) e.arrFwd = .there ∧ s.homeFault g.loc = none
        ∧ s.arrivalHeld e.arrSeq g = false ∧ s.parkedBefore none [g] = false ∧ isOk (s.readSegs [g]) = true ∧ g.parts = [] ∧ s.migrations = [] ∧ s.mem.wf = true ∧ g.n = (if cn.1.getLsbD 56 then 8 else 16))
    ∧ (∃ (s : State) (e : EngOp) (y : Strand), s.engine? 9 = some e ∧ e.performedAll = true ∧ e.arrived = true ∧ (∀ c ∈ s.claims, c.tile = true ∨ c.owner ≠ 9) ∧ s.strand? e.sid = some y ∧ s.cur.run = some e.sid) := by
  simp only [List.forall_mem_cons, List.not_mem_nil, false_imp_iff, implies_true, and_true]
  exact ⟨⟨_, rfl, rfl⟩, ⟨atEngine fun e => { e with moved := true }, _, rfl, by decide +kernel⟩,
    ⟨{ unsent 0x30000 16 id with flight := [{ access .store [] with gens := [(0, 1)] }] }, _, rfl, by decide +kernel, by decide +kernel, rfl, rfl, by decide +kernel⟩,
    ⟨{ unsent 0x30000 16 (fun e => { e with arrGens := [(0, 0)], arrFwd := some 3 }) with clusters := [(0, { rot := .copying })] }, _, rfl, by decide +kernel, by decide +kernel, rfl, by decide +kernel⟩,
    ⟨⟨{ unsent 0x30000 16 id with clusters := [(0, { rot := .copying })] }, _, rfl, by decide +kernel, by decide +kernel, rfl, .inr (by decide +kernel), by decide +kernel⟩,
      ⟨{ unsent 0x30000 16 (fun e => { e with arrGens := [(0, 0)] }) with map := [(0, { pcn := 0, valid := true, gen := 1 })] }, _, rfl, by decide +kernel, by decide +kernel, rfl, .inl (by decide +kernel), by decide +kernel⟩⟩,
    ⟨{ unsent 0x30000 16 id with claims := [{ owner := 8, write := true, bank := (banksOf (base.homeFlat counter.loc) 16).getD 0 0, lo := base.homeFlat counter.loc, hi := base.homeFlat counter.loc + 63 }] }, _, rfl, by decide +kernel, by decide +kernel, rfl, rfl, by decide +kernel⟩,
    ⟨⟨unsent 0x30000 16 id, _, counter, rfl, by decide +kernel, by decide +kernel, rfl, rfl, by decide +kernel⟩, ⟨unsent 0x0100000000030000 8 id, _, { counter with n := 8 }, rfl, by decide +kernel, by decide +kernel, rfl, rfl, by decide +kernel⟩⟩,
    ⟨{ (atEngine fun e => { e with moved := true }) with claims := [] }, _, strandOne, rfl, by decide +kernel⟩⟩

/-- One of several accesses of a scatter, and the last of them; an atomic on a block that nothing rewrites; a row that loses nothing; a logged store whose place stands. -/
def grouped (a : Access) : State := { sent { a with group := some 5 } with flight := [{ a with group := some 5 }, { a with group := some 5, id := 6 }] }
theorem meets_AccessesArePerformedAndAnswered_2 :
    (∃ (s : State) (a : Access), s = grouped storeA ∧ ArrivesHere s 5 a ∧ a.op = .store ∧ s.claimed true a.segs = false ∧ s.cur.run = some a.sid ∧ ∃ c ∈ s.flight, c.id ≠ a.id ∧ c.group = a.group ∧ a.group ≠ none ∧ c.stage.isPerformed = false)
    ∧ (∃ (s : State) (a : Access), s = sent (atomA .add .w64) ∧ ArrivesHere s 5 a ∧ a.group = none ∧ s.rewriting a.segs = false)
    ∧ (∃ (s : State) (a : Access) (d : RowId), s = sent { loadA with stage := .performed (List.replicate 8 7) 0, dest := .row 4 false ((List.range 256).map fun n => if n < 8 then some n else none) } ∧ s.access? 5 = some a ∧ a.group = none ∧ s.lostWords false d (wroteBy ((List.range 256).map fun n => if n < 8 then some n else none) []) = [])
    ∧ (∃ (s : State) (a : Access), s = sent { storeA with stage := .logWait, rsv := [(0, 80)] } ∧ s.access? 5 = some a ∧ a.stage = .logWait ∧ s.arrive a = .here ∧ s.noPlace a = none) :=
  ⟨⟨_, { storeA with group := some 5 }, rfl, arrives_of (by decide +kernel), by decide +kernel⟩, ⟨_, atomA .add .w64, rfl, arrives_of (by decide +kernel), by decide +kernel⟩,
    ⟨_, { loadA with stage := .performed (List.replicate 8 7) 0, dest := .row 4 false ((List.range 256).map fun n => if n < 8 then some n else none) }, 4, rfl, by decide +kernel⟩,
    ⟨_, { storeA with stage := .logWait, rsv := [(0, 80)] }, rfl, by decide +kernel⟩⟩

/-- A compaction whose mask can be read and one whose mask cannot; an operand that the stager copies; candidates that were not ready in the previous clock, beside ones that were and alone; a cluster that grants nothing. Whether the members of a reduction differ is open (log 44): for each root of a running strand the clause holds whichever it is. -/
def waitingBaq : TileRoot := { root .baq [] with st := .waiting, level := 5 }
def withPeers : State := { linked (tasks waitingBaq) with ctxs := [(1, { ctxOne with peerList := [0] })] }
theorem members_open : withPeers.membersDiffer waitingBaq = Config.membersDiffer 20 := by
  have h : (waitingBaq.gateway && (((withPeers.ctx? waitingBaq.asid).map fun c => c.peerList).getD []).any fun i => !withPeers.ownPeer i) = true := by decide +kernel
  rw [State.membersDiffer, h]; rfl
def compacting (b : Nat) : TileRoot := { root .compact [] with st := .waiting, d := { base := 0x31000, fmt := .n8, cols := 4, rowstride := 4 }, a := some { base := 0x10000, fmt := .n8, cols := 4, rowstride := 4 }, b := some { base := b, fmt := .n8, cols := 4, rowstride := 4 } }
theorem meets_TileTasksAreDealtRunAndReported_2 :
    (∃ (s : State) (r : TileRoot) (m : Option (List Bool)), s = tasks (compacting 0x10100) ∧ s.root? 20 = some r ∧ r.st = .waiting ∧ s.olderConflict r = false ∧ r.gateway = false ∧ r.leafUnits ≠ [] ∧ s.membersDiffer r = false ∧ s.readMask r = .ok m)
    ∧ (∃ (s : State) (r : TileRoot) (f : Fail), s = tasks (compacting 0xB0000) ∧ s.root? 20 = some r ∧ r.st = .waiting ∧ s.olderConflict r = false ∧ r.gateway = false ∧ r.leafUnits ≠ [] ∧ s.membersDiffer r = false ∧ s.readMask r = .error f ∧ s.cur.run = some r.sid ∧ s.cur.str.ending = false)
    ∧ (∃ (s : State) (r : TileRoot), s.root? 20 = some r ∧ r.st = .waiting ∧ r.gateway = true ∧ s.olderConflict r = false ∧ s.gatewayCores ≠ [] ∧ r.leafUnits ≠ [] ∧ s.membersDiffer r = Config.membersDiffer 20 ∧ s.cur.run = some r.sid ∧ s.cur.str.ending = false)
    ∧ (∃ (s : State) (r : TileRoot) (l : Leaf) (a : Nat) (bs : List Byte), s.leaf? 20 0 = some (r, l) ∧ (a, bs) ∈ s.stagedCopy r l)
    ∧ (∃ (s : State) (r : TileRoot) (l : Leaf) (b : Nat) (f : Fail), s.leaf? 20 0 = some (r, l) ∧ l.st = .staging ∧ r.level = 1 ∧ (s.coreAt (s.pieceCore r)).vq.length < 8 ∧ s.clusterWorks (s.host l.vcn) = true ∧ s.stageFault r l = some (b, f))
    ∧ (risePass (some 5) [3] { key := 4, weight := 1, clocks := 4, pass := 2 } ≠ { key := 4, weight := 1, clocks := 4, pass := 2 } ∧ (4 : Nat) ∉ [3] ∧ lowPass [7, 5, 6] = some 5)
    ∧ (∃ s : State, s.matrixBusy 0 = true) ∧ (∃ s : State, s.grants 0 = false) ∧ base.matrixCands 0 = [] := by
  exact ⟨⟨_, compacting 0x10100, _, rfl, by decide +kernel, by decide +kernel, by decide +kernel, by decide +kernel, by decide +kernel, by decide +kernel, okD_eq (d := none) (by decide +kernel)⟩,
    ⟨_, compacting 0xB0000, errD ((tasks (compacting 0xB0000)).readMask (compacting 0xB0000)) default_fail, rfl, by decide +kernel, by decide +kernel, by decide +kernel, by decide +kernel, by decide +kernel, by decide +kernel, errD_eq (by decide +kernel), by decide +kernel⟩,
    ⟨withPeers, waitingBaq, by decide +kernel, by decide +kernel, by decide +kernel, by decide +kernel, by decide +kernel, by decide +kernel, members_open, by decide +kernel⟩,
    ⟨tasks (root .add [leafOne]), root .add [leafOne], leafOne, 0x10000, [0, 0, 0, 0], by decide +kernel⟩,
    ⟨tasks { stagedL1 with a := some { base := 0xB0000 } }, { stagedL1 with a := some { base := 0xB0000 } }, { leafOne with st := .staging }, 0, { cause := 0x04, sub := 0x01, addr := 0xB0000 }, by decide +kernel⟩,
    by decide +kernel, ⟨tasksAnd (root .add [leafOne]) (fun c => { c with matrix := some (.core 0 []), matrixUntil := 48 }), by decide +kernel⟩, ⟨tasksAnd (root .add [leafOne]) (fun c => { c with rot := .test }), by decide +kernel⟩, by decide +kernel⟩

/-- Two instructions have completed on a virtual cluster whose counter 3 counts them and stands one below its wrap, and a die that is aligned a little ahead of the master. -/
def counting : State :=
  { base with
    events := [(eventKey base.vcn 0x02, 2)]
    vcs := base.vcs.set base.vcn { base.vc base.vcn with pmc := [(3, { cfg := 0x102, cnt := 0xFFFFFFFFFFFF })] }
    hostIf := { base.hostIf with beaconAt := [(5, base.ptime)], offsets := [(5, 3), (6, -9)] } }
theorem meets_HealthPowerAndHostPortEvents_3 :
    (counting.countable counting.vcn 0x02 2 = true ∧ counting.countable counting.vcn 0x02 3 = false) ∧ counting.countable counting.vcn 0x0D 0 = false
    ∧ counting.aligned 5 = true ∧ counting.aligned 6 = false ∧ counting.dieTime 5 = counting.ptime + 3 := by decide +kernel
/-- R326: the wrap of COUNT, its OVF bit, and the events as CSRR sees them before PMC_EVENT has counted them. -/
theorem test_counter_wraps :
    counting.csrValue (.pmcnt 3) = 1 ∧ counting.csrValue .pmovf = 8 ∧ ((counting.countDue counting.vcn).vc counting.vcn).pmOvf = 8
    ∧ (((counting.countDue counting.vcn).vc counting.vcn).pmc.getD 3 {}).cnt = 1 := by decide +kernel
end Sys2Proof.Tests
end

namespace Sys2Proof.Machine

/-- Settles O8: the reset state's memory lists no cell, and the empty list is in canonical form. -/
theorem resetMemoryIsCanonical : Obligations.ResetMemoryIsCanonical := by
  unfold Obligations.ResetMemoryIsCanonical MemInv
  exact reset_wf

end Sys2Proof.Machine
